-- ==== Sys2Proof/Word.lean ====
section
/-! DEFINITION. The words of the device: bytes, 16-, 32- and 64-bit words, one logical block and its metadata, and
the plainest arithmetic on them. Bit 0 is the least significant bit and byte 0 of a structure is its lowest (R4, R5). -/

namespace Sys2Proof

abbrev Byte := BitVec 8
abbrev U16 := BitVec 16
abbrev U32 := BitVec 32
abbrev U64 := BitVec 64

/-- One logical block of 4096 bytes; byte i is bits 8i+7 to 8i (R4, R5). -/
abbrev Block := BitVec 32768

/-- The 64 bytes of tenant metadata of a block (Table CM-2, META). -/
abbrev Meta := BitVec 512

end Sys2Proof
end

