-- ==== Sys2Proof/Syntax.lean ====
section
/-! DEFINITION. The commands the device takes, one constructor per row of spec/opcode_table.json, and the operands
they carry: frames of the Ethernet transport, words written to registers, numbers of parts, and what the board, the
flash and the DRAM answer. The table gives its rows no bits and no operands: the operands are the model's (log entry 2). -/

namespace Sys2Proof

/-- Encapsulation a frame came in (Table TP-2). -/
inductive Encap where
  | raw | udp4 | udp6
deriving DecidableEq, Repr

/-- Source of a frame: its encapsulation, L2 and L3 source addresses, UDP source port, DSCP or traffic class (R90, R91,
R270). -/
structure Source where
  encap : Encap
  mac : BitVec 48
  ip4 : BitVec 32
  ip6 : BitVec 128
  port : U16
  dscp : Byte
deriving DecidableEq, Repr

/-- The UDP checksum of a frame: 0, the computed one, or another value (R90). -/
inductive UdpSum where
  | zero | good | bad
deriving DecidableEq, Repr

/-- What the outer headers of a received frame target (R89, R90): its 802.1Q tags, the destination addresses, the UDP
destination port and the UDP checksum. A raw frame has no IP addresses, no port and no checksum: they do not count. -/
structure Outer where
  tags : List U16
  mac : BitVec 48
  ip4 : BitVec 32
  ip6 : BitVec 128
  port : U16
  sum : UdpSum
deriving DecidableEq, Repr

/-- The ETP header of Table TP-4 but for TYPE, which the command gives. -/
structure Header where
  version : Byte
  flags : U16
  inst : U16
  slot : U16
  seq : U32
  ack : U32
  len : U16
  block : U16
  time : U32
  echo : U32
  link : Byte
  incarn : Byte
  reserved : U16
deriving DecidableEq, Repr

/-- Where a frame came from and its header. -/
structure Env where
  link : Fin 16
  src : Source
  outer : Outer
  hdr : Header
deriving DecidableEq, Repr

/-- The authentication trailer of Table TP-7; a frame carries it when FLAGS.AUTH = 1 (R97). -/
structure Trailer where
  counter : U64
  tag : BitVec 128
  keyGen : Byte
  reserved : BitVec 56
deriving DecidableEq, Repr

/-- A TASK frame: its 64-byte record with byte 0 lowest (Table CM-2); the trailer counts when AUTH = 1. -/
structure TaskFrame where
  env : Env
  record : BitVec 512
  trailer : Trailer
deriving DecidableEq, Repr

/-- An up DATA frame: one block, and its metadata when FLAGS.META = 1 (Table TP-6). -/
structure DataFrame where
  env : Env
  data : Block
  md : Meta
deriving DecidableEq, Repr

/-- An up ACK frame (Table TP-9). -/
structure AckFrame where
  env : Env
  sack : U64
  gapFirst : U32
  gapCount : U16
  reserved : U16
deriving DecidableEq, Repr

/-- A MGMT request (Table TP-13). -/
structure MgmtFrame where
  env : Env
  op : Byte
  count : Byte
  reserved : U16
  addr : U32
  data : List U32
  trailer : Trailer
deriving DecidableEq, Repr

/-- Request data of RELEASE_BINDING (Table SU-7A). `sigOk`: whether SIGNATURE verifies over bytes 0x00–0x0F (R320). -/
structure ReleaseData where
  serial : U64
  operatorId : U32
  slot : Byte
  reserved : BitVec 24
  sigOk : Bool
deriving DecidableEq, Repr

/-- A DIAG request: 16-byte body and RELEASE_BINDING's data (R82, R99). -/
structure DiagFrame where
  env : Env
  op : Byte
  result : Byte
  reserved : U16
  reqId : U32
  arg : U64
  release : Option ReleaseData
deriving DecidableEq, Repr

/-! ### Configuration image (Tables SU-4 to SU-6) and the entries' values -/

/-- One LINK[n] of the PORTS entry (Table TP-3). -/
structure LinkAddr where
  mac : BitVec 48
  ip4 : BitVec 32
  ip6 : BitVec 128
deriving DecidableEq, Repr

/-- PORTS entry value (Table TP-3); lane polarity is kept with it (R47). -/
structure PortsEntry where
  mode0 : Byte
  mode1 : Byte
  txpol : U16
  rxpol : U16
  udpPort : U16
  vlan : U16
  pfc : Byte
  encap : Byte
  links : List LinkAddr
deriving DecidableEq, Repr

/-- One INPUT[n] of the SENSORS entry (Table PW-9). -/
structure SensorInput where
  type : Nat
  param : Nat
  offset : Int
deriving DecidableEq, Repr

/-- SENSORS entry value (Table PW-9): limits WARN, THR1, THR2, CRIT of the groups NAND, DRAM and supply, in °C. -/
structure SensorsEntry where
  policy : Nat
  margin : Nat
  limits : List Nat
  inputs : List SensorInput
deriving DecidableEq, Repr

/-- MEDIA_PROFILE entry value (Table MD-3). -/
structure MediaProfile where
  profileId : Nat
  cell : Nat
  planes : Nat
  pflags : Nat
  slcPct : Nat
  pages : Nat
  blocks : Nat
  pageRaw : Nat
  spareBlocks : Nat
  tReadUs : Nat
  tSuspUs : Nat
  tProgSlcUs : Nat
  tProgUs : Nat
  tEraseUs : Nat
  limitPct : Nat
  endurance : Nat
  rateMts : Nat
  softStages : Nat
  refreshBits : Nat
  suspOp : Byte
  resumeOp : Byte
  offsetFa : Byte
  retrySteps : Nat
  retryTable : BitVec 256
  pagePrefix : BitVec 128
deriving DecidableEq, Repr

/-- DRAM entry value (Table MM-1). -/
structure DramEntry where
  org : Nat
  ranks : Nat
  dieGbit : Nat
  sp0 : Nat
  sp1 : Nat
  drive : Byte
  odt : Byte
deriving DecidableEq, Repr

/-- Value of a body entry (Table SU-6), each laid out as its own chapter's table gives. -/
inductive EntryValue where
  | ports (v : PortsEntry)
  | sensors (v : SensorsEntry)
  | twin (dirtyLimitMib : Nat)
  | mediaProfile (v : MediaProfile)
  | dram (v : DramEntry)
  | managerKey (keySerial : Nat) (wrapped : List Byte)
  | recorder (devSizeMib : Nat) (instEnable : Nat)
  | faultLimits (missLimit missWindowMs repeatLimit capmin : Nat)
  | power (permit idleEn idleMs timerS : Nat)
  | other
deriving DecidableEq, Repr

/-- A body entry as R67 frames it: TYPE, LEN, whether its reserved bytes are 0, and the value. -/
structure Entry where
  type : Nat
  len : Nat
  reservedZero : Bool
  value : EntryValue
deriving DecidableEq, Repr

/-- A configuration image as it reads (Tables SU-4, SU-5): the slot's bytes and the fields they spell. `serialBound` and
`formatAllowed` are FLAGS; the outcomes of the two signature checks (R320) come with the slot. -/
structure Image where
  bytes : List Byte
  magic : U32
  format : U16
  hdrLen : U16
  version : U32
  totalLen : Nat
  certOffset : Nat
  certLen : Nat
  bodyOffset : Nat
  bodyLen : Nat
  sigOffset : Nat
  reservedZero : Bool
  operatorId : U32
  minFw : Nat
  formatAllowed : Bool
  serialBound : Bool
  deviceSerial : U64
  certMagic : U32
  certOperatorId : U32
  keyVersion : Nat
  certReservedZero : Bool
  poltasSigOk : Bool
  sigOk : Bool
  bodyHash : BitVec 512
  entries : List Entry
deriving DecidableEq, Repr

/-- A slot of the configuration NOR: its bytes from the slot's start, 0 beyond those listed, and whether POLTAS_SIG and
SIGNATURE verify (R320, log entry 7). -/
structure NorSlot where
  bytes : List Byte
  poltasSigOk : Bool
  sigOk : Bool
deriving DecidableEq, Repr

/-- The configuration NOR as step 7 reads it (R64, R65). -/
structure Nor where
  sfdpOk : Bool
  densityMib : Nat
  slotA : NorSlot
  slotB : NorSlot
deriving DecidableEq, Repr

/-- Outcomes of the self-tests of Table SU-2 and of the trainings. `sramRow`: the row that could not be repaired. -/
structure SelfTest where
  lbistOk : Bool
  brokenLines : List (Fin 384)
  sramOk : Bool
  landingOk : Bool
  sramRow : Nat
  sramRepairs : Nat
  marginOk : List Bool
  fwSigOk : List Bool
  badLanes : List (Fin 192)
  badKeccak : List (Fin 4)
  trngOk : Bool
  badCores : List (Fin 16)
  badDram : List (Fin 24)
  badNand : List (Fin 64)
  dies : List (Fin 4096)
  rates : List Nat
  durationUs : Nat
  dikOk : Bool
deriving DecidableEq, Repr

/-- What the media system area answers at steps 10 and 11 (R72, R73): whether it is found and readable in a copy; the
copies, 0 and 1, of epoch snapshots and epoch records that fail their checksum, by epoch number; the accepted tasks,
by instance and TASK_SEQ, whose durability it and the parts of the dump that can be read do not confirm (R27); and the
records of the SLC journal whose CHECK fails, by JSEQ and copy (R199). -/
structure SysAreaRead where
  found : Bool
  readable : Bool
  badSnapshots : List (Nat × Fin 2)
  badRecords : List (Nat × Fin 2)
  unconfirmed : List (Fin 1024 × U32)
  journal : List (Nat × Fin 2)
deriving DecidableEq, Repr

/-- An assertion of PFAIL_N, or else of RESET_N, while a start is at a step (R57, R77). -/
structure StartCut where
  step : Nat
  pfail : Bool
deriving DecidableEq, Repr

/-- What a cold start meets on the board and in the silicon. Junction reading in quarter °C; `laneInv`: receive lane l
of port p is inverted where bit 8p + l is 1 (R81); `cut`: an assertion that stops the start. -/
structure Board where
  straps : Byte
  junction : Int
  test : SelfTest
  nor : Nor
  area : SysAreaRead
  laneInv : U16
  cut : Option StartCut
deriving DecidableEq, Repr

/-- What a warm start meets: the tests of Table SU-9, whether the image re-measures as kept (R75, R78), and an assertion
at one of its steps (R77). -/
structure WarmInputs where
  test : SelfTest
  imageMatches : Bool
  cut : Option StartCut
deriving DecidableEq, Repr

/-- Cause of a warm start: the word written to SYS_RESETREQ, or a firmware activation (R75). -/
inductive WarmCause where
  | manager (v : U32)
  | activation
deriving DecidableEq, Repr

/-- The rails of Table PK-5 but VSS. -/
inductive Rail where
  | aon | io18 | ts | pll | core | srd | dphy | nphy | srdh | vccqNand | vddqDram
deriving DecidableEq, Repr

/-- One measurement (R405, R406). Temperatures in quarter °C; a diode's voltage at its lowest current in mV; a
thermistor's resistance in Ω with the temperature its formula gives. -/
inductive Measure where
  | site (n : Fin 8) (d0 d1 : Int)
  | diode (n : Fin 24) (mv : Nat) (temp : Int)
  | thermistor (n : Fin 24) (ohms : Nat) (temp : Int)
deriving DecidableEq, Repr

/-- Outcome of an array read and the decoding of its codeword (R247 leaves the stage open). -/
inductive ReadOutcome where
  | decoded (stage : Nat)       -- declared decoded at stage 1–4
  | failed                      -- every stage that SOFT_STAGES allows failed
deriving DecidableEq, Repr

/-- What an open lane was fed: the bytes stored, and its tag check decides; bytes that differ from them, so that the tag fails;
or a buffer marked poison (R310, R336). -/
inductive LaneOutcome where
  | pass | tagFail | poison
deriving DecidableEq, Repr

/-- The internal deadlines, one per row of Table LT-7. -/
inductive InternalDeadline where
  | handshake | rejectSent | ackSent | abortAttempt | caughtRelease | delivery | deviceAbort | hwtWait | suspension
  | startStep | dumpStep
deriving DecidableEq, Repr

/-- Cause of a deadline miss (Table LT-6). -/
inductive MissCause where
  | queue | suspendBudget | softDecode | reconstruct | twinWait | commitHold | keyWait | fault | derate | egress
  | restart | other
deriving DecidableEq, Repr

/-- What the patrol found on a programmed slot (R264, R265): the stage that declared it decoded and the bits corrected there;
or every stage failed and the stripe gave it back, or not. -/
inductive ScrubOutcome where
  | decoded (stage bits : Nat)
  | reconstructed
  | lost
deriving DecidableEq, Repr

/-- The state commanded by a participant's answer in PREPARE (Table PW-3). -/
inductive PrepareOutcome where
  | allAgree
  | refusedBy (domain : Fin 17)
deriving DecidableEq, Repr

/-- Who issues a code-flash command: the manager, by the word it writes to CFL_CMD, or steward firmware at its own port
with the bank that the core fetches from (none: it runs from retention RAM) and the target. -/
inductive CflPort where
  | manager (v : U32)
  | firmware (fetch : Option (Fin 2)) (bank : Fin 2) (sector : Fin 128) (granule : Fin 256) (data : BitVec 2048)
deriving DecidableEq, Repr

/-- What a read of the code flash finds in its words (R356). -/
inductive CflEcc where
  | clean | corrected | uncorrectable
deriving DecidableEq, Repr

/-- A read of the code flash: who asks, and what it finds. -/
structure CflReadOp where
  port : CflPort
  ecc : CflEcc
deriving DecidableEq, Repr

/-- What a port drops silently: the frame's length and the uncorrectable FEC codewords that it holds (R86). -/
structure Dropped where
  bytes : U16
  badCodewords : Nat
deriving DecidableEq, Repr

/-- The commands, one per row of spec/opcode_table.json. -/
inductive Instr where
  | coldStart (b : Board)
  | sysRefclkStable
  | thermalHoldEnd
  | resetNAssert
  | pfailNAssert
  | dumpEndMarker
  | pfailNRelease
  | railOutOfTolerance (r : Rail)
  | sysRefclkLoss
  | portRefclkLoss (port : Fin 2)
  | linkDown (l : Fin 16)
  | linkUp (l : Fin 16)
  | warmStart (c : WarmCause) (w : WarmInputs)
  | warmStartDeferred (w : WarmInputs)
  | internalColdStart (b : Board)
  | bypass
  | idcode
  | extest
  | extestPulse
  | extestTrain
  | clamp
  | highz
  | pmbAlert (status : U16)
  | avsbusTransactionFail
  | operatingPointAdjust (cyclePs : U16)
  | thermalMeasurement (m : Measure)
  | thermalStepFall
  | shutdown (reading : Int)
  | derateForce (v : U32)
  | dataFrame (f : DataFrame)
  | ackFrame (f : AckFrame)
  | probe (f : AckFrame)
  | resend (f : AckFrame)
  | ackDelayExpiry (i : Fin 1024)
  | gapRequestRepeat (i : Fin 1024)
  | gapTimeout (i : Fin 1024)
  | retransmissionTimeout (i : Fin 1024)
  | regRead (f : MgmtFrame)
  | regWrite (f : MgmtFrame)
  | lowWordRead (addr : U32)
  | diagIdentify (f : DiagFrame)
  | stestReport (f : DiagFrame)
  | recordRead (f : DiagFrame)
  | certRead (f : DiagFrame)
  | measure (f : DiagFrame)
  | releaseBinding (f : DiagFrame)
  | echo (f : DiagFrame)
  | linkStatus (f : DiagFrame)
  | arpRequest (l : Fin 16) (target : BitVec 32) (vlan : Option U16) (src : Source)
  | neighborSolicitation (l : Fin 16) (target : BitVec 128) (vlan : Option U16) (src : Source)
  | pauseFrame (l : Fin 16) (priority : BitVec 3) (quanta : U16)
  | xoffRefresh (port : Fin 2)
  | read (f : TaskFrame)
  | write (f : TaskFrame)
  | append (f : TaskFrame)
  | zoneOpen (f : TaskFrame)
  | zoneClose (f : TaskFrame)
  | zoneFinish (f : TaskFrame)
  | zoneReset (f : TaskFrame)
  | zoneReport (f : TaskFrame)
  | txnBegin (f : TaskFrame)
  | txnCommit (f : TaskFrame)
  | txnAbort (f : TaskFrame)
  | abort (f : TaskFrame)
  | flush (f : TaskFrame)
  | identify (f : TaskFrame)
  | counters (f : TaskFrame)
  | mailboxSend (f : TaskFrame)
  | mailboxRead (f : TaskFrame)
  | keyLoad (f : TaskFrame)
  | keyErase (f : TaskFrame)
  | keyRotate (f : TaskFrame)
  | acceptanceInstant (i : Fin 1024)
  | twinWaitTimeout (i : Fin 1024)
  | keyUnwrapComplete (i : Fin 1024)
  | txnTimeout (i : Fin 1024) (txnId : U16)
  | journalPageProgrammed
  | nandReadComplete (die : Fin 4096) (plane : Fin 4) (o : ReadOutcome)
  | cipherBlockComplete (i : Fin 1024) (slot : Fin 256) (blk : Fin 256) (o : LaneOutcome)
  | missSubwindowEnd (i : Option (Fin 1024))
  | nandProgramComplete (die : Fin 4096) (pass : Bool)
  | nandEraseComplete (die : Fin 4096) (pass : Bool)
  | operationLimit (die : Fin 4096)
  | dieResetTimeout (die : Fin 4096)
  | suspensionTimeout (die : Fin 4096)
  | stagingExtentTimeout (i : Fin 1024) (zone : U32)
  | patrolScrub (i : Fin 1024) (conv : Bool) (addr : U64) (o : ScrubOutcome)
  | rebuildComplete (die : Fin 4096)
  | zqCalibrationShort (ch : Fin 64) (retrainOk : Bool)
  | retrain (ch : Fin 64) (v : U32) (ok : Bool)
  | flipBits (ch : Fin 64) (v : U32)
  | failProgramStatus (ch : Fin 64) (v : U32)
  | failEraseStatus (ch : Fin 64) (v : U32)
  | holdDieBusy (ch : Fin 64) (v : U32)
  | failTraining (ch : Fin 64) (v : U32)
  | handshakeTimeout (src : Fin 384) (stage : U64) (master : Byte)
  | faultLineError (src : Fin 384) (addr : U64) (master : Byte) (access : BitVec 4)
  | lineBroken (src : Fin 384)
  | captureWindowClose
  | internalDeadlineMiss (src : Fin 384) (row : InternalDeadline) (step : Nat)
  | firstValidClear (v : U32)
  | faultInjection (v : U32)
  | recordWrite
  | obsRdwinRead (word : Fin 32)
  | obsHeadRead
  | bpmFreeRead (pool : Fin 64)
  | talClr (v : U32)
  | bandwidthWindowEnd (rx tx : List Nat)
  | dramRefresh (ch : Fin 24) (onTime : Bool)
  | mr4Read (ch : Fin 24) (rate : BitVec 2)
  | trainingGather (ch : Fin 24) (drift : Nat) (marginOk : Bool)
  | setPointChange (v : U32)
  | dramScrub (ch : Fin 24) (addr : U64) (corrected : Bool)
  | dramUncorrectableRead (half : Fin 2) (addr : U64) (port : Fin 8) (otherOk otherCorrected : Bool)
  | copyRebuildComplete (ch : Fin 24)
  | dramRequestInSelfRefresh (port : Fin 8)
  | writeDataOnly (v : U32)
  | writeCheckBlockOnly (v : U32)
  | rawRead (v : U32)
  | cacheFillComplete (part : Fin 4) (line : U64) (way : Fin 16) (poison : Byte) (write : Bool)
  | mchEnable (v : U32)
  | invall (v : U32)
  | mchLock (way : Fin 16)
  | clean (v : U32)
  | inval (v : U32)
  | cleanInval (v : U32)
  | hwtLockRelease (line : U64)
  | trngHealthWindow (repetitionOk proportionOk : Bool)
  | trngRetest (pass : Bool)
  | maskReseed (half : Fin 2)
  | gracePeriodEnd (i : Fin 1024)
  | attestationRequest (v : U32)
  | attestationDone
  | installTestKey (v : U32)
  | zeroSlot (v : U32)
  | laneTest (v : U32) (katPass : Bool)
  | cflProgram (p : CflPort)
  | cflErase (p : CflPort)
  | eraseBank (p : CflPort)
  | cflRead (p : CflReadOp)
  | verify (p : CflPort) (sigOk : Bool)
  | activate (p : CflPort)
  | cflOperationComplete (bank : Fin 2) (withinLimit : Bool)
  | cflResume (bank : Fin 2)
  | release (i : Fin 1024) (v : U32)
  | doorbell (i : Fin 1024) (v : U32)
  | slateStageWrite (addr : U32) (v : U32)
  | check (v : U32)
  | apply (v : U32)
  | discard (v : U32)
  | slateDrainComplete
  | slateDrainTimeout
  | epochRecordProgrammed
  | commitMarkProgrammed (copyA copyB : Bool)
  | pwrReqRun (v : U32)
  | pwrReqTrim (v : U32)
  | pwrReqDoze (v : U32)
  | pwrReqStow (v : U32)
  | powerPolicyWrite (v : U32)
  | idleTimeout
  | timerWake
  | prepare (o : PrepareOutcome)
  | frameWake (l : Fin 16)
  | exitComplete
  | coldPowerUp
  | resetNLowTimeElapsed
  | dieSuspended (die : Fin 4096)
  | suspensionCapReached (die : Fin 4096)
  | dieResetAnswered (die : Fin 4096)
  | avsbusAcknowledge (mv : Nat)
  | evictionWritebackComplete (part : Fin 4) (line : U64)
  | silentlyDroppedFrame (l : Fin 16) (f : Dropped)
  | badHeaderFrame (e : Env) (type : Byte)
deriving DecidableEq, Repr

end Sys2Proof
end

