-- ==== Sys2Proof/Decode.lean ====
section
/-! DEFINITION. The decoder. The commands of a block arrive as frames, register accesses and events, and no row of
spec/opcode_table.json gives bits that would spell one: no word decodes to a command. -/

namespace Sys2Proof

/-- The command that a word spells by the table's bits: none, since no row of the table has bits. -/
def decodeTableWord (_nbits _w : Nat) : Option Instr := none

end Sys2Proof
end

