-- ==== Sys2Proof/Config.lean ====
section
/-! DEFINITION. What an implementation fixes and the values the spec leaves open. An opaque function has no value a
proof can see: a statement about it holds for every function. -/

namespace Sys2Proof.Config

open Sys2Proof

/-- Random bits drawn from the device's source (BOOT_ID, hedging; R315, R317): the n-th draw. Free value (log entry 5). -/
opaque freeBytes : Nat → List Byte

/-- ML-DSA-65 public key of a seed (Table TR-1; R317). Not stated by the spec (log entry 7). -/
opaque mldsaPublic : List Byte → List Byte

/-- ML-DSA-65 signature in hedged mode: seed, context, message, random bytes (R318–R320). Log entry 7. -/
opaque mldsaSign : List Byte → String → List Byte → List Byte → List Byte

/-- The eight check bytes of a 64-byte DRAM word (R334): the code's generator is not stated. Log entry 8. -/
opaque rsCheck : BitVec 512 → BitVec 64

/-- Decoder outcome of a word whose check bytes differ: true = corrected, false = uncorrectable (R334). Log entry 8. -/
opaque rsCorrectable : BitVec 512 → BitVec 64 → Bool

/-- The data a corrected word decodes to (R334). Log entry 8. -/
opaque rsCorrect : BitVec 512 → BitVec 64 → BitVec 512

/-- Map-cache line that holds the map entry of an instance's zone (R341, R344): the layout inside Table MM-3 is not
stated. Log entry 9. -/
opaque mapLine : Nat → Nat → Nat

/-- Line that holds the configuration root that Slate switches (R202): its address is not stated. Log entry 9. -/
opaque rootLine : Nat

/-- DRAM addresses, in copy A of Table MM-3's regions, of the n-th message of an instance's mailbox and of the journal record of
a JSEQ: the layout inside the regions is not stated. Log entry 119. -/
opaque msgAddr : Nat → Nat → Nat
opaque jrecAddr : Nat → Nat

/-- Word updates of the staged set of an HWT of a client over some map entries, and the DRAM address of its copy A (Table
TX-4): the layout is not stated. Log entry 9. -/
opaque hwtUpdates : Nat → Nat → Nat
opaque hwtSetAddr : Nat → Nat

/-- Secrets in fuses (DUS, Table TR-1): 32 bytes programmed at manufacture, never readable. Log entry 4. -/
opaque dus : List Byte

/-- Public-key certificates of the identity record (issuing CA and DIK), 10,976 bytes (R316, R318). Log entry 7. -/
opaque identityChain : List Byte

/-- Number of the n-th message placed in an instance's mailbox (R149): the numbering is not stated. Log entry 47. -/
opaque messageNumber : Nat → Nat → BitVec 64

/-- Handshake cycle in ps below which ten readings lower the core voltage in TRIM (R230, R394): not stated. Log entry 30. -/
opaque trimLowPs : Nat

/-- SYS_IDENT of stepping B0 (R3, Table SC-2). -/
def sysIdent : U32 := 0xE74001B0

/-- IDCODE of stepping B0 (R52). -/
def idcode : U32 := 0x20400B47

/-- Device slots (R121), transaction descriptors (R185), key slots (R306). -/
def deviceSlots : Nat := 65536
def deviceDescs : Nat := 6144
def openTxnLimit : Nat := 4096
def closingTxnLimit : Nat := 2048
def keySlots : Nat := 2048

end Sys2Proof.Config
end

