-- ==== Sys2Proof/Machine/Bits.lean ====
section
/-! DEFINITION. Bit fields, byte strings, ceiling division and the sparse maps in canonical form that the state is
held in: lists of (key, value) pairs with strictly rising keys. -/

namespace Sys2Proof.Machine

open Sys2Proof

/-- Field [lo+w-1 : lo] of a number, as a number (R5). -/
def bits (x lo w : Nat) : Nat := (x >>> lo) % 2 ^ w

/-- Bit `i` of a number. -/
def bit (x i : Nat) : Bool := x.testBit i

/-- A Boolean as a bit placed at position `i`. -/
def flag (b : Bool) (i : Nat) : Nat := if b then 2 ^ i else 0

/-- `w` little-endian bytes of a number, lowest first (R4). -/
def leBytes : Nat → Nat → List Byte
  | 0, _ => []
  | w + 1, x => BitVec.ofNat 8 x :: leBytes w (x / 256)

/-- The number that little-endian bytes spell (R4). -/
def ofLeBytes : List Byte → Nat
  | [] => 0
  | b :: bs => b.toNat + 256 * ofLeBytes bs

/-- The number that bytes spell with the most significant byte first. -/
def ofBeBytes (bs : List Byte) : Nat := bs.foldl (fun a b => 256 * a + b.toNat) 0

/-- `w` bytes of a number, most significant first. -/
def beBytes (w x : Nat) : List Byte := (leBytes w x).reverse

/-- ASCII bytes of a string. -/
def ascii (s : String) : List Byte := s.toList.map fun c => BitVec.ofNat 8 c.toNat

/-- ⌈a ÷ b⌉. -/
def ceilDiv (a b : Nat) : Nat := (a + b - 1) / b

/-- Serial comparison modulo 2^32: S − E as a signed number, −2^31 where they differ by exactly 2^31 (R100, R101). -/
def seqDiff (s e : U32) : Int := (s - e).toInt

/-- Saturating count register of 32 bits. -/
def satInc (x : Nat) : Nat := if x < 0xFFFFFFFF then x + 1 else x

/-! ### Sparse maps, in canonical form: keys strictly rising -/

/-- Look a key up. -/
def amGet? {α : Type} : List (Nat × α) → Nat → Option α
  | [], _ => none
  | (k, v) :: m, x => if k = x then some v else amGet? m x

/-- Set a key, keeping the keys strictly rising. -/
def amSet {α : Type} : List (Nat × α) → Nat → α → List (Nat × α)
  | [], x, a => [(x, a)]
  | (k, v) :: m, x, a =>
    if x < k then (x, a) :: (k, v) :: m
    else if x = k then (x, a) :: m
    else (k, v) :: amSet m x a

/-- Remove a key. -/
def amErase {α : Type} (m : List (Nat × α)) (x : Nat) : List (Nat × α) := m.filter fun p => p.1 != x

/-- Value at a key, or a default for keys not listed. -/
def amGetD {α : Type} (m : List (Nat × α)) (x : Nat) (d : α) : α := (amGet? m x).getD d

/-- Change the value at a listed key; an unlisted key stays unlisted. -/
def amModify {α : Type} (m : List (Nat × α)) (x : Nat) (f : α → α) : List (Nat × α) :=
  m.map fun p => if p.1 = x then (p.1, f p.2) else p

/-- Keys strictly rising. -/
def amSorted {α : Type} : List (Nat × α) → Bool
  | [] => true
  | [_] => true
  | (k, _) :: (k', v') :: m => decide (k < k') && amSorted ((k', v') :: m)

/-- One cell of a sparse memory whose unlisted addresses read as `d`: writing `d` removes the entry. -/
def memSet {α : Type} [DecidableEq α] (d : α) (m : List (Nat × α)) (x : Nat) (a : α) : List (Nat × α) :=
  if a = d then amErase m x else amSet m x a

/-- Canonical form of a sparse memory: keys strictly rising, no entry equal to what an unlisted address reads as. -/
def memWf {α : Type} [DecidableEq α] (d : α) (m : List (Nat × α)) : Bool :=
  amSorted m && m.all fun p => decide (p.2 ≠ d)

end Sys2Proof.Machine
end

