-- ==== Sys2Proof/Machine/State.lean ====
section
/-! DEFINITION. The state of the device: every register, queue, buffer, counter, mode and pin the spec gives it, as
plain data, and the queue of commands that wait. Reset values: the spec's cold values; where it gives none, the log
entry named. Sparse tables are lists of (key, value) pairs with strictly rising keys; what is not listed has the
default said at the field. -/

namespace Sys2Proof.Machine

open Sys2Proof

/-! ### Frames the device sends (Tables TP-4, TP-8 to TP-13) -/

/-- COMPLETION body (Table TP-8). -/
structure Completion where
  status : Nat
  op : Nat
  dropped : Bool
  taskSeq : U32
  result : Nat
  acceptTime : Nat
  serviceNs : Nat
deriving DecidableEq, Repr

/-- REJECT body (Table TP-10) and the class of its reason (Table TP-14). -/
structure Reject where
  reason : Nat
  rejSeq : U32
  rejSlot : U16
  rejType : Nat
  retryUs : Nat
  detail : Nat
  count : Nat
  ordered : Bool
  counter : Nat                 -- trailer COUNTER of the refused frame, 0 without one (R108); not sent
  data : List Byte              -- DATA bytes that its tag covers (R108, R298); not sent
deriving DecidableEq, Repr

/-- Body of a down frame. -/
inductive Body where
  | data (d : Block) (m : Option Meta)
  | completion (c : Completion)
  | ack (sack : U64) (gapFirst : U32) (gapCount : Nat)
  | reject (r : Reject)
  | notify (event arg0 arg1 arg2 : Nat) (time : Nat)
  | mgmt (op count : Nat) (addr : U32) (data : List U32)
  | diag (op result : Nat) (reqId : U32) (arg : U64) (data : List Byte) (tags : List U16)
  | arp (ip : BitVec 32)
  | neighbor (ip : BitVec 128)
  | pause (quanta priority : Nat)
deriving DecidableEq, Repr

/-- The outer headers that the device forms (R88–R91): 802.1Q tags with priority and VLAN, its own addresses and port, DF,
TTL or hop limit, DSCP or traffic class, and the UDP checksum. -/
structure OutHdr where
  tags : List U16
  mac : BitVec 48
  ip4 : BitVec 32
  ip6 : BitVec 128
  port : Nat
  df : Bool
  ttl : Nat
  dscp : Byte
  sum : UdpSum
deriving DecidableEq, Repr

/-- A down frame: header fields the device fills (Table TP-4), body, trailer. `dst` is where it goes (R91); `out`: its outer
headers, formed as it leaves. -/
structure Down where
  link : Nat
  flags : Nat
  inst : Nat
  slot : Nat
  seq : U32
  ack : U32
  block : Nat
  time : Nat
  echo : U32
  incarn : Nat
  body : Body
  trailer : Option Trailer
  dst : Option Source
  buf : Option (Nat × Nat)      -- pool and buffer that hold its data until it is acknowledged (R350)
  out : Option OutHdr
deriving DecidableEq, Repr

/-! ### Up frames as the transport holds them -/

/-- A sequenced up frame (Table TP-6). -/
inductive Up where
  | task (f : TaskFrame)
  | data (f : DataFrame)
  | mgmt (f : MgmtFrame)
deriving DecidableEq, Repr

/-- The landing of an up frame: its time, and its buffer in the landing pool of its port's half (R15, R88). -/
structure Land where
  at' : Nat
  buf : Option Nat               -- none: a start has emptied the landing SRAM since
deriving DecidableEq, Repr

/-! ### Tasks and slots (R118–R130, R142) -/

/-- The latch of a HELD slot (R142). -/
inductive Latch where
  | running | committed | caught
deriving DecidableEq, Repr

/-- A block as AES-256-GCM seals it: ciphertext, metadata ciphertext, tag, the key slot and the sector's 8 bytes of device
metadata, byte 0 lowest (R170, R172, R180). -/
structure Sealed where
  c : Block
  mc : Meta
  tag : BitVec 128
  key : Nat
  dm : U64
deriving DecidableEq, Repr

/-- What has become of stored data: whole; poison, in both copies; or lost (R265, R336, R339). -/
inductive Harm where
  | whole | poison | lost
deriving DecidableEq, Repr

/-- A stored block (R170, R172). `pos` is the acceptance position of the task that wrote it; `twin`: the buffers of its copies
A and B in pools 4 and 5; `place`: superblock and index at rest; `native`: its place in a native group that is still incomplete,
while it lies in a staging extent (R245); `desc`: the descriptor of an uncommitted transaction it belongs to. -/
structure Stored where
  box : Sealed
  hint : Byte
  pos : Nat
  twin : Option (Nat × Nat)
  place : Option (Nat × Nat)
  onFlash : Bool
  slcPage : Bool
  native : Option (Nat × Nat)
  desc : Option Nat
  harm : Harm
deriving DecidableEq, Repr

/-- How far a block of a READ has come (Table AR-4). -/
inductive ReadStage where
  | fill
  | array (die : Nat)
  | lane
  | sent
  | failed
deriving DecidableEq, Repr

/-- One block of a READ: the sealed block that it found at its place in the order (R25, R175), and what it sends. -/
structure ReadBlock where
  stage : ReadStage
  box : Option Sealed            -- none: unwritten
  nonce : BitVec 96              -- that of its place (R178, R180)
  harm : Harm                    -- why it fails, where it does before its lane
  data : Block                   -- plaintext, once its lane has answered, or the fill
  md : Meta
  twin : Option (Nat × Nat)      -- twin entry that it hits: its buffers (R176)
  ref : Bool                     -- it holds a reference on that entry
  out : Option (Nat × Nat)       -- pool and buffer of its data (R15)
  place : Option (Nat × Nat)     -- superblock and index, where it lay on flash
  need : Nat                     -- members of its stripe still to be read for a reconstruction (R226)
deriving DecidableEq, Repr

/-- An accepted task in a HELD slot. -/
structure Task where
  op : Nat
  seq : U32
  record : BitVec 512
  link : Nat
  trailer : Option Trailer
  payload : Block
  acceptTime : Nat
  ready : Nat
  pos : Nat
  latch : Latch
  blocks : List ReadBlock
  looked : Bool                  -- the READ has made its lookup (R176)
  heldBack : Option Nat
  failedFirst : Nat
  failedCount : Nat
  fillCount : Nat
  lost : Bool
  poison : Bool
  authFail : Bool
  desc : Option Nat              -- the descriptor a TXN_COMMIT or TXN_ABORT closes
  holds : List Nat               -- COMMITTING descriptors whose apply the task waits for (R190)
  result : Nat
  cause : MissCause              -- what delays it now (Table LT-4)
  since : Nat                    -- when that began
  spent : List (Nat × Nat)       -- ns spent under each cause before, by its code (R227)
  reply : List Block             -- DATA blocks of a report that waits for those applies
deriving DecidableEq, Repr

/-- A slot that is not FREE: HELD with its task, or DONE with its completion, the down number it takes, the trailer
of the reply and the task, whose data are let go. -/
inductive Slot where
  | held (t : Task)
  | done (c : Completion) (down : U32) (trailer : Option Trailer) (t : Task)
deriving DecidableEq, Repr

/-- Where the task at the front of the order waits (R127 rows 6, 11, 13): for a key operation (R153), a
descriptor (R185), a die set (R166), twin space (R173), or with its copies being written. -/
inductive Waiting where
  | no
  | key
  | desc
  | set             -- a die set with a free superblock (R166)
  | twin (since : Nat)
  | staged          -- row 13: tokens and twin space reserved, copies being written
deriving DecidableEq, Repr

/-! ### Zones (R156–R171) -/

/-- Zone states (Table ZN-2). -/
inductive ZState where
  | empty | implicitOpen | explicitOpen | closed | readOnly | full | offline
deriving DecidableEq, Repr

/-- A zone (Table ZN-6). Zones not listed are EMPTY at generation 0. `blocks`: the blocks written, by offset. -/
structure Zone where
  state : ZState
  wp : Nat
  waste : Nat
  pending : Nat
  key : Nat
  hint : Byte
  set : Nat
  slcTarget : Bool
  gen : Nat
  genExhausted : Bool
  changed : Nat
  txn : Option Nat              -- descriptor that holds the zone (R186)
  sb : Option Nat
  bound : Nat                   -- place of its binding among all bindings (R251)
  blocks : List (Nat × Stored)
deriving DecidableEq, Repr

/-! ### Instances (R269, Table IN-1) -/

/-- A used source entry (Table IN-2). -/
structure SourceEntry where
  kind : Nat
  mac : BitVec 48
  addr : BitVec 128
deriving DecidableEq, Repr

/-- Instance parameter block (Table IN-1). -/
structure Params where
  slots : Nat
  keyCount : Nat
  metaFmt : Bool
  trailerAll : Bool
  zoneSize : Nat
  zoneCap : Nat
  zoneCount : Nat
  openLimit : Nat
  stripeWidth : Nat
  writeMode : Nat
  convBlocks : Nat
  fill : U32
  txnTimeoutMs : Nat
  typeMask : Nat
  bwRate : Nat
  bwDepth : Nat
  opRate : Nat
  opDepth : Nat
  missLimit : Nat
  mboxDepth : Nat
  violLimit : Nat
  missWindowMs : Nat
  violWindowUs : Nat
  links : Nat
  egressBufs : Nat
  mboxPeers : List Nat
  sources : List SourceEntry
  raw : Nat
deriving DecidableEq, Repr

/-- A token bucket (R213, R214). `base` and `credBase`: the base time of the exact credit. -/
structure Bucket where
  level : Nat
  reserved : Nat
  consumed : Nat
  spilled : Nat
  credited : Nat
  d0 : Nat
  base : Nat
  sinceBase : Nat
  frac : Nat                    -- remainder at the base time, in 1/10¹¹ of a token (R213)
deriving DecidableEq, Repr

/-- One command key generation with its last accepted counter (R300, R302). -/
structure CmdKey where
  gen : Nat
  key : BitVec 256
  lac : Nat
  rekeySent : Nat
  byRotate : Bool
deriving DecidableEq, Repr

/-- A mailbox message (R279). -/
structure Msg where
  sender : Nat
  bytes : List Byte
  num : Nat                          -- how many messages the mailbox had taken before
  harm : Harm                        -- what has become of both its copies in DRAM (R335, R339)
deriving DecidableEq, Repr

/-- A created instance. -/
structure Inst where
  params : Params
  held : Bool
  replayHeld : Bool
  quarantined : Bool
  escalated : Bool
  draining : Bool
  pool : Nat
  slots : List (Nat × Slot)          -- unlisted: FREE
  e : U32
  down : U32
  ackIn : U32                        -- the tenant's ACK in force
  ackOut : U32                       -- E last carried by a down frame
  echo : U32
  heldUp : List (U32 × Up × Land)      -- frames held beyond a gap, by sequence
  placed : List (U32 × Up × Land)      -- frames with positions, not yet accepted or refused
  waiting : Waiting
  stagedBufs : List (Nat × Nat)      -- twin buffers of the front's blocks, reserved at row 13 (R172, R173)
  waited : MissCause                 -- what the front task waits for, its miss cause (Table LT-4)
  waitedSince : Nat                  -- when that wait began
  waitedSpent : List (Nat × Nat)     -- ns of its waits before, by the code of their cause (R227)
  restartLate : Bool                 -- a RESTART miss of this start waits for its record (R209)
  gapAt : Option Nat
  unacked : List Down
  backlog : List Down                -- beyond the window of 1024 (R106)
  expiries : Nat
  stalled : Bool
  rejects : List Reject              -- ordered REJECTs of the last 256 up positions
  lastOrphan : Option (U32 × U16)    -- next position and slot of DATA that follow a refused task (Table TP-14)
  rejWindow : Nat
  rejCount : Nat
  violWindow : Nat
  viol : Nat
  violRecorded : Bool
  lastValid : List (Nat × Source)    -- per link: sources of the last valid frame
  lastLink : Option Nat
  bw : Bucket
  ops : Bucket
  cmd : Option CmdKey
  prev : Option CmdKey
  graceEnd : Option Nat
  keys : List (Nat × BitVec 256)     -- data keys, by key index
  wcounts : List (Nat × Nat)         -- conventional write counts; unlisted: 0
  zones : List (Nat × Zone)
  conv : List (Nat × Stored)
  convSb : List (Nat × Nat)          -- open superblock per hint byte; SLC ones at 256 + hint
  lastSet : Nat
  mbox : List Msg
  mboxCount : Nat
  misses : List Nat                  -- 16 sub-windows, current first
  pos : Nat                          -- tasks accepted so far
  recent : List (U32 × Nat × Nat)    -- since acceptance last opened: TASK_SEQ, DATA frames and position of each (R27)
deriving DecidableEq, Repr

/-! ### Transactions and journal (R182–R205) -/

/-- A key of a stored block: instance, conventional, zone, offset or block. -/
structure BlkKey where
  inst : Nat
  conv : Bool
  zone : Nat
  offset : Nat
deriving DecidableEq, Repr

/-- Descriptor states (Table TX-2). -/
inductive TxnState where
  | opened | committing | aborting | devAborted
deriving DecidableEq, Repr

/-- A member (Table TX-4). -/
structure Member where
  op : Nat
  nblk : Nat
  zone : Nat
  offset : Nat
  upSeq : U32
  gen : Nat
deriving DecidableEq, Repr

/-- A transaction descriptor. -/
structure Desc where
  inst : Nat
  txnId : Nat
  state : TxnState
  members : List Member
  timeoutMs : Nat
  began : Nat
  firstJseq : Nat
  slot : Nat
  counter : Nat
  closePos : Nat
  undo : List (Nat × Zone × ZState × Nat × Nat)   -- zones before a commit not applied yet, and their state, WP, GEN after (R201)
deriving DecidableEq, Repr

/-- A journal record (Tables TX-3, TX-4); `bodyNum` is bytes 0x18–0x37, byte 0x18 lowest. -/
structure JRec where
  rtype : Nat
  client : Nat
  inst : Nat
  txnId : Nat
  desc : Nat
  jseq : Nat
  time : Nat
  bodyNum : Nat
  bad : Bool                  -- both its copies in the staging have failed: its CHECK fails (R199, R335)
deriving DecidableEq, Repr

/-- A journal page being programmed: the descriptors whose groups it holds, the JSEQs of the ABORT records of device
aborts that ride in it, and its buffers in pools 10 and 11 (R196, Table MM-11). -/
structure JPage where
  descs : List Nat
  rides : List Nat
  bufs : List (Nat × Nat)
deriving DecidableEq, Repr

structure Journal where
  descs : List (Nat × Desc)
  staging : List JRec         -- journal staging, with the seals of the map-update staging (R195, R205, R268)
  slc : List JRec             -- records programmed in both copies of the SLC journal, of descriptors in use (R196, R199)
  jseq : Nat
  sealed : Nat                -- JSEQ of the last seal that has been applied (R268)
  group : List Nat            -- descriptors whose group waits for the SLC journal, in acceptance order
  rides : List Nat            -- JSEQs of ABORT records of device aborts that wait for the next page (R196)
  pages : List JPage          -- journal pages being programmed, oldest first
  locks : List (List Nat)     -- sets of map-cache lines locked by an HWT between STAGE and UNLOCK
  waitingHwt : List Nat       -- program numbers whose map update waits at STAGE
  waitingApply : List Nat     -- descriptors whose commit is programmed and whose apply waits at STAGE
  waitingPoison : List (BlkKey × Nat)   -- poison marks that wait at STAGE, each with the die that failed
  waitingReads : List (Nat × Nat × U32) -- reads that wait for a locked line: instance, slot, TASK_SEQ (R203)
deriving DecidableEq, Repr

/-! ### System, pins -/

/-- SYS_STATE.STATE, with HALT, which has no code. -/
inductive Boot where
  | start | run | lodestone | dump | warm | safe | halt
deriving DecidableEq, Repr

/-- LODESTONE reasons (Table SU-11). -/
inductive Reason where
  | none | strapReserved | forced | lbist | sram | firmware | fwTooOld | cryptoKat | trng | noImage | operator
  | keyVersion | dram | nand | cores | noSystemArea | systemArea | bindingsExhausted
deriving DecidableEq, Repr

/-- An operator binding slot in fuses (R68, R71). -/
structure Binding where
  operatorId : U32
  floor : Nat
  void : Bool
deriving DecidableEq, Repr

/-- What happens when the dump that runs ends (R42, R43, R78, R79). -/
inductive AfterDump where
  | reopen | reset | internalCold | lodestone (r : Reason) (step : Nat)
deriving DecidableEq, Repr

/-- The mode the configuration NOR is in: 1S-1S-1S as at its power-on, or 8D-8D-8D (R64). -/
inductive NorMode where
  | s1 | d8
deriving DecidableEq, Repr

/-- The xSPI port of the configuration NOR: its mode, the slots whose bytes behind the header landing SRAM holds, in the
order they were read, and the pulses of XSP_RESET_N since power-up (R64). -/
structure Xsp where
  mode : NorMode
  held : List Nat
  pulses : Nat
deriving DecidableEq, Repr

/-- A start that waits: for SYS_REFCLK, for the junction to cool, for the end of a dump or of the minimum low time of
RESET_N after it has risen (R26, R37, R42, R58). -/
inductive StartHold where
  | no | clock (b : Board) (kind : Nat) | thermal (b : Board) (kind : Nat) | reset (b : Board)
deriving DecidableEq, Repr

/-- Self-test report (Table SU-13). -/
structure Stest where
  reason : Nat
  startKind : Nat
  failedStep : Nat
  durationUs : Nat
  fencedDram : Nat
  fencedNand : Nat
  fencedCores : Nat
  fencedKeccak : Nat
  sramRepairs : Nat
  fwBank : Nat
  imageSlot : Nat
  fencedLanes : Nat
  imageVersion : Nat
  diagDropped : Nat
  diesFailed : Nat
  detail : Nat
deriving DecidableEq, Repr

structure Sys where
  boot : Boot
  step : Nat
  reason : Reason
  degradedStart : Bool
  formatted : Bool
  replayHeld : Bool
  dumpUnconfirmed : Bool
  open' : Bool                  -- acceptance is open
  closedWhy : Nat               -- NOT_ACCEPTING DETAIL while it is closed
  transport : Bool              -- the transport engine runs (R105)
  straps : Byte
  kind : Nat
  cause : Nat
  reqState : Nat                -- SYS_STATE.STATE and Quartz time when the last start was asked for (Table FE-8)
  reqTime : Nat
  dumpBefore : Bool
  dumpComplete : Bool
  dumpMarker : Bool             -- the last dump carries its end marker
  dumpKept : Bool               -- a complete dump is kept in the system area (R57)
  dumpBegun : Bool
  afterDump : AfterDump
  resetWaits : Bool             -- RESET_N asserted, the cold start follows the dump
  hold : StartHold
  warmDeferred : Option Nat     -- cause of a warm start that waits for an apply (R76)
  runAt : Nat
  vreq : Nat
  vsteps : List Nat             -- the AVSBus requests that the last change of vreq took, oldest first (R45)
  vack : Nat
  tband : Nat
  cyclePs : Nat
  lowReadings : Nat
  cycleDerate : Bool
  cycleOkSince : Option Nat
  avsFails : Nat
  avsStopped : Bool
  stest : Stest
  fwMeas : BitVec 512
  cfgMeas : BitVec 512
  serial : U64
  macBase : BitVec 48
  incarn : Nat
  everRan : Bool
  diagQueue : List Nat          -- DIAG requests that the responder has not answered yet, per port
  diagUnknown : Nat             -- requests with an op that the responder does not know (R82)
  bootId : List Byte
  keySerial : Nat
  area : Bool                   -- a media system area exists
  unconfirmed : List (Nat × U32 × U32) -- per instance the first and last up position of R27, found at step 10
  xsp : Xsp
  txpol : Option U16            -- TXPOL of a slot that passed checks 1–7 at this start (R81)
  due : List (Nat × Nat × U32)  -- reports and messages that wait to be delivered: instance, slot, TASK_SEQ, oldest first
deriving DecidableEq, Repr

/-- One-time fuses (R70, R71, R365). -/
structure Fuses where
  bindings : List Binding
  svnFloor : Nat
deriving DecidableEq, Repr

/-- TAP instructions (R53). -/
inductive Tap where
  | bypass | idcode | extest | extestPulse | extestTrain | clamp | highz
deriving DecidableEq, Repr

/-- Levels at the control balls and who drives the media balls. -/
structure Tck where
  resetN : Bool
  tap : Tap
  dr : Nat                      -- value the selected TAP register presents
deriving DecidableEq, Repr

/-- ALIVE (Table FE-5). -/
inductive Alive where
  | low | khz10 | khz1 | hz100 | high
deriving DecidableEq, Repr

/-- Who drives the NAND balls, DRST balls and XSP balls: nobody before VCCQ_NAND is in tolerance, the states of R33, the
channels, the pad latches (R402), the boundary-scan register under a TAP instruction, or the pulls of R34 under HIGHZ
(R53). -/
inductive MediaPins where
  | undriven | safe | active | latchedDoze | latchedStow | boundary | released
deriving DecidableEq, Repr

structure Pins where
  pfailN : Bool
  rails : List (Nat × Bool)     -- rails out of tolerance are listed; unlisted: in tolerance
  poweredOn : Bool              -- a power-up since the last start
  sysClk : Bool
  portClk : List Bool
  alive : Alive
  media : MediaPins
  drst : Bool
  coreOff : Bool                -- regulator commanded off (R408)
  laneInv : U16                 -- receive lane l of port p comes inverted from the board where bit 8p + l is 1 (R81)
  xoff : List Bool              -- XOFF sent, per port half
  paused : List (Nat × Nat)     -- links that a pause frame stops, with the Quartz time at which the pause ends
  pauseQ : List Down            -- frames that wait for such a link, oldest first
deriving DecidableEq, Repr

/-- Device-level settings of the running image, or the defaults before one runs (log entry 3). -/
structure Settings where
  ports : PortsEntry
  sensors : SensorsEntry
  dirtyMib : Nat
  profile : MediaProfile
  dram : DramEntry
  devSizeMib : Nat
  instEnable : Bool
  missLimit : Nat
  missWindowMs : Nat
  repeatLimit : Nat
  capmin : Nat
  permit : Nat
  idleEn : Bool
  idleMs : Nat
  timerS : Nat
  version : Nat
  operatorId : U32
  minFw : Nat
  formatAllowed : Bool
deriving DecidableEq, Repr

/-! ### Power, thermal (R392–R410) -/

structure Pwr where
  state : Nat
  target : Nat
  phase : Nat
  agreed : Nat
  fromState : Nat
  pendingReq : Option Nat
  idleEn : Bool
  idleMs : Nat
  timerS : Nat
  wakeSource : Nat
  wakeDetail : Nat
  wakeFrom : Nat
  wakeTime : Nat
  dozeFloor : Bool              -- the floors carry DOZE's hold for the entry under way
  stowFloor : Bool
  reqAt : Nat                   -- when the entry under way was asked for (R395)
  vreqKept : Nat                -- core request to return to after STOW
  exitCause : Option Nat
  holdLists : List (List Nat)   -- buffers left in the two hold lists (R399)
  landed : List (Instr × Nat × Nat) -- frames held in arrival order, each with its pool and buffer (R398)
  keptHdrs : List (Env × Nat)   -- headers and TYPEs of frames that found no buffer (R399)
  dirtyCap : Option Nat         -- effective limit during DRAIN, MiB
  retained : Bool               -- retention RAM holds the saved state (R403)
deriving DecidableEq, Repr

/-- State of a sensor input (THM_SENSOR.STATE). -/
structure Sensor where
  temp : Int
  st : Nat
  subst : Bool
  fast : Bool
  validRun : Nat
deriving DecidableEq, Repr

structure Thm where
  sites : List Int
  junction : Int
  site : Nat
  peak : Option Int             -- highest junction reading since PEAK was read; none: 0
  step : Nat
  by' : Nat
  sensors : List Sensor
deriving DecidableEq, Repr

/-! ### Faults and records (R370–R385) -/

structure Fault' where
  source : Nat
  severity : Nat
  addr : Nat
  access : Nat
  master : Nat
  inst : Nat
  code : Nat
  payload : Nat
deriving DecidableEq, Repr

structure Fcl where
  firstValid : Bool
  contained : Bool
  halted : Bool
  capmin : Nat
  injen : Bool
  fSource : Nat
  fSeverity : Nat
  fAccess : Nat
  fMaster : Nat
  fSimul : Bool
  fAddr : Nat
  fTime : Nat
  fSeq : Nat
  follow : Nat
  sevcnt : List Nat
  injSource : Nat
  injPattern : Nat
  broken : List Nat                 -- ascending sources of broken lines
  window : List Fault'              -- the capture window that is open
  windowAt : Nat
  unrestored : List Nat             -- sources of parts lost and not restored (R29)
  noticeCnt : List (Nat × List Nat) -- NOTICE faults per source and sub-window of the device window (R371)
  missDev : List Nat                -- 16 device sub-windows, current first (R228)
  escalated : Bool
deriving DecidableEq, Repr

/-- An Obsidian record (Table FE-6); `payload` is bytes 0x28–0x7B, byte 0x28 lowest. -/
structure Rec where
  seq : Nat
  iseq : Nat
  time : Nat
  code : Nat
  severity : Nat
  simul : Bool
  first : Bool
  carried : Bool
  source : Nat
  inst : Nat
  incarn : Nat
  derate : Nat
  payload : Nat
deriving DecidableEq, Repr

structure Obs where
  seq : Nat
  iseq : List (Nat × Nat)
  fifo : List Rec
  lostCount : Nat
  lostFirst : Nat
  lostLast : Nat
  device : List Rec
  instRecs : List (Nat × List Rec)
  startup : List Rec
  severe : List Rec
  useStartup : Bool
  stop : Bool
  full : Bool
  instEn : Bool
  sizeMib : Nat
  lost : Nat
  overwr : Nat
  dropped : Nat
  rdInst : Nat
  rdSeq : Nat
  latch : Option Rec
  found : Bool
  skipped : Bool
  published : Nat                  -- SEQ after the last published record
deriving DecidableEq, Repr

/-- A tally counter of 48 bits with its OVF bit (R386). -/
structure Ctr where
  value : Nat
  ovf : Bool
deriving DecidableEq, Repr

structure Tal where
  tenant : Nat
  ctrs : List (Nat × Ctr)          -- key: (target · 2^16 + group) · 2^16 + field
  snapSeq : Nat
  bwWin : Nat
  rx : List Nat
  tx : List Nat
  rxUnits : List Nat               -- 64-byte units of each link in the window that runs (R390)
  txUnits : List Nat
deriving DecidableEq, Repr

/-! ### Code flash (R355–R369) -/

/-- A mark of a sector header (R357): blank, set, or partly programmed. -/
inductive Mark where
  | blank | set | partial'
deriving DecidableEq, Repr

structure SectorHdr where
  openM : Mark
  doneM : Mark
  usedM : Mark
  activateM : Mark
deriving DecidableEq, Repr

/-- A code-flash operation that runs or is suspended. `mgr`: the manager issued it, not the steward firmware. A nested
program that waits for its erase to be over is `suspended`. -/
structure CflOp where
  kind : Nat                       -- 1 PROGRAM, 2 ERASE, 3 ERASE_BANK, 6 ACTIVATE
  mgr : Bool
  bank : Nat
  sector : Nat
  granule : Nat
  data : BitVec 2048
  suspended : Bool
  suspensions : Nat
  resumedAt : Nat
  suspendedAt : Nat
  suspendedNs : Nat
deriving DecidableEq, Repr

/-- A READ that waits for the operation of its bank (R362). -/
structure CflWait where
  mgr : Bool
  bank : Nat
  sector : Nat
  granule : Nat
  ecc : CflEcc
deriving DecidableEq, Repr

/-- A VERIFY under way: who issued it, its bank, and whether the image's signature verifies. -/
structure CflVerify where
  mgr : Bool
  bank : Nat
  sigOk : Bool
deriving DecidableEq, Repr

/-- What a bank holds as a flash unit (R355, R363): its operation, running or suspended, and a nested program. -/
structure CflUnit where
  op : Option CflOp
  nested : Option CflOp
deriving DecidableEq, Repr

structure Cfl where
  running : Nat
  fallback : Bool
  mem : List (Nat × BitVec 2048)    -- granules, key bank · 2^15 + sector · 2^8 + granule; unlisted: all ones
  hdrs : List (Nat × SectorHdr)     -- key bank · 2^7 + sector; unlisted: all marks blank
  adelay : Nat
  bank : Nat
  sector : Nat
  granule : Nat
  busy : Bool
  done : Bool
  result : Nat
  detail : Nat
  ce : Nat
  ceOvf : Bool
  xo : List (Nat × Nat × Nat)       -- BANK, FIRST, COUNT
  xoLock : Bool
  meas : BitVec 512
  buf : BitVec 2048
  unit0 : CflUnit
  unit1 : CflUnit
  reads : List CflWait
  verifies : List CflVerify
  fwResult : Nat                        -- last result at the firmware's command port
  verified : List Bool
  erases : List (Nat × Nat)
deriving DecidableEq, Repr

/-! ### Memory (R321–R354) -/

structure DmcCh where
  state : Nat
  sp : Nat
  debt : Nat
  failStep : Nat
  ce : Nat
  ue : Nat
  refreshRate : Nat
  recentUe : List (Nat × Nat)      -- time and group of recent uncorrectable reads (R339)
deriving DecidableEq, Repr

structure Dmc where
  chs : List DmcCh
  ovf : Nat
  spreq : Nat
  drift : Nat
  shares : List Nat
  caps : List Bool
  scrub : Nat
  poison : Nat
  testen : Bool
  taddr : Nat
  thalf : Nat
  tdata : BitVec 512
  tchk : BitVec 512
  outcome : Nat
  bad : List (Nat × Nat)             -- half and word number of the words whose POISON bit is set, outside the window (R335)
  window : List (Nat × BitVec 512)   -- test window: key half · 2^40 + word address; unlisted: 0 (log entry 24)
  checks : List (Nat × BitVec 512)   -- check blocks of the window: key half · 2^40 + group; unlisted: as the start wrote
  rebuilding : List Nat
  imageLost : Bool                   -- part of the image copy was on a lost channel (R339)
deriving DecidableEq, Repr

structure Line where
  part : Nat
  way : Nat
  dirty : Bool
  poison : Nat
deriving DecidableEq, Repr

/-- A stream tracker of a map cache partition: the line number of its last access, its stride in lines, and how many
demand misses in a row had that stride (R345). -/
structure Tracker where
  last : Nat
  stride : Int
  run : Nat
deriving DecidableEq, Repr

structure Mch where
  enable : Bool
  invDone : Bool
  ways : List Nat
  prefetch : List Bool
  dist : List Nat
  locked : Nat
  byWay : Bool
  way : Nat
  maddr : Nat
  lines : List (Nat × Line)
  fills : List (Nat × Bool)        -- fills in progress, with NO_INSTALL
  evict : List (List (Nat × Bool)) -- per partition: lines being evicted, writeback issued
  stalled : List Bool
  waiting : List (Nat × Nat)       -- maintenance that waits for an HWT's lock: line, OP (R346)
  trackers : List (List Tracker)   -- per partition: stream trackers, oldest first (R345)
deriving DecidableEq, Repr

/-- Descriptor of a buffer that is not free (R350, R351). -/
structure BufDesc where
  count : Nat
  poison : Bool
  port : Nat                         -- the owner's port (log entry 119)
deriving DecidableEq, Repr

/-- A buffer pool. Its free list is threaded through its buffers: `links` are the first 8 bytes of a free buffer, the number of
the next one; a buffer that is not listed links to the one after it, as the start writes them (R351). FREE and OWNED follow from
it; IN_FLIGHT is 0 between commands (R354, log entry 12). -/
structure Pool where
  medium : Nat
  defined : Bool
  size : Nat
  min : Nat
  head : Nat                         -- first free buffer; `size`: none
  links : List (Nat × Nat)
  used : List (Nat × BufDesc)
  fail : Nat
  ownedLatch : Option Nat
  inflightLatch : Option Nat
deriving DecidableEq, Repr

structure Bpm where
  pools : List Pool
  ovf : Nat
deriving DecidableEq, Repr

/-! ### Trust (R295–R320) -/

structure Cph where
  fenced : Nat
  tagfail : Nat
  sealfail : Nat
  ovfTag : Bool
  ovfSeal : Bool
  ksel : Nat
  kdata : BitVec 256
  testKeys : List (Nat × BitVec 256)
  lane : Nat
  mode : Bool
  go : Bool
  pass : Bool
  tvec : BitVec 8192
deriving DecidableEq, Repr

structure Kec where
  fenced : Nat
  suspended : Nat
  grace : Nat
  trngFailed : Bool
  identity : Bool
  trngfail : Nat
  authfail : Nat
  ovfTrng : Bool
  ovfAuth : Bool
  attInst : Nat
  busy : Bool
  done : Bool
  error : Nat
  testen : Bool
  nonce : BitVec 256
  capture : List Byte              -- report bytes 0x000–0x13F captured at GO
  report : List Byte
  dakCert : List Byte              -- the DAK certificate formed at this start; empty where none was
  lastFail : Option Nat
  seeds : List Nat                 -- mask reseeds done, per half
deriving DecidableEq, Repr

/-! ### Media (R234–R268) -/

structure Nfc where
  cap2400 : Bool
  retrain : Bool
  rate : Nat
  trainedMax : Nat
  fenced : Bool
  lost : Bool
  failStep : Nat
  present : Nat
  dieLost : Nat
  readUi : Nat
  writeUi : Nat
  worstDie : Nat
  injMode : Nat
  injDie : Nat
  injBits : Nat
  injCount : Nat
  injLeft : Nat
  trainTemp : Int
deriving DecidableEq, Repr

/-- An array operation of a die. -/
inductive DieOp where
  | idle
  | program (prog : Nat)
  | erase (block : Nat)
deriving DecidableEq, Repr

/-- Phase of a die's operation (R222, R225, R255). -/
inductive DiePhase where
  | running | suspending | suspended | resetting
deriving DecidableEq, Repr

/-- A read queued at a die (R221). -/
structure ReadReq where
  inst : Nat
  slot : Nat
  blk : Nat
  due : Option Nat
  order : Nat
  at' : Nat                        -- acceptance time of its task
  recon : Bool
  last : Bool                      -- its own codeword has failed every stage (stage 5 of Table MD-5)
  plane : Nat                      -- queue it waits in (R221)
  job : Option Nat                 -- the copy that it serves; `blk` is then the index of the item (R221)
deriving DecidableEq, Repr

structure Die where
  lost : Bool
  op : DieOp
  phase : DiePhase
  nested : Option Nat
  suspensions : Nat
  issuedAt : Nat
  resumedAt : Nat
  suspendedAt : Nat
  suspendedNs : Nat
  lastLimit : Option Nat
  budget : Nat × Nat × Nat         -- of the operation: suspensions, run minimum µs, cap ns (Table LT-5)
  reads : List ReadReq
  waitProgs : List Nat
  free : Nat
  opened : Nat
  full : Nat
  retired : Nat
  spare : Nat
  erased : Nat
  eraseQ : List Nat                -- FREE blocks in substate UNERASED that wait for erase
  erasesDone : List (Nat × Nat)    -- erase counts, by block; unlisted 0
  nextFresh : Nat                  -- lowest block never taken
  erasedList : List Nat            -- ERASED FREE blocks given back by erases
  bad : List Nat                   -- RETIRED blocks
  levels : List (Nat × Nat)        -- read-level indices, by block (R248); unlisted 0
  entry : Option Nat               -- entry of RETRY_TABLE that the die holds, once a read has applied one (R248)
deriving DecidableEq, Repr

/-- A superblock (R243). `members`: die and block of each member. `rebuilding`: pairs of a lost die and the die whose
block replaces it, whose data are not yet rebuilt (R258). -/
structure Superblock where
  inst : Nat
  set : Nat
  slc : Bool
  cls : Nat
  stream : Nat
  conv : Bool
  members : List (Nat × Nat)
  rebuilding : List (Nat × Nat)
  used : Nat                       -- data blocks placed so far
  issued : Nat                     -- stripe groups whose program has been issued
  closed : Bool                    -- it takes no further block
  full : Bool                      -- its programs have ended since: its blocks are FULL (R253)
  staging : Bool                   -- it holds staging extents (R245)
  readers : List (Nat × Nat)       -- READs accepted before a reset of a zone that lay here: slot and position (R159)
deriving DecidableEq, Repr

/-- Why a stripe group is programmed (R245, R251, R259, R263, R264). -/
inductive ProgKind where
  | host | staging | fold | gc | wear | refresh | rebuild
deriving DecidableEq, Repr

/-- A set of stripe groups being programmed: the blocks they carry, each with its acceptance position and its index in
the superblock; the member dies whose programs have not ended, once per program. -/
structure Prog where
  kind : ProgKind
  sb : Nat
  items : List (BlkKey × Nat × Nat)
  left : List Nat
  first : Nat                      -- stripe groups of the superblock before them
  groups : Nat
  redo : List Nat                  -- dies whose replacement block still takes units of before (R256), once per unit
  failed : List (Nat × Nat)        -- die of each failed block and the block taken in its place (R256)
  sources : List Nat               -- superblocks the data come from, for a copy
  toRead : List Nat                -- items of a copy whose source is not read yet (R221)
  needs : List (Nat × Nat)         -- items that are reconstructed, with the members still to be read (R249)
  bufs : List (Nat × Nat × Nat)    -- items of a copy with pool and buffer of their data (R15, Table MM-11)
  bundle : Option Nat              -- sets whose map entries switch in one HWT (R251)
deriving DecidableEq, Repr

/-- A die set of a pool (R272). -/
structure DieSet where
  pool : Nat
  num : Nat
  dies : List Nat
  lent : List Nat                  -- members that give SPARE blocks in place of a lost die (R258, steps 2 and 3)
  draining : Bool
  blocked : Bool                   -- a batch being applied removes one of its dies (R294)
  lostMember : Bool
  gc : Bool                        -- garbage collection runs until MED_GC.HIGH (R259)
  rebuilds : List Nat              -- lost members, replaced or not, whose rebuild has not ended (Table ZN-6)
deriving DecidableEq, Repr

/-- A pool (R271). -/
structure PoolDef where
  w : Nat
  owners : List Nat
  dies : List Nat
  draining : List Nat
deriving DecidableEq, Repr

structure Med where
  preserve : Bool
  rebuild : List Nat                -- dies being rebuilt
  rebuildPct : Nat
  slcLow : Nat
  wlSpread : Nat
  wlMax : Nat
  gcLow : Nat
  gcHigh : Nat
  rebuildRate : Nat
  scrub : Nat
  progCap : Nat
  eraseCap : Nat
  poison : Nat
  testen : Bool
  segs : List Nat                   -- map checkpoint segments, the next one written first: JSEQ of the seal each reflects (R268)
  dies : List (Nat × Die)
  sets : List DieSet
  sbs : List (Nat × Superblock)
  nextSb : Nat
  progs : List (Nat × Prog)
  nextProg : Nat
  beyondRepair : List Nat           -- dies lost beyond repair (R29)
  patrolled : Nat
  binds : Nat                       -- zones bound so far
  refreshQ : List BlkKey            -- pages to be refreshed once a superblock is free (R249, R264)
deriving DecidableEq, Repr

structure Qtz where
  thermal : Nat
  force : Nat
  step : Nat
  progMax : Nat
  eraseMax : Nat
  progCap : Nat
  eraseCap : Nat
  progRunUs : Nat
  eraseRunUs : Nat
  late : Nat
  restartLate : Nat
  unsent : Bool                  -- the step changed while acceptance was closed (R233)
  ovf : Bool
deriving DecidableEq, Repr

structure Eth where
  p0mode : Nat
  p1mode : Nat
  pfc : Bool
  encap : Nat
  up : Nat
  wentDown : Nat
  rtoUs : Nat
  gapHoldUs : Nat
  ackDelayUs : Nat
  silent : Nat
  rejsupp : Nat
  ovfSilent : Bool
  ovfRej : Bool
  unknownSrc : Nat                 -- refusals counted device-wide (R95, Table TP-14)
  rxInv : U16                      -- receive lanes the ports invert, bit 8p + l for lane l of port p (R47, R81)
  txInv : U16                      -- transmit lanes they invert
  mgmtReplies : List (U32 × U64 × Down)   -- instance 0's last 64 replies (R108)
deriving DecidableEq, Repr

/-! ### Slate (R284–R294) -/

structure Slt where
  state : Nat
  step : Nat
  rule : Nat
  failoff : Nat
  stageLen : Nat
  stage : List (Nat × U32)          -- words of the window; unlisted: 0
  epoch : Nat
  drain : Nat
  dirtyMib : Nat
  pools : List (Nat × PoolDef)
  spares : List Nat                 -- device spare set
  applyAt : Nat
  record : List Byte                -- epoch record being programmed (R292)
  records : List (Nat × List Byte)  -- persisted epoch records with their commit marks
  snapshots : List (Nat × List Byte) -- persisted epoch snapshots (R292)
deriving DecidableEq, Repr

/-- The MGMT reply that is being formed: ERROR and the words read; and the latched high words of R9. -/
structure Mgmt where
  err : Bool
  words : List U32
  hi : List (Nat × U32)
deriving DecidableEq, Repr

structure State where
  pending : List Instr
  quartz : Nat
  free : Nat
  sys : Sys
  fuses : Fuses
  tck : Tck
  pins : Pins
  img : Settings
  pwr : Pwr
  thm : Thm
  fcl : Fcl
  obs : Obs
  tal : Tal
  cfl : Cfl
  dmc : Dmc
  mch : Mch
  bpm : Bpm
  cph : Cph
  kec : Kec
  nfc : List Nfc
  med : Med
  qtz : Qtz
  eth : Eth
  insts : List (Nat × Inst)
  jrn : Journal
  slt : Slt
  mgmt : Mgmt
  wire : List Down
deriving DecidableEq, Repr

/-! ### How a step stops -/

/-- Why the model stops. Only `step` raises it. -/
inductive Fault where
  /-- Raised by `step` on an empty queue when the Quartz count stands at 2^64 − 1: R7 says that the count does not wrap
  in the life of a device, so the spec gives no next value. Safe: the model stops where the spec says nothing. -/
  | quartzSpent
deriving DecidableEq, Repr

/-- Why a command is turned away. -/
inductive Refusal where
  /-- Raised by `exec` for a command that has no meaning in the model yet. Safe: the model stops where the device goes on. -/
  | notModelled (mnemonic : String)
deriving DecidableEq, Repr

/-! ### Reset values

The cold values of the register tables. A value the tables give as "Per start", "Image", "Straps" or "From fuses" is
that of an empty, unprogrammed device: log entries 3 and 4. -/

/-- PORTS settings before an image runs: the straps' mode (here 0), raw encapsulation (ETH_MODE, cold values). -/
def coldPorts : PortsEntry :=
  { mode0 := 0, mode1 := 0, txpol := 0, rxpol := 0, udpPort := 47100, vlan := 0, pfc := 0, encap := 1, links := [] }

/-- SENSORS settings before an image runs: every input unused (log entry 3). -/
def coldSensors : SensorsEntry := { policy := 0, margin := 0, limits := [], inputs := [] }

/-- The reference profile of Table MD-3; vendor fields 0 (log entry 3). -/
def referenceProfile : MediaProfile :=
  { profileId := 0x51, cell := 4, planes := 4, pflags := 1, slcPct := 4, pages := 2048, blocks := 4096,
    pageRaw := 18432, spareBlocks := 80, tReadUs := 45, tSuspUs := 15, tProgSlcUs := 250, tProgUs := 1800,
    tEraseUs := 8000, limitPct := 300, endurance := 1500, rateMts := 3600, softStages := 2, refreshBits := 60,
    suspOp := 0, resumeOp := 0, offsetFa := 0, retrySteps := 16, retryTable := 0, pagePrefix := 0 }

/-- DRAM settings before an image runs (log entry 3). -/
def coldDram : DramEntry := { org := 0, ranks := 1, dieGbit := 8, sp0 := 0, sp1 := 0, drive := 0, odt := 0 }

/-- Device settings before an image runs: the defaults that R383, R391 and R410 give for an absent entry. -/
def coldSettings : Settings :=
  { ports := coldPorts, sensors := coldSensors, dirtyMib := 0, profile := referenceProfile, dram := coldDram,
    devSizeMib := 16, instEnable := true, missLimit := 64, missWindowMs := 1000, repeatLimit := 1024, capmin := 2,
    permit := 3, idleEn := false, idleMs := 100, timerS := 10, version := 0, operatorId := 0, minFw := 0,
    formatAllowed := false }

/-- An empty self-test report (Table SU-13): no bank and no slot in use. -/
def coldStest : Stest :=
  { reason := 0, startKind := 0, failedStep := 0, durationUs := 0, fencedDram := 0, fencedNand := 0, fencedCores := 0,
    fencedKeccak := 0, sramRepairs := 0, fwBank := 0xFF, imageSlot := 0xFF, fencedLanes := 0, imageVersion := 0,
    diagDropped := 0, diesFailed := 0, detail := 0 }

def coldSys : Sys :=
  { boot := .start, step := 1, reason := .none, degradedStart := false, formatted := false, replayHeld := false,
    dumpUnconfirmed := false, open' := false, closedWhy := 0, transport := false, straps := 0, kind := 0, cause := 0,
    reqState := 1, reqTime := 0, dumpBefore := false, dumpComplete := false, dumpMarker := false, dumpKept := false,
    dumpBegun := false, afterDump := .reopen, resetWaits := false, hold := .no, warmDeferred := none, runAt := 0, vreq := 800, vsteps := [], vack := 800,
    tband := 0, cyclePs := 0, lowReadings := 0, cycleDerate := false, cycleOkSince := none, avsFails := 0,
    avsStopped := false, stest := coldStest, fwMeas := 0, cfgMeas := 0, serial := 0, macBase := 0, incarn := 0,
    everRan := false, diagQueue := [0, 0], diagUnknown := 0, bootId := [], keySerial := 0, area := false,
    unconfirmed := [], xsp := { mode := .s1, held := [], pulses := 0 }, txpol := none, due := [] }

/-- Power-up with RESET_N low: rails in tolerance, clocks good, PFAIL_N high (log entry 11). -/
def coldPins : Pins :=
  { pfailN := true, rails := [], poweredOn := true, sysClk := true, portClk := [true, true], alive := .low,
    media := .safe, drst := false, coreOff := false, laneInv := 0, xoff := [false, false], paused := [],
    pauseQ := [] }

def coldPwr : Pwr :=
  { state := 0, target := 0, phase := 0, agreed := 0, fromState := 0, pendingReq := none, idleEn := false,
    idleMs := 100, timerS := 10, wakeSource := 0, wakeDetail := 0, wakeFrom := 0, wakeTime := 0, dozeFloor := false,
    stowFloor := false, reqAt := 0, vreqKept := 800, exitCause := none, holdLists := [[], []], landed := [],
    keptHdrs := [], dirtyCap := none, retained := false }

def coldSensor : Sensor := { temp := 0, st := 0, subst := false, fast := false, validRun := 0 }

def coldThm : Thm :=
  { sites := List.replicate 8 0, junction := 0, site := 0, peak := none, step := 0, by' := 0,
    sensors := List.replicate 24 coldSensor }

def coldFcl : Fcl :=
  { firstValid := false, contained := false, halted := false, capmin := 2, injen := false, fSource := 0,
    fSeverity := 0, fAccess := 0, fMaster := 0, fSimul := false, fAddr := 0, fTime := 0, fSeq := 0, follow := 0,
    sevcnt := [0, 0, 0, 0], injSource := 0, injPattern := 0, broken := [], window := [], windowAt := 0,
    unrestored := [], noticeCnt := [], missDev := List.replicate 16 0, escalated := false }

def coldObs : Obs :=
  { seq := 0, iseq := [], fifo := [], lostCount := 0, lostFirst := 0, lostLast := 0, device := [], instRecs := [],
    startup := [], severe := [], useStartup := true, stop := false, full := false, instEn := true, sizeMib := 16,
    lost := 0, overwr := 0, dropped := 0, rdInst := 0xFFFF, rdSeq := 0, latch := none, found := false,
    skipped := false, published := 0 }

def coldTal : Tal :=
  { tenant := 0xFF, ctrs := [], snapSeq := 0, bwWin := 100, rx := List.replicate 16 0, tx := List.replicate 16 0
    rxUnits := List.replicate 16 0, txUnits := List.replicate 16 0 }

/-- A blank sector header: every mark reads 0xFF (R357). -/
def blankHdr : SectorHdr := { openM := .blank, doneM := .blank, usedM := .blank, activateM := .blank }

/-- A bank with no operation. -/
def coldUnit : CflUnit := { op := none, nested := none }

/-- The code flash with nothing listed: every granule and every sector header is blank (log entry 11). -/
def coldCfl : Cfl :=
  { running := 0, fallback := false, mem := [], hdrs := [], adelay := 16, bank := 0, sector := 0,
    granule := 0, busy := false, done := false, result := 0, detail := 0, ce := 0, ceOvf := false,
    xo := [], xoLock := false, meas := 0, buf := BitVec.allOnes 2048, unit0 := coldUnit, unit1 := coldUnit, reads := [],
    verifies := [], fwResult := 0, verified := [false, false], erases := [] }

def coldDmcCh : DmcCh :=
  { state := 0, sp := 0, debt := 0, failStep := 0, ce := 0, ue := 0, refreshRate := 0,
    recentUe := [] }

/-- Cold values of the DMC; SHARE of Table MM-7. -/
def coldDmc : Dmc :=
  { chs := List.replicate 24 coldDmcCh, ovf := 0, spreq := 1, drift := 64, shares := [112, 40, 24, 40, 16, 12, 8, 4],
    caps := List.replicate 8 false, scrub := 24, poison := 0, testen := false, taddr := 0, thalf := 0, tdata := 0,
    tchk := 0, outcome := 0, bad := [], window := [], checks := [],
    rebuilding := [], imageLost := false }

/-- Cold values of the map cache; ways of Table MM-8. -/
def coldMch : Mch :=
  { enable := false, invDone := false, ways := [0x03FF, 0x0C00, 0x3000, 0xC000],
    prefetch := [true, true, true, true], dist := [4, 4, 4, 4], locked := 0, byWay := false, way := 0, maddr := 0,
    lines := [], fills := [], evict := [[], [], [], []], stalled := [false, false, false, false],
    waiting := [], trackers := [[], [], [], []] }

def coldPool : Pool :=
  { medium := 0, defined := false, size := 0, min := 0, head := 0, links := [], used := [], fail := 0, ownedLatch := none, inflightLatch := none }

def coldBpm : Bpm := { pools := List.replicate 64 coldPool, ovf := 0 }

def coldCph : Cph :=
  { fenced := 0, tagfail := 0, sealfail := 0, ovfTag := false, ovfSeal := false, ksel := 0, kdata := 0,
    testKeys := [], lane := 0, mode := false, go := false, pass := false, tvec := 0 }

def coldKec : Kec :=
  { fenced := 0, suspended := 0, grace := 100, trngFailed := false, identity := false, trngfail := 0, authfail := 0,
    ovfTrng := false, ovfAuth := false, attInst := 0, busy := false, done := false, error := 0, testen := false,
    nonce := 0, capture := [], report := [], dakCert := [], lastFail := none, seeds := [0, 0] }

def coldNfc : Nfc :=
  { cap2400 := false, retrain := false, rate := 0, trainedMax := 0, fenced := false, lost := false, failStep := 0,
    present := 0, dieLost := 0, readUi := 0, writeUi := 0, worstDie := 0, injMode := 0, injDie := 0, injBits := 0,
    injCount := 0, injLeft := 0, trainTemp := 0 }

def coldMed : Med :=
  { preserve := false, rebuild := [], rebuildPct := 0, slcLow := 25, wlSpread := 150, wlMax := 4, gcLow := 4,
    gcHigh := 8, rebuildRate := 4000, scrub := 168, progCap := 512, eraseCap := 256, poison := 0, testen := false,
    segs := [0, 0], dies := [], sets := [], sbs := [], nextSb := 0, progs := [], nextProg := 0, beyondRepair := [],
    patrolled := 0, binds := 0, refreshQ := [] }

/-- An empty journal, as a formatted system area has it (R195). -/
def coldJrn : Journal :=
  { descs := [], staging := [], slc := [], jseq := 0, sealed := 0, group := [], rides := [], pages := [], locks := []
    waitingHwt := [], waitingApply := [], waitingPoison := [], waitingReads := [] }

def coldQtz : Qtz :=
  { thermal := 0, force := 0, step := 0, progMax := 4, eraseMax := 16, progCap := 100, eraseCap := 500,
    progRunUs := 50, eraseRunUs := 200, late := 0, restartLate := 0, unsent := false, ovf := false }

def coldEth : Eth :=
  { p0mode := 0, p1mode := 0, pfc := false, encap := 1, up := 0, wentDown := 0, rtoUs := 50, gapHoldUs := 1000,
    ackDelayUs := 2, silent := 0, rejsupp := 0, ovfSilent := false, ovfRej := false, unknownSrc := 0,
    rxInv := 0, txInv := 0, mgmtReplies := [] }

def coldSlt : Slt :=
  { state := 0, step := 0, rule := 0, failoff := 0, stageLen := 0, stage := [], epoch := 0, drain := 100,
    dirtyMib := 0, pools := [], spares := [], applyAt := 0, record := [], records := [], snapshots := [] }

/-- The device after power-up, with RESET_N low and no command waiting. -/
def State.reset : State :=
  { pending := [], quartz := 0, free := 0, sys := coldSys, fuses := { bindings := [], svnFloor := 0 },
    tck := { resetN := false, tap := .idcode, dr := 0x20400B47 }, pins := coldPins, img := coldSettings,
    pwr := coldPwr, thm := coldThm, fcl := coldFcl, obs := coldObs, tal := coldTal, cfl := coldCfl, dmc := coldDmc,
    mch := coldMch, bpm := coldBpm, cph := coldCph, kec := coldKec, nfc := List.replicate 64 coldNfc, med := coldMed,
    qtz := coldQtz, eth := coldEth, insts := [],
    jrn := coldJrn, slt := coldSlt,
    mgmt := { err := false, words := [], hi := [] }, wire := [] }

end Sys2Proof.Machine
end

