-- ==== Sys2Proof/Machine/Ops.lean ====
section
/-! DEFINITION. The operations every command shares: records and the event FIFO (R379–R384), faults on their way to
the collector (R370–R374), tally counters (R386), free values, the instance table. A block has no exception entry:
an error is a record, a fault, a counter or a refusal. -/

namespace Sys2Proof.Machine

open Sys2Proof

/-! ### Record kinds (Table FE-7) -/

def kFault : Nat := 0x01
def kLineBroken : Nat := 0x02
def kOffDomain : Nat := 0x03
def kRestored : Nat := 0x04
def kEscalated : Nat := 0x05
def kInternalMiss : Nat := 0x06
def kDeadlineMiss : Nat := 0x07
def kRestartLate : Nat := 0x08
def kRegRefused : Nat := 0x09
def kLost : Nat := 0x0A
def kCounterWrap : Nat := 0x0B
def kRecorderFull : Nat := 0x0C
def kReset : Nat := 0x0D
def kStart : Nat := 0x0E
def kTransport : Nat := 0x0F
def kZone : Nat := 0x10
def kTxn : Nat := 0x11
def kMediaLink : Nat := 0x12
def kMediaData : Nat := 0x13
def kSlate : Nat := 0x14
def kCrypto : Nat := 0x15
def kMemory : Nat := 0x16
def kCodeFlash : Nat := 0x17
def kPower : Nat := 0x18
def kThermal : Nat := 0x19
def kTest : Nat := 0x1A
def kDump : Nat := 0x1B

/-- Severities (Table FE-1). -/
def sevNotice : Nat := 1
def sevDegrade : Nat := 2
def sevContain : Nat := 3
def sevHalt : Nat := 4

/-- The INSTANCE and TARGET that name no instance. -/
def noInst : Nat := 0xFFFF

/-- The SOURCE of rule events without a line (Table FE-2). -/
def noSource : Nat := 0x17F

/-! ### Small helpers -/

/-- Replace element `i` of a list, if it has one. -/
def setNth {α : Type} : List α → Nat → α → List α
  | [], _, _ => []
  | _ :: l, 0, a => a :: l
  | x :: l, n + 1, a => x :: setNth l n a

/-- Change element `i` of a list, if it has one. -/
def modNth {α : Type} : List α → Nat → (α → α) → List α
  | [], _, _ => []
  | x :: l, 0, f => f x :: l
  | x :: l, n + 1, f => x :: modNth l n f

/-- Element `i` of a list of numbers, 0 beyond its end. -/
def nthNat (l : List Nat) (i : Nat) : Nat := (l[i]?).getD 0

/-- Sum of a list. -/
def sumNat (l : List Nat) : Nat := l.foldl (· + ·) 0

/-- Set or clear bit `i` of a number. -/
def setBit (x i : Nat) (b : Bool) : Nat :=
  if b then x ||| 2 ^ i else if x.testBit i then x ^^^ 2 ^ i else x

/-- Number of set bits among the lowest `n`. -/
def popCount : Nat → Nat → Nat
  | 0, _ => 0
  | n + 1, x => (if x % 2 = 1 then 1 else 0) + popCount n (x / 2)

/-! ### Records and the event FIFO -/

/-- ARG0–ARG9 of the generic payload layout (R380). -/
def argsPayload : List Nat → Nat
  | [] => 0
  | a :: as => a % 2 ^ 64 + 2 ^ 64 * argsPayload as

/-- The payload of FAULT, LINE_BROKEN and OFF_DOMAIN records (Table FE-8), byte 0x28 lowest. -/
def faultPayload (addr access master follow detail : Nat) : Nat :=
  addr % 2 ^ 64 + 2 ^ 64 * (access % 256) + 2 ^ 72 * (master % 256) + 2 ^ 96 * (follow % 2 ^ 32) + 2 ^ 128 * detail

/-- Key of a tally counter. -/
def tallyKey (target group field : Nat) : Nat := (target * 65536 + group) * 65536 + field

/-- Add to a 48-bit event counter (R386). -/
def bumpCtr (c : Ctr) (n : Nat) : Ctr :=
  { value := (c.value + n) % 2 ^ 48, ovf := c.ovf || decide (2 ^ 48 ≤ c.value + n) }

/-- Value of a tally counter. -/
def tallyGet (s : State) (target group field : Nat) : Ctr :=
  amGetD s.tal.ctrs (tallyKey target group field) { value := 0, ovf := false }

/-- Add to a tally counter without the wrap's event. -/
def tallyRaw (target group field n : Nat) (s : State) : State :=
  let c := bumpCtr (tallyGet s target group field) n
  { s with tal := { s.tal with ctrs := amSet s.tal.ctrs (tallyKey target group field) c } }

/-- An event reaches the FIFO: the last 4 of its 64 entries take only CONTAIN and HALT events; one that finds no entry
is lost and keeps its SEQ (R382). -/
def fifoPush (r : Rec) (s : State) : State :=
  if s.obs.fifo.length < 60 || (s.obs.fifo.length < 64 && sevContain ≤ r.severity) then
    { s with obs := { s.obs with fifo := s.obs.fifo ++ [r] } }
  else
    tallyRaw noInst 0x0108 31 1 { s with obs := { s.obs with
      lostCount := satInc s.obs.lostCount
      lostFirst := if s.obs.lostCount = 0 then r.seq else s.obs.lostFirst
      lostLast := r.seq
      lost := satInc s.obs.lost } }

/-- CONTAIN and HALT records also enter the severe-record ring of 32 in retention RAM (R383), unless retention RAM has
failed (Table FE-2, source 0x16E). A CONTAIN record sets FCL_STATUS.CONTAINED (Table FE-1). -/
def severePush (r : Rec) (s : State) : State :=
  if r.severity < sevContain then s
  else
    let sv := if s.fcl.unrestored.contains 0x16E then s.obs.severe
      else (s.obs.severe ++ [r]).drop ((s.obs.severe.length + 1) - 32)
    { s with obs := { s.obs with severe := sv }
             fcl := { s.fcl with contained := s.fcl.contained || decide (r.severity = sevContain) } }

/-- ISEQ of the next record of an instance: its count so far; 0 where there is no instance (Table FE-6). -/
def iseqOf (s : State) (inst : Nat) : Nat := if inst = noInst then 0 else amGetD s.obs.iseq inst 0

/-- The arbiter numbers an event as it reaches the FIFO (R381) and the event enters it. -/
def eventAt (time code sev source inst : Nat) (simul first : Bool) (payload : Nat) (s : State) : State :=
  let r : Rec := { seq := s.obs.seq, iseq := iseqOf s inst, time := time, code := code, severity := sev,
                   simul := simul, first := first, carried := false, source := source, inst := inst,
                   incarn := s.sys.incarn, derate := s.qtz.step, payload := payload }
  let s := { s with obs := { s.obs with
    seq := s.obs.seq + 1
    iseq := if inst = noInst then s.obs.iseq else amSet s.obs.iseq inst (iseqOf s inst + 1) } }
  fifoPush r (severePush r s)

/-- An event now, with the generic payload (R380). -/
def event (code sev source inst : Nat) (args : List Nat) (s : State) : State :=
  eventAt s.quartz code sev source inst false false (argsPayload args) s

/-- A record of severity NOTICE that names no instance. -/
def notice (code : Nat) (args : List Nat) (s : State) : State := event code sevNotice noSource noInst args s

/-- A refused register access: the MGMT reply sets ERROR and a REG_REFUSED record is written (R8, R10). No rule names a
quantity for it, so its arguments are 0 (R380, log entry 102). -/
def regRefused (_addr _value : Nat) (s : State) : State :=
  notice kRegRefused [] { s with mgmt := { s.mgmt with err := true } }

/-- Add to a tally counter; a wrap raises one COUNTER_WRAP event (R386). -/
def tally (target group field n : Nat) (s : State) : State :=
  let wraps := decide (2 ^ 48 ≤ (tallyGet s target group field).value + n)
  let s := tallyRaw target group field n s
  if wraps then notice kCounterWrap [group + target * 2 ^ 16 + field * 2 ^ 32] s else s

/-- A message of the Keccak units is counted: URGENT, or BULK (R312). Every queue is empty between commands: an URGENT message goes
to a unit that holds no BULK message where one serves, and suspends the DAK signature that runs only where a single unit is left
(log entry 129). -/
def keccakMsg (bulk : Bool) (s : State) : State :=
  let s := tally noInst 0x0106 (if bulk then 5 else 4) 1 s
  if !bulk && s.kec.busy && ((List.range 4).filter fun u => !s.kec.fenced.testBit u).length ≤ 1 then
    tally noInst 0x0106 6 1 s
  else s

/-- The event of a count register that wraps from 0xFFFF_FFFF to 0 (R386): GROUP 0, TARGET 0xFFFF, INDEX its address. -/
def wrapEvent (addr : Nat) (s : State) : State := notice kCounterWrap [0xFFFF * 2 ^ 16 + addr * 2 ^ 32] s

/-! ### Faults on their way to the collector -/

/-- A die as a part: dies have no source of their own and report on their channel's line. -/
def diePart (die : Nat) : Nat := 0x1000 + die

/-- Class of Table AR-9 that a part belongs to: 1 lane, 2 die or NAND channel, 3 DRAM channel, 4 steward core,
5 host port, 6 thermal sensor. -/
def arClass (part : Nat) : Nat :=
  if part ≤ 0xBF then 1 else if part ≤ 0xFF then 2 else if part ≤ 0x117 then 3 else if part ≤ 0x127 then 4
  else if part = 0x12C || part = 0x12D || part = 0x172 || part = 0x173 then 5
  else if 0x130 ≤ part && part ≤ 0x147 then 6 else if 0x1000 ≤ part then 2 else 0

/-- Whether the class of a part holds an unrestored fault of another part (R29, R371). -/
def classHeld (s : State) (part : Nat) : Bool :=
  s.fcl.unrestored.any fun u => u != part && arClass u == arClass part && arClass part != 0

/-- A fault reaches the arbiter: it opens a capture window or joins the open one (R374). R371 raises it to CONTAIN while
its class holds an unrestored fault. -/
def raise (part : Nat) (f : Fault') (s : State) : State :=
  let f := if classHeld s part then { f with severity := max f.severity sevContain } else f
  { s with fcl := { s.fcl with
      window := s.fcl.window ++ [f]
      windowAt := if s.fcl.window.isEmpty then s.quartz else s.fcl.windowAt } }

/-- Default severity of a source (Table FE-2); none where the table names no part. -/
def defaultSev (src : Nat) : Nat :=
  if src ≤ 0x12D && !(src = 0x12E) then sevDegrade
  else if 0x130 ≤ src && src ≤ 0x147 then sevDegrade
  else if 0x150 ≤ src && src ≤ 0x15F then sevDegrade
  else if src = 0x163 || src = 0x170 || src = 0x171 || (0x176 ≤ src && src ≤ 0x178) then sevHalt
  else if 0x160 ≤ src && src ≤ 0x16B then sevContain
  else if 0x16C ≤ src && src ≤ 0x16E then sevDegrade
  else if src = 0x16F then sevContain
  else if 0x172 ≤ src && src ≤ 0x175 then sevDegrade
  else 0

/-- A fault of a line with its default severity. -/
def lineFault (src access master addr : Nat) : Fault' :=
  { source := src, severity := defaultSev src, addr := addr, access := access, master := master, inst := noInst,
    code := kFault, payload := 0 }

/-- A fault that a rule raises without a fault line (R370). -/
def ruleFault (code sev src inst : Nat) (args : List Nat) : Fault' :=
  { source := src, severity := sev, addr := 0, access := 0, master := 0xFF, inst := inst, code := code,
    payload := argsPayload args }

/-- Redundancy of a part is restored: a RESTORED record, and the part no longer holds its class (R29). -/
def restored (part source : Nat) (s : State) : State :=
  event kRestored sevNotice source noInst []
    { s with fcl := { s.fcl with unrestored := s.fcl.unrestored.filter (· != part) } }

/-- A part is lost and its redundancy not yet restored (R29). -/
def unrestore (part : Nat) (s : State) : State :=
  if s.fcl.unrestored.contains part then s
  else { s with fcl := { s.fcl with unrestored := s.fcl.unrestored ++ [part] } }

/-- A part whose restoration Table AR-9 gives as immediate is faulted: it is restored in the same update in RUN and in a
dump; one lost before acceptance opens is restored when it opens (R29). -/
def restoredOrHeld (part : Nat) (s : State) : State :=
  if s.sys.boot = .run || s.sys.boot = .dump then restored part part s else unrestore part s

/-- IDENTIFY page 1 DEGRADED and attestation FLAGS[1] (R29): a part of Table AR-9 is not restored, or lost beyond repair. -/
def degraded (s : State) : Bool :=
  s.fcl.unrestored.any (fun u => arClass u != 0) || !s.med.beyondRepair.isEmpty

/-! ### Hardware transactions (R202–R205) -/

/-- Address of the 128-byte line that holds the map entry of an instance's zone (log entry 9). -/
def mapLine (i zone : Nat) : Nat := Config.mapLine i zone % 2 ^ 64 / 128 * 128

/-- The line that holds the page-map entry of a conventional block: 16 entries of 8 bytes a line, behind the zones' (R14, log
entry 9). -/
def convLine (i blk : Nat) : Nat := mapLine i (2 ^ 32 + blk / 16)

/-- Line of the configuration root (R202, log entry 9). -/
def rootLine : Nat := Config.rootLine % 2 ^ 64 / 128 * 128

/-- The line that holds a stored block's map entry. -/
def keyLine (k : BlkKey) : Nat := if k.conv then convLine k.inst k.offset else mapLine k.inst k.zone

/-- A line that an HWT holds locked (R202, R346). -/
def hwtLocked (s : State) (line : Nat) : Bool := s.jrn.locks.any fun l => l.contains line

/-- The lines of a set are locked, all at once (R202). -/
def lockLines (lines : List Nat) (s : State) : State :=
  if lines.isEmpty then s else { s with jrn := { s.jrn with locks := s.jrn.locks ++ [lines] } }

/-- The next checkpoint segment is written: it reflects every seal so far, and the staging keeps only seals newer than the
oldest segment (R268). -/
def checkpoint (s : State) : State :=
  let segs := s.med.segs.drop 1 ++ [s.jrn.sealed]
  let low := segs.foldl min s.jrn.sealed
  { s with
    med := { s.med with segs := segs }
    jrn := { s.jrn with staging := s.jrn.staging.filter fun r => r.rtype != 0x10 || low < r.jseq } }

/-- Seals in the staging. -/
def stagedSeals (s : State) : Nat := (s.jrn.staging.filter fun r => r.rtype = 0x10).length

/-- The seal of a map-update (client 1) or Slate (client 2) HWT over some entries: its HWT_SEAL record takes both copies of
the staging and the lines stay locked until the unlock; the apply is the same update here (R195, R202, R205). At 32 MiB of
staged seals the oldest segments are written first (R268, log entry 125). -/
def sealHwt (client entries : Nat) (lines : List Nat) (s : State) : State :=
  let n := s.jrn.jseq
  let s := lockLines lines { s with jrn := { s.jrn with
    jseq := n + 1, sealed := n
    staging := s.jrn.staging ++ [
      { rtype := 0x10, client := client, inst := 0, txnId := 0, desc := 0, jseq := n, time := s.quartz
        bodyNum := Config.hwtUpdates client entries % 2 ^ 32 + Config.hwtSetAddr n % 2 ^ 64 * 2 ^ 64
        bad := false }] } }
  if 2 ^ 25 / 64 ≤ stagedSeals s then checkpoint (checkpoint s) else s

/-! ### Instances -/

/-- A created instance. -/
def inst? (s : State) (i : Nat) : Option Inst := amGet? s.insts i

/-- Store a created instance. -/
def setInst (i : Nat) (x : Inst) (s : State) : State := { s with insts := amSet s.insts i x }

/-- Change a created instance; an instance that is not created stays so. -/
def modInst (i : Nat) (f : Inst → Inst) (s : State) : State := { s with insts := amModify s.insts i f }

/-- Numbers of the created instances, ascending. -/
def instNums (s : State) : List Nat := s.insts.map Prod.fst

/-- Do something for every created instance, in ascending number. -/
def forInsts (f : Nat → State → State) (s : State) : State := (instNums s).foldl (fun s i => f i s) s

/-- An instance is in service (R276). -/
def inService (x : Inst) : Bool := !x.held && !x.replayHeld

/-! ### Free values -/

/-- `n` random bytes: the free value at the counter, which advances (log entry 5). -/
def drawBytes (n : Nat) (s : State) : List Byte × State :=
  ((List.range n).map (fun i => ((Config.freeBytes s.free)[i]?).getD 0), { s with free := s.free + 1 })

end Sys2Proof.Machine
end

