-- ==== Sys2Proof/Machine/Bpm.lean ====
section
/-! DEFINITION. The buffer pool manager: the fixed pools (Table MM-11), free lists, allocation, reference counts and POISON
(R350–R354); where buffers lie in DRAM, and whether a copy of them can still be read (R14, R323, R335, R339). -/

namespace Sys2Proof.Machine

open Sys2Proof

/-! ### Pools -/

/-- MEDIUM, size and MIN of the fixed pools 0–11 (Table MM-11). -/
def fixedPools : List (Nat × Nat × Nat) :=
  [(0, 5120, 1024), (1, 5120, 1024), (0, 912, 64), (1, 912, 64), (2, 524288, 0), (3, 524288, 0), (2, 1048576, 4096),
   (3, 1048576, 4096), (2, 262144, 1024), (3, 262144, 1024), (2, 65536, 256), (3, 65536, 256)]

/-- The pools as a start sets them: the fixed ones, every buffer free; the firmware defines none of pools 12–63 (log entry
12). -/
def startPools : List Pool :=
  (fixedPools.map fun p => { coldPool with medium := p.1, defined := true, size := p.2.1, min := p.2.2 }) ++
    List.replicate 52 coldPool

def poolAt (s : State) (p : Nat) : Pool := s.bpm.pools.getD p coldPool

def modPool (p : Nat) (f : Pool → Pool) (s : State) : State :=
  { s with bpm := { s.bpm with pools := modNth s.bpm.pools p f } }

/-- OWNED of a pool (R354). -/
def poolOwned (s : State) (p : Nat) : Nat := (poolAt s p).used.length

/-- FREE of a pool: FREE + OWNED + IN_FLIGHT = SIZE (R354). IN_FLIGHT is 0 between commands. -/
def poolFree (s : State) (p : Nat) : Nat := (poolAt s p).size - poolOwned s p

/-- A failed allocation counts in BPM_FAIL, which wraps into BPM_OVF bit p (R352). -/
def poolFail (p : Nat) (s : State) : State :=
  let n := (poolAt s p).fail
  let wraps := n = 0xFFFFFFFF
  let s := modPool p (fun q => { q with fail := (q.fail + 1) % 2 ^ 32 }) s
  let s := if wraps then wrapEvent (0x00900018 + 0x40 * p) { s with bpm := { s.bpm with ovf := setBit s.bpm.ovf p true } }
    else s
  tally noInst 0x0105 (6 * p + 4) 1 s

/-- The next free buffer, which a free one names in its first 8 bytes (R351). -/
def nextFree (q : Pool) (b : Nat) : Nat := amGetD q.links b (b + 1)

/-- The head of the free list is popped for an owner: its count is 1 and POISON clear (R351, R353). -/
def popBuf (port : Nat) (q : Pool) : Pool :=
  { q with head := nextFree q q.head, links := amErase q.links q.head
           used := amSet q.used q.head { count := 1, poison := false, port := port } }

/-- A released buffer becomes the head of the free list. -/
def pushBuf (b : Nat) (q : Pool) : Pool :=
  { q with head := b, links := amSet q.links b q.head, used := amErase q.used b }

/-- One allocation: an ordinary one fails where FREE is at or below MIN, a reserved one where it is 0 (R352). -/
def allocBuf (p port : Nat) (reserved : Bool) (s : State) : Option Nat × State :=
  let q := poolAt s p
  if poolFree s p ≤ (if reserved then 0 else q.min) then (none, poolFail p s)
  else (some q.head, modPool p (popBuf port) s)

/-- An increment of a reference count. One that would pass 65,535 fails with a NOTICE record (R353). -/
def incRef (p b : Nat) (s : State) : Bool × State :=
  match amGet? (poolAt s p).used b with
  | none => (false, s)
  | some d =>
    if 65535 ≤ d.count then (false, tally noInst 0x0105 (6 * p + 5) 1 (notice kMemory [p, b] s))
    else (true, modPool p (fun q => { q with used := amSet q.used b { d with count := d.count + 1 } }) s)

/-- A decrement: at 0 the buffer is released; one of a count that is already 0 is ignored and raises a DEGRADE fault that names
the pool, the buffer and the port (R353). -/
def decRef (p b port : Nat) (s : State) : State :=
  match amGet? (poolAt s p).used b with
  | none => raise 0x165 (ruleFault kMemory sevDegrade 0x165 noInst [p, b, port]) s
  | some d =>
    if d.count ≤ 1 then modPool p (pushBuf b) s
    else modPool p (fun q => { q with used := amSet q.used b { d with count := d.count - 1 } }) s

/-- Data marked poison have been written into a buffer (R351). -/
def poisonBuf (p b : Nat) (s : State) : State :=
  modPool p (fun q => { q with used := amModify q.used b fun d => { d with poison := true } }) s

/-- POISON of a buffer. -/
def bufPoison (s : State) (p b : Nat) : Bool := (amGet? (poolAt s p).used b).any (·.poison)

/-- An owner lets some buffers go. -/
def freeBufs (port : Nat) (l : List (Nat × Nat)) (s : State) : State := l.foldl (fun s b => decRef b.1 b.2 port s) s

/-- A buffer of the first pool that gives one; each pool with the kind of its allocation. -/
def takeFirst (port : Nat) : List (Nat × Bool) → State → Option (Nat × Nat) × State
  | [], s => (none, s)
  | (p, r) :: l, s => match allocBuf p port r s with
    | (some b, s) => (some (p, b), s)
    | (none, s) => takeFirst port l s

/-- A buffer for the output of a lane or the data of a media transfer: in the landing SRAM or else the DRAM of a half, in the
other half where the half's pools have reached their reserved minima; the completion of accepted work allocates reserved (R15,
R350, R352). -/
def takeEgress (half : Nat) (s : State) : Option (Nat × Nat) × State :=
  takeFirst 1 [(2 + half, false), (6 + half, false), (3 - half, false), (7 - half, false), (6 + half, true),
    (7 - half, true)] s

/-- A buffer for a block that is moved: in the half of its channel, else in the other one (R15, R352). -/
def takeStage (half : Nat) (s : State) : Option (Nat × Nat) × State :=
  takeFirst 2 [(8 + half, false), (9 - half, false), (8 + half, true), (9 - half, true)] s

/-- The buffers of a journal page: four of 4 KiB (R196, Table MM-11). -/
def takePage (s : State) : List (Nat × Nat) × State :=
  (List.range 4).foldl (fun a _ => match takeFirst 4 [(10, true), (11, true)] a.2 with
    | (some b, s) => (a.1 ++ [b], s)
    | (none, s) => (a.1, s)) ([], s)

/-! ### DRAM: where words lie (R323, Table MM-3) -/

/-- Group and word number of a usable address: seven words of 64 bytes a group (R323). -/
def groupOf (addr : Nat) : Nat := addr / 64 / 7
def wordOf (addr : Nat) : Nat := addr / 64 % 7

/-- Channel of a group of a half (R323). -/
def groupChannel (half group : Nat) : Nat := 12 * half + group % 12

/-- First address of a DRAM pool in its half: the twin pools fill the first region; the others begin the region of the buffer
pools, in order (log entry 119). -/
def poolBase (p : Nat) : Nat :=
  if p < 6 then 0
  else 18468 * 2 ^ 20 + 4168 * (if p < 8 then 0 else if p < 10 then 1048576 else 1048576 + 262144)

/-- Address of a buffer of 4096 + 64 bytes and its descriptor (R350). -/
def bufAddr (p b : Nat) : Nat := poolBase p + 4168 * b

/-- Some of the `len` bytes from an address on lie on a channel of a half's rotation (R323). -/
def onChannel (ch addr len : Nat) : Bool :=
  (List.range (groupOf (addr + len - 1) - groupOf addr + 1)).any fun k => (groupOf addr + k) % 12 = ch % 12

/-- Bytes of a half that cannot be read: a word is poisoned, or lies on a lost channel whose copies are not rebuilt yet (R335,
R339). -/
def dramBad (s : State) (half addr len : Nat) : Bool :=
  (s.dmc.bad.any fun w => w.1 = half && addr / 64 ≤ w.2 && w.2 ≤ (addr + len - 1) / 64) ||
    s.dmc.rebuilding.any fun ch => ch / 12 = half && onChannel ch addr len

/-- The data or the header of a DRAM buffer cannot be read. -/
def bufBad (s : State) (p b : Nat) : Bool := dramBad s (p % 2) (bufAddr p b) 4160

/-! ### Twin buffers (R172–R177) -/

/-- Half of the copy that serves a twin entry for a port of a half: that half's, else the other; none where both fail (R175). -/
def twinHalf (s : State) (half : Nat) (t : Nat × Nat) : Option Nat :=
  let bad := fun h => bufBad s (4 + h) (if h = 0 then t.1 else t.2)
  if !bad half then some half else if !bad (1 - half) then some (1 - half) else none

/-- Both copies of a block are written to fresh buffers, which clears the POISON bits of their words (R172, R336). -/
def takeTwin (s : State) : Option (Nat × Nat) × State :=
  match allocBuf 4 0 true s with
  | (none, s) => (none, s)
  | (some a, s) => match allocBuf 5 0 true s with
    | (none, s) => (none, decRef 4 a 0 s)
    | (some b, s) =>
      let old := fun (w : Nat × Nat) =>
        (w.1 = 0 && bufAddr 4 a / 64 ≤ w.2 && w.2 ≤ (bufAddr 4 a + 4159) / 64) ||
          (w.1 = 1 && bufAddr 5 b / 64 ≤ w.2 && w.2 ≤ (bufAddr 5 b + 4159) / 64)
      (some (a, b), { s with dmc := { s.dmc with bad := s.dmc.bad.filter fun w => !old w } })

/-- Twin buffers for `n` blocks. -/
def takeTwins : Nat → State → List (Nat × Nat) × State
  | 0, s => ([], s)
  | n + 1, s => match takeTwin s with
    | (none, s) => ([], s)
    | (some t, s) =>
      let r := takeTwins n s
      (t :: r.1, r.2)

/-- A holder of a twin entry, or the entry itself, lets its buffers go (R176). -/
def freeTwin (t : Nat × Nat) (s : State) : State := decRef 5 t.2 1 (decRef 4 t.1 1 s)

/-- A READ takes a reference on both buffers of a twin entry (R176). -/
def refTwin (t : Nat × Nat) (s : State) : Bool × State :=
  match incRef 4 t.1 s with
  | (false, s) => (false, s)
  | (true, s) => match incRef 5 t.2 s with
    | (true, s) => (true, s)
    | (false, s) => (false, decRef 4 t.1 1 s)

end Sys2Proof.Machine
end

