-- ==== Sys2Proof/Machine/Crypto.lean ====
section
/-! DEFINITION. The checks and ciphers the spec names by their standards: CRC-32 of IEEE 802.3 (R379), CRC-64 of
ECMA-182 (R195, R292), SHAKE256 and KMAC256 of SP 800-185 (R61, R295, R298), AES-256 with KW of SP 800-38F (R303) and
GCM (R178). PRESUMED: the spec gives the names, the standards give the functions (log entry 6). -/

namespace Sys2Proof.Machine

open Sys2Proof

/-! ### CRC -/

/-- One bit of the reflected CRC-32 register. -/
def crc32Bits : Nat → Nat → Nat
  | 0, r => r
  | n + 1, r => crc32Bits n (if r % 2 = 1 then (r / 2) ^^^ 0xEDB88320 else r / 2)

/-- CRC-32 of IEEE 802.3 over bytes (R379). -/
def crc32 (bs : List Byte) : Nat :=
  (bs.foldl (fun r b => crc32Bits 8 (r ^^^ b.toNat)) 0xFFFFFFFF) ^^^ 0xFFFFFFFF

/-- One bit of the CRC-64 register, most significant bit first. -/
def crc64Bits : Nat → Nat → Nat
  | 0, r => r
  | n + 1, r =>
    crc64Bits n (if r.testBit 63 then ((2 * r) ^^^ 0x42F0E1EBA9EA3693) % 2 ^ 64 else (2 * r) % 2 ^ 64)

/-- CRC-64 of ECMA-182 over bytes (R195, R292). -/
def crc64 (bs : List Byte) : Nat :=
  bs.foldl (fun r b => crc64Bits 8 (r ^^^ (b.toNat <<< 56))) 0

/-! ### Keccak -/

/-- Rotate a 64-bit lane left. -/
def rotl64 (x n : Nat) : Nat := ((x <<< n) ||| (x >>> (64 - n))) % 2 ^ 64

/-- Rotation offsets of ρ, lane index x + 5y. -/
def keccakRho : List Nat :=
  [0, 1, 62, 28, 27, 36, 44, 6, 55, 20, 3, 10, 43, 25, 39, 41, 45, 15, 21, 8, 18, 2, 61, 56, 14]

/-- Round constants of ι. -/
def keccakRc : List Nat :=
  [0x0000000000000001, 0x0000000000008082, 0x800000000000808A, 0x8000000080008000, 0x000000000000808B,
   0x0000000080000001, 0x8000000080008081, 0x8000000000008009, 0x000000000000008A, 0x0000000000000088,
   0x0000000080008009, 0x000000008000000A] ++
  [0x000000008000808B, 0x800000000000008B, 0x8000000000008089, 0x8000000000008003, 0x8000000000008002,
   0x8000000000000080, 0x000000000000800A, 0x800000008000000A, 0x8000000080008081, 0x8000000000008080,
   0x0000000080000001, 0x8000000080008008]

/-- One round of Keccak-f[1600] on 25 lanes. -/
def keccakRound (a : List Nat) (rc : Nat) : List Nat :=
  let g := fun (l : List Nat) (i : Nat) => l.getD i 0
  let c := (List.range 5).map fun x => g a x ^^^ g a (x + 5) ^^^ g a (x + 10) ^^^ g a (x + 15) ^^^ g a (x + 20)
  let d := (List.range 5).map fun x => g c ((x + 4) % 5) ^^^ rotl64 (g c ((x + 1) % 5)) 1
  let t := (List.range 25).map fun i => g a i ^^^ g d (i % 5)
  -- π: B[y, 2x+3y] = rot(A[x, y]); lane i = X + 5Y of B comes from x = X + 3Y, y = X (mod 5)
  let b := (List.range 25).map fun i =>
    let x := (i % 5 + 3 * (i / 5)) % 5
    let y := i % 5
    rotl64 (g t (x + 5 * y)) (g keccakRho (x + 5 * y))
  let e := (List.range 25).map fun i =>
    let r := 5 * (i / 5)
    g b i ^^^ ((2 ^ 64 - 1 - g b (r + (i + 1) % 5)) &&& g b (r + (i + 2) % 5))
  e.set 0 (g e 0 ^^^ rc)

/-- Keccak-f[1600]. -/
def keccakF (a : List Nat) : List Nat := keccakRc.foldl keccakRound a

/-- Absorb one 136-byte rate block. -/
def absorb (a : List Nat) (blk : List Byte) : List Nat :=
  keccakF ((List.range 25).map fun i =>
    a.getD i 0 ^^^ (if i < 17 then ofLeBytes ((blk.drop (8 * i)).take 8) else 0))

/-- Absorb a message that is a whole number of rate blocks; `n` bounds the blocks. -/
def absorbAll : Nat → List Nat → List Byte → List Nat
  | 0, a, _ => a
  | n + 1, a, m => absorbAll n (absorb a (m.take 136)) (m.drop 136)

/-- Squeeze `n` rate blocks. -/
def squeeze : Nat → List Nat → List Byte
  | 0, _ => []
  | n + 1, a => ((a.take 17).flatMap (leBytes 8)) ++ squeeze n (keccakF a)

/-- The sponge at rate 136 with a domain byte, giving `out` bytes. -/
def sponge (dom : Nat) (m : List Byte) (out : Nat) : List Byte :=
  let pad := 136 - m.length % 136
  let p := if pad = 1 then [BitVec.ofNat 8 (dom ||| 0x80)]
           else BitVec.ofNat 8 dom :: (List.replicate (pad - 2) 0 ++ [0x80#8])
  let m' := m ++ p
  (squeeze (ceilDiv out 136) (absorbAll (m'.length / 136) (List.replicate 25 0) m')).take out

/-- SHAKE256 with `out` bytes of output. -/
def shake256 (m : List Byte) (out : Nat) : List Byte := sponge 0x1F m out

/-- Bytes a number needs, at least one (SP 800-185 encodings); `n` bounds them. -/
def encLen : Nat → Nat → Nat
  | 0, _ => 1
  | n + 1, x => if x < 256 then 1 else 1 + encLen n (x / 256)

/-- left_encode of SP 800-185. -/
def leftEncode (x : Nat) : List Byte := let n := encLen 8 x; BitVec.ofNat 8 n :: beBytes n x

/-- right_encode of SP 800-185. -/
def rightEncode (x : Nat) : List Byte := let n := encLen 8 x; beBytes n x ++ [BitVec.ofNat 8 n]

/-- encode_string of SP 800-185. -/
def encodeString (s : List Byte) : List Byte := leftEncode (8 * s.length) ++ s

/-- bytepad of SP 800-185 at rate 136. -/
def bytepad (x : List Byte) : List Byte :=
  let y := leftEncode 136 ++ x
  y ++ List.replicate ((136 - y.length % 136) % 136) 0

/-- KMAC256(K, X, 8·out, S) of SP 800-185 (R295); `out` in bytes. -/
def kmac256 (k x : List Byte) (out : Nat) (s : String) : List Byte :=
  sponge 0x04 (bytepad (encodeString (ascii "KMAC") ++ encodeString (ascii s)) ++ bytepad (encodeString k) ++ x ++
    rightEncode (8 * out)) out

/-! ### AES-256 -/

/-- Multiply by x in GF(2^8). -/
def xtime (a : Nat) : Nat := if a < 128 then 2 * a else (2 * a) ^^^ 0x11B

/-- Multiply in GF(2^8); the second factor's low `n` bits are used. -/
def gmul : Nat → Nat → Nat → Nat
  | 0, _, _ => 0
  | n + 1, a, b => (if b % 2 = 1 then a else 0) ^^^ gmul n (xtime a) (b / 2)

/-- Inverse in GF(2^8): the 254th power. -/
def ginv (a : Nat) : Nat :=
  let m := gmul 8
  let a2 := m a a; let a4 := m a2 a2; let a8 := m a4 a4; let a16 := m a8 a8
  let a32 := m a16 a16; let a64 := m a32 a32; let a128 := m a64 a64
  m (m (m a128 a64) (m a32 a16)) (m (m a8 a4) a2)

/-- The AES S-box. -/
def sbox (a : Nat) : Nat :=
  let b := ginv a
  let r := fun n => ((b <<< n) ||| (b >>> (8 - n))) % 256
  b ^^^ r 1 ^^^ r 2 ^^^ r 3 ^^^ r 4 ^^^ 0x63

/-- The inverse S-box. -/
def invSbox (a : Nat) : Nat :=
  let r := fun n => ((a <<< n) ||| (a >>> (8 - n))) % 256
  ginv (r 1 ^^^ r 3 ^^^ r 6 ^^^ 0x05)

/-- Key expansion of AES-256: words of four bytes, newest last; `n` more words, `i` the next index. -/
def aesExpand : Nat → Nat → Nat → List (List Nat) → List (List Nat)
  | 0, _, _, ws => ws
  | n + 1, i, rc, ws =>
    let p := ws.getD (i - 1) []
    let t :=
      if i % 8 = 0 then
        let q := (p.drop 1 ++ p.take 1).map sbox
        (q.getD 0 0 ^^^ rc) :: q.drop 1
      else if i % 8 = 4 then p.map sbox else p
    aesExpand n (i + 1) (if i % 8 = 0 then xtime rc else rc) (ws ++ [List.zipWith (· ^^^ ·) (ws.getD (i - 8) []) t])

/-- The 15 round keys, 16 bytes each. -/
def aesKeys (key : List Byte) : List (List Nat) :=
  let k := key.map (·.toNat)
  let ws := aesExpand 52 8 1 ((List.range 8).map fun i => (k.drop (4 * i)).take 4)
  (List.range 15).map fun r => ((ws.drop (4 * r)).take 4).flatten

/-- XOR of byte lists. -/
def xorl (a b : List Nat) : List Nat := List.zipWith (· ^^^ ·) a b

/-- MixColumns with the given first row of coefficients. -/
def mixCols (c : List Nat) (s : List Nat) : List Nat :=
  (List.range 16).map fun i =>
    let col := 4 * (i / 4)
    (List.range 4).foldl (fun a j => a ^^^ gmul 8 (s.getD (col + j) 0) (c.getD ((j + 4 - i % 4) % 4) 0)) 0

/-- One AES-256 block encryption on 16 bytes. -/
def aesEnc (ks : List (List Nat)) (p : List Nat) : List Nat :=
  let shift := fun (s : List Nat) => (List.range 16).map fun i => s.getD ((i + 4 * (i % 4)) % 16) 0
  let mid := ((ks.drop 1).take 13).foldl (fun s k => xorl (mixCols [2, 3, 1, 1] (shift (s.map sbox))) k)
    (xorl p (ks.getD 0 []))
  xorl (shift (mid.map sbox)) (ks.getD 14 [])

/-- One AES-256 block decryption on 16 bytes. -/
def aesDec (ks : List (List Nat)) (c : List Nat) : List Nat :=
  let shift := fun (s : List Nat) => (List.range 16).map fun i => s.getD ((i + 12 * (i % 4)) % 16) 0
  let start := (shift (xorl c (ks.getD 14 []))).map invSbox
  let mid := (((ks.drop 1).take 13).reverse).foldl
    (fun s k => (shift (mixCols [14, 11, 13, 9] (xorl s k))).map invSbox) start
  xorl mid (ks.getD 0 [])

/-- The integrity check value of KW (R303). -/
def kwIv : List Nat := List.replicate 8 0xA6

/-- KW wrap steps: `t` counts from 1 to 6n. -/
def kwWrapSteps (ks : List (List Nat)) (n : Nat) : Nat → Nat → List Nat → List (List Nat) → List Nat × List (List Nat)
  | 0, _, a, r => (a, r)
  | k + 1, t, a, r =>
    let i := (t - 1) % n
    let b := aesEnc ks (a ++ r.getD i [])
    kwWrapSteps ks n k (t + 1) (xorl (b.take 8) ((beBytes 8 t).map (·.toNat))) (r.set i (b.drop 8))

/-- AES-256 KW wrap of SP 800-38F. -/
def kwWrap (key p : List Byte) : List Byte :=
  let n := p.length / 8
  let r := (List.range n).map fun i => ((p.drop (8 * i)).take 8).map (·.toNat)
  let x := kwWrapSteps (aesKeys key) n (6 * n) 1 kwIv r
  (x.1 ++ x.2.flatten).map (BitVec.ofNat 8)

/-- KW unwrap steps: `t` counts from 6n down to 1. -/
def kwUnwrapSteps (ks : List (List Nat)) (n : Nat) : Nat → List Nat → List (List Nat) → List Nat × List (List Nat)
  | 0, a, r => (a, r)
  | t + 1, a, r =>
    let i := t % n
    let b := aesDec ks (xorl a ((beBytes 8 (t + 1)).map (·.toNat)) ++ r.getD i [])
    kwUnwrapSteps ks n t (b.take 8) (r.set i (b.drop 8))

/-- AES-256 KW unwrap: none where the integrity check fails (R303). -/
def kwUnwrap (key w : List Byte) : Option (List Byte) :=
  let n := w.length / 8 - 1
  let r := (List.range n).map fun i => ((w.drop (8 * (i + 1))).take 8).map (·.toNat)
  let x := kwUnwrapSteps (aesKeys key) n (6 * n) ((w.take 8).map (·.toNat)) r
  if x.1 = kwIv then some (x.2.flatten.map (BitVec.ofNat 8)) else none

/-! ### GCM -/

/-- Multiply in GF(2^128), bit 127 first, as GHASH has it. -/
def ghashMul : Nat → Nat → Nat → Nat → Nat
  | 0, _, _, z => z
  | n + 1, x, v, z =>
    ghashMul n x (if v % 2 = 1 then (v / 2) ^^^ (0xE1 <<< 120) else v / 2) (if x.testBit n then z ^^^ v else z)

/-- GHASH over 16-byte pieces, the last one filled with zeros; `n` bounds the pieces. -/
def ghash (h : Nat) : Nat → List Byte → Nat → Nat
  | 0, _, y => y
  | n + 1, bs, y =>
    if bs.isEmpty then y
    else ghash h n (bs.drop 16) (ghashMul 128 (y ^^^ ofBeBytes (bs.take 16 ++ List.replicate (16 - (bs.take 16).length) 0)) h 0)

/-- Counter-mode key stream applied to bytes; `c` is the next counter. -/
def gcmCtr (ks : List (List Nat)) (nonce : List Byte) : Nat → Nat → List Byte → List Byte
  | 0, _, _ => []
  | n + 1, c, bs =>
    if bs.isEmpty then []
    else List.zipWith (fun b k => b ^^^ BitVec.ofNat 8 k) (bs.take 16)
        (aesEnc ks ((nonce ++ beBytes 4 c).map (·.toNat))) ++ gcmCtr ks nonce n (c + 1) (bs.drop 16)

/-- AES-256-GCM with a 96-bit nonce and no additional data: ciphertext and 16-byte tag (R178). -/
def gcmSeal (key nonce p : List Byte) : List Byte × List Byte :=
  let ks := aesKeys key
  let n := p.length / 16 + 1
  let c := gcmCtr ks nonce n 2 p
  let h := ofBeBytes ((aesEnc ks (List.replicate 16 0)).map (BitVec.ofNat 8))
  let s := ghashMul 128 (ghash h n c 0 ^^^ (8 * p.length)) h 0
  let e := ofBeBytes ((aesEnc ks ((nonce ++ beBytes 4 1).map (·.toNat))).map (BitVec.ofNat 8))
  (c, beBytes 16 (s ^^^ e))

end Sys2Proof.Machine
end

