-- ==== Sys2Proof/Machine/Operands.lean ====
section
/-! DEFINITION. The operand forms: fields of the task record (Tables CM-2 to CM-23), frame headers and bodies as bytes
(Tables TP-4 to TP-13), the keyed-check input (Table TR-3), blocks and their bytes (R4, R5). -/

namespace Sys2Proof.Machine

open Sys2Proof

/-! ### Blocks and records as bytes -/

/-- `n` bytes of a bit string, byte 0 lowest. -/
def bytesOf (n : Nat) {w : Nat} (x : BitVec w) : List Byte := leBytes n x.toNat

/-- A block of 4096 bytes with the given bytes at offset 0 and 0 after them. -/
def blockOf (bs : List Byte) : Block := BitVec.ofNat 32768 (ofLeBytes (bs.take 4096))

/-- The block filled with a 32-bit pattern (FILL; R133). -/
def fillBlock (p : U32) : Block := BitVec.ofNat 32768 (p.toNat * ((2 ^ 32768 - 1) / (2 ^ 32 - 1)))

/-- The 64 metadata bytes filled with a 32-bit pattern. -/
def fillMeta (p : U32) : Meta := BitVec.ofNat 512 (p.toNat * ((2 ^ 512 - 1) / (2 ^ 32 - 1)))

/-- Field of `size` bytes at byte `off` of a task record (R122). -/
def recField (r : BitVec 512) (off size : Nat) : Nat := bits r.toNat (8 * off) (8 * size)

def recOp (r : BitVec 512) : Nat := recField r 0 1
def recConv (r : BitVec 512) : Bool := bit r.toNat 8
def recMeta (r : BitVec 512) : Bool := bit r.toNat 9
def recDeadline (r : BitVec 512) : Nat := recField r 2 2
def recTxn (r : BitVec 512) : Nat := recField r 4 2

/-- ADDR of READ, WRITE and APPEND (R131): zone index and offset, and the conventional block number. -/
def recZone (r : BitVec 512) : Nat := recField r 0x0C 4
def recOffset (r : BitVec 512) : Nat := recField r 0x08 4
def recConvBlk (r : BitVec 512) : Nat := recField r 0x08 8
def recNblk (r : BitVec 512) : Nat := recField r 0x10 2
def recHint (r : BitVec 512) : Byte := BitVec.ofNat 8 (recField r 0x12 1)
def recKey (r : BitVec 512) : Nat := recField r 0x14 2

/-- Zone, hint and key of the zone operations (Table CM-9). -/
def recZoneIdx (r : BitVec 512) : Nat := recField r 0x08 4
def recZoneHint (r : BitVec 512) : Byte := BitVec.ofNat 8 (recField r 0x0C 1)
def recZoneKey (r : BitVec 512) : Nat := recField r 0x0E 2

/-! ### Task types (Table CM-3) -/

/-- The OPCODE stands in Table CM-3. -/
def opKnown (op : Nat) : Bool := decide (1 ≤ op) && decide (op ≤ 0x14)

/-- Critical types (R125): ZONE_FINISH, ZONE_RESET, TXN_COMMIT, MAILBOX_SEND, KEY_LOAD, KEY_ERASE, KEY_ROTATE. -/
def opCritical (op : Nat) : Bool := [0x06, 0x07, 0x0A, 0x10, 0x12, 0x13, 0x14].contains op

/-- Types with one up DATA frame whose body the tag covers (Table TR-3). -/
def opOneData (op : Nat) : Bool := op = 0x10 || op = 0x12 || op = 0x14

/-- Abortable types. -/
def opAbortable (op : Nat) : Bool := [0x01, 0x08, 0x0D, 0x0E, 0x0F, 0x10, 0x11].contains op

/-- Types that may carry a TXN_ID as members. -/
def opMember (op : Nat) : Bool := op = 0x02 || op = 0x03 || op = 0x06 || op = 0x07

/-- Types that return down DATA frames (R114). -/
def opReads (op : Nat) : Bool := [0x01, 0x08, 0x0E, 0x0F, 0x11].contains op

/-- Up DATA frames of a task (R102): none where the record gives no valid count. -/
def upData (r : BitVec 512) : Nat :=
  let op := recOp r
  if op = 0x02 || op = 0x03 then (if 1 ≤ recNblk r && recNblk r ≤ 256 then recNblk r else 0)
  else if opOneData op then 1 else 0

/-- The record gives no valid count of up DATA frames (R102). -/
def noCount (r : BitVec 512) : Bool :=
  !opKnown (recOp r) || ((recOp r = 0x02 || recOp r = 0x03) && !(1 ≤ recNblk r && recNblk r ≤ 256))

/-- Default type masks of Table CM-3, bit n for OPCODE n. -/
def tenantMask : Nat := 0x1FFFFE
def managerMask : Nat := 0x13F000

/-! ### Bytes of a record that the tables of its type name -/

/-- (offset, size) of the operand fields of each type; every other operand byte is reserved (R122). -/
def opFields (op : Nat) : List (Nat × Nat) :=
  if op = 0x01 then [(0x08, 8), (0x10, 2)]
  else if op = 0x02 || op = 0x03 then [(0x08, 8), (0x10, 2), (0x12, 1), (0x14, 2)]
  else if op = 0x04 then [(0x08, 4), (0x0C, 1), (0x0E, 2)]
  else if op = 0x05 || op = 0x06 || op = 0x07 then [(0x08, 4)]
  else if op = 0x08 then [(0x08, 4), (0x0C, 4), (0x10, 2), (0x12, 1)]
  else if op = 0x09 then [(0x08, 4)]
  else if op = 0x0C then [(0x08, 2), (0x0C, 4)]
  else if op = 0x0D then [(0x08, 4)]
  else if op = 0x0E then [(0x08, 1)]
  else if op = 0x0F then [(0x08, 2), (0x0A, 2), (0x0C, 2)]
  else if op = 0x10 || op = 0x12 then [(0x08, 2), (0x0A, 2)]
  else if op = 0x13 then [(0x08, 2)]
  else if op = 0x14 then [(0x08, 1), (0x0A, 2)]
  else []

/-- Lowest byte at or after `off` that no field names and that is not 0. -/
def badReserved (r : BitVec 512) (fs : List (Nat × Nat)) : Nat → Nat → Option Nat
  | 0, _ => none
  | n + 1, off =>
    if fs.any (fun p => decide (p.1 ≤ off) && decide (off < p.1 + p.2)) then badReserved r fs n (off + 1)
    else if recField r off 1 = 0 then badReserved r fs n (off + 1) else some off

/-- Lowest of the offsets whose test fails. -/
def firstBad (l : List (Bool × Nat)) : Option Nat :=
  l.foldl (fun a p => if p.1 then a else match a with
    | none => some p.2
    | some x => some (min x p.2)) none

/-! ### Frame headers and bodies -/

/-- The ETP header as bytes, with the fields that Table TR-3 sets to 0 set to 0: ACK, TIME, ECHO, LINK, INCARN and
FLAGS.RETX. -/
def tagHeader (type flags inst slot seq len block : Nat) : List Byte :=
  leBytes 1 1 ++ leBytes 1 type ++ leBytes 2 (setBit flags 3 false) ++ leBytes 2 inst ++ leBytes 2 slot ++
    leBytes 4 seq ++ leBytes 4 0 ++ leBytes 2 len ++ leBytes 2 block ++ leBytes 4 0 ++ leBytes 4 0 ++ leBytes 1 0 ++
    leBytes 1 0 ++ leBytes 2 0

/-- KMAC input X of Table TR-3. -/
def tagInput (dir gen inst counter : Nat) (hdr body data : List Byte) : List Byte :=
  leBytes 1 dir ++ leBytes 1 gen ++ leBytes 2 inst ++ leBytes 8 counter ++ hdr ++ body ++ data

/-- TAG = KMAC256(K, X, 128, "ETZ-CMD") (R298). -/
def tagOf (key : BitVec 256) (x : List Byte) : BitVec 128 :=
  BitVec.ofNat 128 (ofLeBytes (kmac256 (bytesOf 32 key) x 16 "ETZ-CMD"))

/-- Bytes of an up header for the tag. -/
def upTagHeader (type : Nat) (h : Header) : List Byte :=
  tagHeader type h.flags.toNat h.inst.toNat h.slot.toNat h.seq.toNat h.len.toNat h.block.toNat

/-- MGMT body (Table TP-13). -/
def mgmtBody (op count rsv : Nat) (addr : U32) (data : List U32) : List Byte :=
  leBytes 1 op ++ leBytes 1 count ++ leBytes 2 rsv ++ leBytes 4 addr.toNat ++
    data.flatMap fun w => leBytes 4 w.toNat

/-- COMPLETION body (Table TP-8). -/
def completionBody (c : Completion) : List Byte :=
  leBytes 1 c.status ++ leBytes 1 c.op ++ leBytes 2 (flag c.dropped 0) ++ leBytes 4 c.taskSeq.toNat ++
    leBytes 8 c.result ++ leBytes 8 c.acceptTime ++ leBytes 4 c.serviceNs ++ leBytes 4 0

/-- TASK = 1, DATA = 2, COMPLETION = 3, ACK = 4, REJECT = 5, NOTIFY = 6, MGMT = 7, DIAG = 8 (Table TP-6). -/
def upType : Up → Nat
  | .task _ => 1
  | .data _ => 2
  | .mgmt _ => 7

def upEnv : Up → Env
  | .task f => f.env
  | .data f => f.env
  | .mgmt f => f.env

/-- AUTH: the frame carries a trailer (R97). -/
def hasTrailer (h : Header) : Bool := h.flags.getLsbD 0

/-- The trailer of an up frame. -/
def upTrailer : Up → Option Trailer
  | .task f => if hasTrailer f.env.hdr then some f.trailer else none
  | .data _ => none
  | .mgmt f => if hasTrailer f.env.hdr then some f.trailer else none

/-- COUNTER of an up frame, 0 when it carries no trailer (R108). -/
def upCounter (u : Up) : Nat := match upTrailer u with
  | some t => t.counter.toNat
  | none => 0

/-- Body of an up frame as bytes. -/
def upBody : Up → List Byte
  | .task f => bytesOf 64 f.record
  | .data f => bytesOf 4096 f.data
  | .mgmt f => mgmtBody f.op.toNat f.count.toNat f.reserved.toNat f.addr f.data

/-- Flags that an up frame of a type may and must set (Table TP-5A), as masks. -/
def flagsAllowed (type : Nat) : Nat :=
  if type = 1 || type = 7 then 0x09 else if type = 2 then 0x2A else if type = 4 then 0xCC else 0x0C

/-- FLAGS follow Tables TP-5 and TP-5A: bit 2 exactly for the unsequenced types ACK and DIAG. -/
def flagsOk (type flags : Nat) : Bool :=
  flags &&& flagsAllowed type == flags && (flags.testBit 2 == (type = 4 || type = 8 : Bool))

/-- First header field of an up frame that breaks Tables TP-4 to TP-6, by its offset (R95). `lenOk` says whether LEN
fits the type's body. -/
def headerBad (type : Nat) (h : Header) (lenOk : Bool) : Option Nat :=
  if h.version.toNat ≠ 1 then some 0x00
  else if !flagsOk type h.flags.toNat then some 0x02
  else if (type = 4 || type = 7 || type = 8) && h.slot.toNat ≠ 0 then some 0x06
  else if (type = 4 || type = 8) && h.seq.toNat ≠ 0 then some 0x08
  else if !lenOk then some 0x10
  else if (type = 2 && 255 < h.block.toNat) || (type ≠ 2 && h.block.toNat ≠ 0) then some 0x12
  else if h.reserved.toNat ≠ 0 then some 0x1E
  else none

/-- LEN fits the body (Table TP-6). A MGMT request whose OP or COUNT is itself bad is judged later (R98). -/
def upLenOk : Up → Bool
  | .task f => f.env.hdr.len.toNat = 64
  | .data f => f.env.hdr.len.toNat = if f.env.hdr.flags.getLsbD 5 then 4160 else 4096
  | .mgmt f =>
    if f.op = 2 && 1 ≤ f.count.toNat && f.count.toNat ≤ 32 then
      f.env.hdr.len.toNat = 8 + 4 * f.count.toNat && f.data.length = f.count.toNat
    else if f.op = 1 && 1 ≤ f.count.toNat && f.count.toNat ≤ 32 then f.env.hdr.len.toNat = 8
    else true

end Sys2Proof.Machine
end

