-- ==== Sys2Proof/Machine/Frames.lean ====
section
/-! DEFINITION. What the device sends: links and modes (R84, R110), sequenced and unsequenced down frames (R100, R103,
R106), replies with trailers (R97, R299), REJECT and NOTIFY frames, violations and quarantine (R115–R117). -/

namespace Sys2Proof.Machine

open Sys2Proof

/-! ### Links -/

/-- Lanes per link of a mode (Table TP-1). -/
def lanesPerLink (mode : Nat) : Nat := if mode = 0 then 8 else if mode = 1 then 4 else if mode = 2 then 2 else 1

/-- Link rate of a mode in Gb/s. -/
def linkGbps (mode : Nat) : Nat := 100 * lanesPerLink mode

/-- Mode in force of a port. -/
def portMode (s : State) (port : Nat) : Nat := if port = 0 then s.eth.p0mode else s.eth.p1mode

/-- Link n exists in the mode in force on its port (R84). -/
def linkExists (s : State) (n : Nat) : Bool := n < 16 && n % 8 % lanesPerLink (portMode s (n / 8)) = 0

/-- Link n is up (ETH_LINKSTAT.UP). -/
def linkUp (s : State) (n : Nat) : Bool := s.eth.up.testBit n

/-- An instance may use link n (R93). Instance 0 and tenants alike hold the mask in their parameters. -/
def linkAllowed (x : Inst) (n : Nat) : Bool := x.params.links.testBit n

/-- Lowest link of a list that is up and allowed. -/
def firstLink (s : State) (x : Inst) (l : List Nat) : Option Nat := l.find? fun n => linkUp s n && linkAllowed x n

/-- Links 8p to 8p+7. -/
def portLinks (p : Nat) : List Nat := (List.range 8).map (8 * p + ·)

/-- The link a frame is sent on: the preferred one while it is up, else the lowest-numbered allowed link that is up on
the other port, then on the same port (R110). -/
def pickLink (s : State) (x : Inst) (pref : Nat) : Option Nat :=
  if linkUp s pref then some pref
  else match firstLink s x (portLinks (1 - pref / 8)) with
    | some n => some n
    | none => firstLink s x (portLinks (pref / 8))

/-! ### Sending -/

/-- Bytes of an outer header and FCS (Table TP-2): Ethernet, a tag where the PORTS entry sets a VLAN, IP and UDP. -/
def outerBytes (s : State) (e : Encap) : Nat :=
  18 + (if s.img.ports.vlan = 0 then 0 else 4) + (match e with
    | .raw => 0
    | .udp4 => 28
    | .udp6 => 48)

/-- Bytes of a frame from the destination address to the FCS (R390). An ARP reply and a pause frame have the 64 bytes of
the shortest Ethernet frame, a Neighbor Advertisement 40 bytes of IPv6 and 32 of ICMPv6. -/
def downBytes (s : State) (d : Down) : Nat :=
  let etp := fun n => 32 + n + (if d.trailer.isSome then 32 else 0) +
    outerBytes s ((d.dst.map (·.encap)).getD .raw)
  match d.body with
  | .data _ m => etp (if m.isSome then 4160 else 4096)
  | .completion _ => etp 32
  | .ack .. => etp 16
  | .reject _ => etp 32
  | .notify .. => etp 24
  | .mgmt _ _ _ l => etp (8 + 4 * l.length)
  | .diag _ _ _ _ l _ => etp (16 + l.length)
  | .arp _ => 64
  | .neighbor _ => 72 + outerBytes s .raw
  | .pause .. => 64

/-- Count a frame sent on a link (Table FE-12, group 0x0100), in frames and 64-byte units. -/
def countOut (link bytes : Nat) (s : State) : State :=
  let s := { s with tal := { s.tal with txUnits := modNth s.tal.txUnits link (· + ceilDiv bytes 64) } }
  tally noInst 0x0100 (8 * link + 3) (ceilDiv bytes 64) (tally noInst 0x0100 (8 * link + 1) 1 s)

/-- Count a frame received on a link (Table FE-12, group 0x0100), in frames and 64-byte units. -/
def countIn (link bytes : Nat) (s : State) : State :=
  let s := { s with tal := { s.tal with rxUnits := modNth s.tal.rxUnits link (· + ceilDiv bytes 64) } }
  tally noInst 0x0100 (8 * link + 2) (ceilDiv bytes 64) (tally noInst 0x0100 (8 * link) 1 s)

/-! ### Outer headers (R88–R91) -/

/-- IPv4 and IPv6 addresses of a link (Table TP-3); none before an image runs. -/
def linkIp4 (s : State) (l : Nat) : Option (BitVec 32) := (s.img.ports.links[l]?).map (·.ip4)
def linkIp6 (s : State) (l : Nat) : Option (BitVec 128) := (s.img.ports.links[l]?).map (·.ip6)

/-- Factory MAC address of a link (R429). -/
def factoryMac (s : State) (l : Nat) : BitVec 48 := s.sys.macBase + BitVec.ofNat 48 l

/-- MAC address of a link: that of the entry, or the factory one (Table TP-3). -/
def entryMac (s : State) (l : Nat) (a : LinkAddr) : BitVec 48 :=
  if a.mac = BitVec.allOnes 48 then factoryMac s l else a.mac

/-- MAC address of a link: that of the PORTS entry; the factory address before an image runs and in LODESTONE (log entry 117). -/
def linkMac (s : State) (l : Nat) : BitVec 48 :=
  if s.sys.boot = .lodestone then factoryMac s l
  else match s.img.ports.links[l]? with
    | some k => entryMac s l k
    | none => factoryMac s l

/-- IPv6 link-local address of a MAC (RFC 4291): fe80::/64 and the EUI-64 with its universal bit inverted (R82). -/
def linkLocal (mac : BitVec 48) : BitVec 128 :=
  let m := mac.toNat
  let eui := ((m / 2 ^ 24) ^^^ 0x020000) * 2 ^ 40 + 0xFFFE * 2 ^ 24 + m % 2 ^ 24
  BitVec.ofNat 128 (0xFE80 * 2 ^ 112 + eui)

/-- IPv6 address of a link: that of the PORTS entry; in LODESTONE the link-local one of the factory MAC (R82). -/
def ownIp6 (s : State) (l : Nat) : BitVec 128 :=
  if s.sys.boot = .lodestone then linkLocal (factoryMac s l) else (linkIp6 s l).getD 0

/-- The device's UDP port: UDP_PORT, where 0 means 47100 (Table TP-3); 47100 in LODESTONE (R82). -/
def udpPort (s : State) : Nat :=
  if s.sys.boot = .lodestone || s.img.ports.udpPort = 0 then 47100 else s.img.ports.udpPort.toNat

/-- The VLAN rule of R89: the configured tag, or none. -/
def vlanOk (s : State) (tag : Option U16) : Bool :=
  match tag with
  | none => s.img.ports.vlan = 0
  | some t => s.img.ports.vlan.toNat != 0 && t.toNat % 4096 = s.img.ports.vlan.toNat

/-- At most one tag, and the one the VLAN rule asks for (R89). -/
def tagsOk (s : State) : List U16 → Bool
  | [] => vlanOk s none
  | [t] => vlanOk s (some t)
  | _ => false

/-- The encapsulation is enabled (R89; ETH_MODE.ENCAP). -/
def encapOn (s : State) (e : Encap) : Bool := s.eth.encap.testBit (match e with
  | .raw => 0
  | .udp4 => 1
  | .udp6 => 2)

/-- The frame targets the device on its link (Table TP-2), with a UDP checksum that R90 takes. An address of 0 is none (log
entry 34). -/
def outerTargetOk (s : State) (l : Nat) (encap : Encap) (o : Outer) : Bool :=
  match encap with
  | .raw => o.mac = linkMac s l
  | .udp4 => linkIp4 s l = some o.ip4 && o.ip4 != 0 && o.port.toNat = udpPort s && o.sum != .bad
  | .udp6 => o.ip6 = ownIp6 s l && o.ip6 != 0 && o.port.toNat = udpPort s && o.sum = .good

/-- A frame that R89 and R90 accept; every other is dropped silently. -/
def outerOk (s : State) (e : Env) : Bool :=
  encapOn s e.src.encap && tagsOk s e.outer.tags && outerTargetOk s e.link.val e.src.encap e.outer

def pfcOn (s : State) : Bool := s.img.ports.pfc.getLsbD 0

def pfcPriority (s : State) : Nat := bits s.img.ports.pfc.toNat 1 3

/-- The tag of a frame sent: with flow control the configured priority (R88), else priority 0 (log entry 117), and the VLAN of
the PORTS entry; none where it sets no VLAN. -/
def sendTags (s : State) : List U16 :=
  if s.img.ports.vlan = 0 then []
  else [BitVec.ofNat 16 ((if pfcOn s then pfcPriority s else 0) * 2 ^ 13 + s.img.ports.vlan.toNat)]

/-- The outer headers of a frame as it leaves: a DIAG reply in LODESTONE carries the tag of its request (R82), a pause frame
none; DSCP is that of the frame answered (R88–R91). -/
def outHdr (s : State) (d : Down) : OutHdr :=
  { tags := match d.body with
      | .pause .. => []
      | .diag _ _ _ _ _ t => if s.sys.boot = .lodestone then t else sendTags s
      | _ => sendTags s
    mac := linkMac s d.link, ip4 := (linkIp4 s d.link).getD 0, ip6 := ownIp6 s d.link, port := udpPort s
    df := true, ttl := 64, dscp := (d.dst.map (·.dscp)).getD 0, sum := .good }

/-- A link that a pause frame stops (R88). -/
def linkPaused (s : State) (l : Nat) : Bool := s.pins.paused.any fun p => p.1 = l && s.quartz < p.2

/-- A frame goes out on its link with its outer headers. -/
def transmit (d : Down) (s : State) : State :=
  countOut d.link (downBytes s d) { s with wire := s.wire ++ [{ d with out := some (outHdr s d) }] }

/-- A frame leaves on its link, or waits while a pause frame stops it (R88). In HALT the device sends no frame (R376). -/
def emit (d : Down) (s : State) : State :=
  if s.sys.boot = .halt then s
  else if linkPaused s d.link then { s with pins := { s.pins with pauseQ := s.pins.pauseQ ++ [d] } }
  else transmit d s

/-- Low 32 bits of Quartz time (TIME). -/
def now32 (s : State) : Nat := s.quartz % 2 ^ 32

/-- Address of an instance's last valid frame on a link (R91); where none came on that link, of its last valid frame
(log entry 18). -/
def dstOf (x : Inst) (link : Nat) : Option Source :=
  match amGet? x.lastValid link with
  | some a => some a
  | none => x.lastLink.bind (amGet? x.lastValid)

/-- The link a frame can leave on now: one that is up, to an instance whose address is known. -/
def outLink (s : State) (x : Inst) (pref : Nat) : Option Nat :=
  match pickLink s x pref with
  | some n => if (dstOf x n).isSome then some n else none
  | none => none

/-- A down frame of an instance as it is formed now. -/
def downFrame (s : State) (i : Nat) (x : Inst) (link flags slot : Nat) (seq : U32) (block : Nat) (body : Body)
    (trailer : Option Trailer) : Down :=
  { link := link, flags := flags, inst := i, slot := slot, seq := seq, ack := x.e, block := block, time := now32 s,
    echo := x.echo, incarn := s.sys.incarn, body := body, trailer := trailer, dst := dstOf x link, buf := none, out := none }

/-- A sequenced down frame takes the next down number, with the buffer that holds its data (R100, R350). At most 1024
unacknowledged frames are out; further ones wait (R106). A frame for which no link is up stays unacknowledged, and carries no ACK
value yet (R103). -/
def sendOwned (i pref flags slot block : Nat) (body : Body) (trailer : Option Trailer) (buf : Option (Nat × Nat)) (s : State) :
    State :=
  match inst? s i with
  | none => s
  | some x =>
    let link := (pickLink s x pref).getD pref
    let d := { downFrame s i x link flags slot x.down block body trailer with buf := buf }
    let out := (outLink s x pref).isSome
    let x := { x with down := x.down + 1 }
    if x.unacked.length < 1024 then
      let x := { x with unacked := x.unacked ++ [d] }
      if out then emit d (setInst i { x with ackOut := x.e } s) else setInst i x s
    else setInst i { x with backlog := x.backlog ++ [d] } s

/-- A sequenced down frame that holds no buffer. -/
def sendSeq (i pref flags slot block : Nat) (body : Body) (trailer : Option Trailer) (s : State) : State :=
  sendOwned i pref flags slot block body trailer none s

/-- An unsequenced down frame of an instance. -/
def sendUnseq (i pref flags slot : Nat) (body : Body) (s : State) : State :=
  match inst? s i with
  | none => s
  | some x => match outLink s x pref with
    | none => s
    | some link =>
      emit (downFrame s i x link (flags ||| 4) slot 0 0 body none) (setInst i { x with ackOut := x.e } s)

/-- NOTIFY on the link of the instance's last valid up frame (R110). -/
def notify (i ev a0 a1 a2 : Nat) (s : State) : State :=
  match inst? s i with
  | none => s
  | some x => sendSeq i (x.lastLink.getD 0) 0 0 0 (.notify ev (a0 % 2 ^ 32) (a1 % 2 ^ 32) (a2 % 2 ^ 32) s.quartz) none s

/-- SACK of the frames held beyond E: bit n for E + 1 + n, n = 0–63 (Table TP-9). -/
def sackOf (x : Inst) : U64 :=
  x.heldUp.foldl (fun a p =>
    let d := seqDiff p.1 x.e
    if 1 ≤ d && d ≤ 64 then a ||| ((1 : U64) <<< (d.toNat - 1)) else a) 0

/-- Lowest sequence held beyond E, as its distance. -/
def firstHeld (x : Inst) : Option Nat :=
  x.heldUp.foldl (fun a p =>
    let d := (seqDiff p.1 x.e).toNat
    some (match a with
      | none => d
      | some m => min m d)) none

/-- An ACK frame with E, SACK and, where frames are held beyond a gap, the gap (R103). -/
def sendAck (i : Nat) (s : State) : State :=
  match inst? s i with
  | none => s
  | some x =>
    let (g, c) := match firstHeld x with
      | none => ((0 : U32), 0)
      | some d => (x.e, d)
    sendUnseq i (x.lastLink.getD 0) 0 0 (.ack (sackOf x) g c) s

/-- The answer to PROBE: E, SACK and the next down sequence number in GAP_FIRST, GAP_COUNT 0 (R107). -/
def sendProbeReply (i link : Nat) (s : State) : State :=
  match inst? s i with
  | none => s
  | some x => sendUnseq i link 0 0 (.ack (sackOf x) x.down 0) s

/-! ### Trailers of replies -/

/-- The key of a generation that a command slot holds (R302). -/
def keyGen? (x : Inst) (gen : Nat) : Option CmdKey :=
  match x.cmd with
  | some k => if k.gen = gen then some k else match x.prev with
    | some p => if p.gen = gen then some p else none
    | none => none
  | none => none

/-- Trailer of a reply: DIR 0x02, the request's COUNTER, under the generation the request named, or the current one
where that is no longer held (R114, R299). -/
def replyTrailer (i : Nat) (x : Inst) (type flags slot len : Nat) (body : List Byte) (t : Trailer) : Option Trailer :=
  let k := match keyGen? x t.keyGen.toNat with
    | some k => some k
    | none => x.cmd
  k.map fun k =>
    { counter := t.counter, keyGen := BitVec.ofNat 8 k.gen, reserved := 0,
      tag := tagOf k.key (tagInput 2 k.gen i t.counter.toNat (tagHeader type flags i slot 0 len 0) body []) }

/-! ### REJECT, violations, quarantine -/

/-- Reasons that count as violations (Table TP-14); DATA_ORPHAN is judged where it arises. -/
def isViolation (reason : Nat) : Bool :=
  [0x02, 0x07, 0x0B, 0x0C, 0x10, 0x11, 0x12, 0x13, 0x14, 0x15, 0x16, 0x17, 0x18].contains reason

/-- A counted violation of an instance within its violation window (R117). A window opens at the first violation after
the one before it ended (DEDUCED, log entry 14). -/
def violate (i : Nat) (s : State) : State :=
  match inst? s i with
  | none => s
  | some x =>
    let fresh := x.viol = 0 || x.violWindow + x.params.violWindowUs * 1000 ≤ s.quartz
    let n := if fresh then 1 else min (x.viol + 1) 0xFFFF
    let x := { x with viol := n, violWindow := if fresh then s.quartz else x.violWindow
                      violRecorded := x.violRecorded && !fresh }
    let s := tally i 0x0008 6 1 (setInst i x s)
    if n < x.params.violLimit || x.params.violLimit = 0 then s
    else if i = 0 then
      if x.violRecorded then s
      else event kTransport sevNotice noSource 0 [0, n] (setInst 0 { x with violRecorded := true } s)
    else if x.quarantined then s
    else tally i 0x0008 7 1 (event kTransport sevDegrade noSource i [i, n]
      (notify i 0x0005 n 0 0 (setInst i { x with quarantined := true } s)))

/-- The REJECT of a frame that names a created instance leaves on the link of that frame or as R110 says, to the instance's
last valid source; where the frame is not valid (`own` false), or no valid one came before it, to the source of the frame
itself (log entry 116). -/
def emitReject (i : Nat) (x : Inst) (e : Env) (own : Bool) (r : Reject) (s : State) : State :=
  let d := fun link => downFrame s i x link (flag r.ordered 4 + 4) r.rejSlot.toNat 0 0 (.reject r) none
  match if own then outLink s x e.link.val else none with
  | some link => emit (d link) (setInst i { x with ackOut := x.e } s)
  | none => if linkUp s e.link.val then emit { d e.link.val with dst := some e.src } s else s

/-- Send a REJECT for an instance that exists: Unordered and Copy ones at most 256 per 1 ms (R116), counted for the instance the
frame named (log entry 116); BAD_ACK is of neither class. -/
def sendReject (i : Nat) (e : Env) (own : Bool) (r : Reject) (s : State) : State :=
  match inst? s i with
  | none => s
  | some x =>
    let w := s.quartz / 1000000
    let n := if x.rejWindow = w then x.rejCount else 0
    let limited := !r.ordered && r.reason != 0x0C
    if limited && 256 ≤ n then
      let wraps := s.eth.rejsupp = 0xFFFFFFFF
      let s := { s with eth := { s.eth with rejsupp := (s.eth.rejsupp + 1) % 2 ^ 32
                                            ovfRej := s.eth.ovfRej || wraps } }
      let s := if wraps then wrapEvent 0x00F00014 s else s
      tally i 0x0002 28 1 s
    else
      let x := if limited then { x with rejWindow := w, rejCount := n + 1 } else x
      let s := if own then tally i 0x0002 (r.reason - 1) 1 (setInst i x s) else setInst i x s
      emitReject i x e own r s

/-- REJECT to the source of a frame that names no created instance: it carries INSTANCE 0xFFFF. -/
def rejectNobody (e : Env) (r : Reject) (s : State) : State :=
  if linkUp s e.link.val then
    emit { link := e.link.val, flags := 4, inst := noInst, slot := r.rejSlot.toNat, seq := 0, ack := 0, block := 0
           time := now32 s, echo := 0, incarn := s.sys.incarn, body := .reject r, trailer := none
           dst := some e.src, buf := none, out := none } s
  else s

/-- REJECT to the source of a frame that R93 does not pass, or that names no created instance. -/
def sendRejectTo (e : Env) (r : Reject) (s : State) : State :=
  if (inst? s e.hdr.inst.toNat).isSome then sendReject e.hdr.inst.toNat e false r s else rejectNobody e r s

/-- The REJECT of one up frame. -/
def rejectOf (u : Up) (reason detail : Nat) (ordered : Bool) : Reject :=
  { reason := reason, rejSeq := (upEnv u).hdr.seq, rejSlot := (upEnv u).hdr.slot, rejType := upType u, retryUs := 0,
    detail := detail, count := 1, ordered := ordered, counter := upCounter u, data := [] }

/-- Count a frame dropped silently (R115): ETH_SILENT wraps into ETH_OVF.SILENT. -/
def silentDrop (link : Nat) (s : State) : State :=
  let wraps := s.eth.silent = 0xFFFFFFFF
  let s := { s with eth := { s.eth with silent := (s.eth.silent + 1) % 2 ^ 32
                                        ovfSilent := s.eth.ovfSilent || wraps } }
  let s := if wraps then wrapEvent 0x00F00010 s else s
  tally noInst 0x0100 (8 * link + 4) 1 s

/-! ### Retransmission (R106) -/

/-- Send an unacknowledged frame again, with RETX and its own number, on any allowed link that is up. -/
def resendDown (i : Nat) (d : Down) (s : State) : State :=
  match inst? s i with
  | none => s
  | some x => match outLink s x d.link with
    | none => s
    | some link =>
      let d := { d with link := link, flags := d.flags ||| 8, ack := x.e, time := now32 s, echo := x.echo
                        dst := dstOf x link }
      let s := modInst i (fun x => { x with
        ackOut := x.e
        unacked := x.unacked.map fun q => if q.seq = d.seq then { q with link := link } else q }) s
      tally noInst 0x0100 (8 * link + 7) 1 (tally i 0x0001 48 1 (emit d s))

/-- Send again every unacknowledged frame that satisfies a test. -/
def resendWhere (i : Nat) (p : Down → Bool) (s : State) : State :=
  match inst? s i with
  | none => s
  | some x => (x.unacked.filter p).foldl (fun s d => resendDown i d s) s

/-- Frames that waited beyond the window of 1024 go out as it opens (R106). -/
def drainBacklog (i : Nat) (s : State) : State :=
  match inst? s i with
  | none => s
  | some x =>
    let room := 1024 - x.unacked.length
    let go := x.backlog.take room
    let s := setInst i { x with unacked := x.unacked ++ go, backlog := x.backlog.drop room
                                ackOut := if go.any fun d => (outLink s x d.link).isSome then x.e else x.ackOut } s
    go.foldl (fun s d => match outLink s x d.link with
      | none => s
      | some link => emit { d with link := link, ack := x.e, dst := dstOf x link } s) s

end Sys2Proof.Machine
end

