-- ==== Sys2Proof/Machine/Flags.lean ====
section
/-! DEFINITION. Everything the device computes from its state without changing it: factors of the derate step (Table
LT-8), token buckets (R211–R215), deadline floors (R217, R218), slot, zone and twin counts (R121, R158, R162, R173),
nonces (R178). -/

namespace Sys2Proof.Machine

open Sys2Proof

/-! ### Factors in force -/

/-- Floor factor in quarters: Table LT-8, and 2 in TRIM, the larger of the two (R394). -/
def floorQuarters (s : State) : Nat :=
  let d := if s.qtz.step = 0 then 4 else if s.qtz.step = 1 then 5 else if s.qtz.step = 2 then 6
    else if s.qtz.step = 3 then 8 else 16
  if s.pwr.state = 1 then max d 8 else d

/-- Token factor in per cent: Table LT-8, and 50 in TRIM, the smaller of the two (R394). -/
def tokenPct (s : State) : Nat :=
  let d := if s.qtz.step ≤ 1 then 100 else if s.qtz.step = 2 then 75 else if s.qtz.step = 3 then 50 else 25
  if s.pwr.state = 1 then min d 50 else d

/-- T_HOLD that the floors carry, in µs: DOZE 110 while the idle policy is on or a request raised them, once; STOW 1555 more by a
request (Table PW-2, R395). -/
def floorHold (s : State) : Nat :=
  (if s.pwr.dozeFloor || s.pwr.idleEn then 110 else 0) + if s.pwr.stowFloor then 1555 else 0

/-! ### Token buckets -/

/-- Apply the credit of R213 up to Quartz time `now` at the rate in force. -/
def credit (rate pct depth now : Nat) (b : Bucket) : Bucket :=
  let total := (b.frac + rate * pct * (now - b.base)) / (100 * 1000000000)
  let c := total - b.sinceBase
  let take := min c (depth - b.level)
  { b with level := b.level + take, spilled := b.spilled + (c - take), credited := b.credited + c, sinceBase := total }

/-- A full bucket of depth `d` whose base time is `now`. -/
def newBucket (d now : Nat) : Bucket :=
  { level := d, reserved := 0, consumed := 0, spilled := 0, credited := 0, d0 := d, base := now, sinceBase := 0, frac := 0 }

/-- The base moves to `now`, after the credit up to it; the remainder is carried (R213). -/
def moveBase (rate pct now : Nat) (b : Bucket) : Bucket :=
  { b with base := now, sinceBase := 0, frac := (b.frac + rate * pct * (now - b.base)) % (100 * 1000000000) }

/-- Row 12 passes: the cost moves from L to RESERVED (R214). -/
def reserve (n : Nat) (b : Bucket) : Bucket := { b with level := b.level - n, reserved := b.reserved + n }

/-- The acceptance instant: the reservation moves to CONSUMED (R214). -/
def consume (n : Nat) (b : Bucket) : Bucket := { b with reserved := b.reserved - n, consumed := b.consumed + n }

/-- A refusal after row 12: the reservation returns to L under the ceiling of R213. -/
def unreserve (depth n : Nat) (b : Bucket) : Bucket :=
  let back := min n (depth - b.level)
  { b with level := b.level + back, reserved := b.reserved - n, spilled := b.spilled + (n - back) }

/-- L + RESERVED + CONSUMED + SPILLED = D₀ + CREDITED (R214). -/
def bucketEq (b : Bucket) : Prop := b.level + b.reserved + b.consumed + b.spilled = b.d0 + b.credited

/-- An instance with its credit applied at this instant. -/
def credited (s : State) (x : Inst) : Inst :=
  { x with bw := credit x.params.bwRate (tokenPct s) x.params.bwDepth s.quartz x.bw
           ops := credit x.params.opRate (tokenPct s) x.params.opDepth s.quartz x.ops }

/-- Apply the credit at the old factor before the factor changes: the base moves to now (R233). -/
def rebase (s : State) (x : Inst) : Inst :=
  let x := credited s x
  { x with bw := moveBase x.params.bwRate (tokenPct s) s.quartz x.bw
           ops := moveBase x.params.opRate (tokenPct s) s.quartz x.ops }

/-- Operation tokens and bandwidth bytes of a task (Table LT-2). -/
def taskCost (r : BitVec 512) : Nat × Nat :=
  let op := recOp r
  if op = 0x01 || op = 0x02 || op = 0x03 || op = 0x08 then (1, recNblk r * 4096)
  else if op = 0x0F then (1, recField r 0x0C 2 * 4096)
  else if op = 0x0E || op = 0x10 || op = 0x11 || op = 0x12 || op = 0x14 then (1, 4096)
  else if op = 0x0B || op = 0x0C then (0, 0)
  else (1, 0)

/-- Wait in µs until a bucket covers a cost (R215). -/
def retryWait (rate pct cost level : Nat) : Nat :=
  if cost ≤ level then 0 else if rate * pct = 0 then 0xFFFFFFFF else ceilDiv ((cost - level) * 1000000 * 100) (rate * pct)

/-! ### Deadline floors -/

/-- Owners of an instance's pool (S of Table LT-3; 1 where every die is exclusive). -/
def sharing (s : State) (x : Inst) : Nat :=
  match amGet? s.slt.pools x.pool with
  | some p => max 1 p.owners.length
  | none => 1

/-- Base floor in ns before rounding (Table LT-3); none for FLUSH. -/
def baseFloorNs (s : State) (x : Inst) (op : Nat) : Option Nat :=
  let p := s.img.profile
  let a := if x.params.trailerAll && !opCritical op then 2000 else 0
  if op = 0x01 then some (10500 + a + (p.tSuspUs + p.tReadUs) * 1000 + 2000 + sharing s x * p.tReadUs * 1000)
  else if op = 0x02 || op = 0x03 then some (9500 + a)
  else if op = 0x04 || op = 0x05 || op = 0x09 || op = 0x0B || op = 0x0C then some (5000 + a)
  else if op = 0x06 || op = 0x07 || op = 0x13 then some 7000
  else if op = 0x0A then some (13500 + p.tProgSlcUs * 1000)
  else if op = 0x08 || op = 0x0F then some (12000 + a)
  else if op = 0x0E || op = 0x11 then some (10000 + a)
  else if op = 0x10 || op = 0x12 || op = 0x14 then some 26000
  else none

/-- Lowest link rate among the allowed links that exist in the mode in force (R218). -/
def minGbps (s : State) (x : Inst) : Nat :=
  (List.range 16).foldl (fun m n =>
    if linkAllowed x n && linkExists s n then min m (linkGbps (portMode s (n / 8))) else m) 800

/-- The term of a multi-block task in µs (R218). -/
def floorExtra (s : State) (x : Inst) (op nblk : Nat) : Nat :=
  if op = 0x01 || op = 0x08 || op = 0x0F then ceilDiv (ceilDiv ((nblk - 1) * 33744) (minGbps s x)) 1000
  else if op = 0x02 || op = 0x03 then 2 * (ceilDiv nblk 16 - 1)
  else 0

/-- Effective floor of a type with `nblk` blocks: the base floor of R217 plus the term of R218, times the floor factor,
rounded up, plus the hold of R395. 0xFFFE where only DEADLINE_US = 0 is accepted. -/
def effFloor (s : State) (x : Inst) (op nblk : Nat) : Nat :=
  match baseFloorNs s x op with
  | none => 0xFFFE
  | some b =>
    let f := ceilDiv ((ceilDiv b 1000 + floorExtra s x op nblk) * floorQuarters s) 4 + floorHold s
    if 65535 < f then 0xFFFE else f

/-- Entry of FLOORS in IDENTIFY page 0 (R217). -/
def floorEntry (s : State) (x : Inst) (op : Nat) : Nat :=
  if x.params.typeMask.testBit op then effFloor s x op 1 else 0xFFFF

/-- Blocks of a task for its floor. -/
def floorNblk (r : BitVec 512) : Nat := if recOp r = 0x0F then recField r 0x0C 2 else recNblk r

/-! ### Slots and zones -/

/-- State of a slot: none is FREE (R118). -/
def slotOf (x : Inst) (n : Nat) : Option Slot := amGet? x.slots n

def heldSlots (x : Inst) : Nat :=
  (x.slots.filter fun p => match p.2 with
    | .held _ => true
    | .done .. => false).length

def doneSlots (x : Inst) : Nat :=
  (x.slots.filter fun p => match p.2 with
    | .held _ => false
    | .done .. => true).length

/-- FREE slots: the count less the others (R121). -/
def freeSlots (x : Inst) : Nat := x.params.slots - heldSlots x - doneSlots x

/-- Code of a zone state (Table ZN-2). -/
def zcode : ZState → Nat
  | .empty => 0x1
  | .implicitOpen => 0x2
  | .explicitOpen => 0x3
  | .closed => 0x4
  | .readOnly => 0xD
  | .full => 0xE
  | .offline => 0xF

/-- A zone that no task has touched. -/
def freshZone : Zone :=
  { state := .empty, wp := 0, waste := 0, pending := 0, key := 0, hint := 0, set := 0xFFFF, slcTarget := false, gen := 0,
    genExhausted := false, changed := 0, txn := none, sb := none, bound := 0, blocks := [] }

/-- A zone of an instance; unlisted zones are EMPTY at generation 0. -/
def zoneOf (x : Inst) (z : Nat) : Zone := amGetD x.zones z freshZone

/-- Store a zone. -/
def putZone (z : Nat) (zn : Zone) (x : Inst) : Inst := { x with zones := amSet x.zones z zn }

/-- A zone counts as open (Table ZN-2). -/
def isOpen (zn : Zone) : Bool := zn.state = .implicitOpen || zn.state = .explicitOpen

/-- Open zones of an instance (R158). -/
def openCount (x : Inst) : Nat := (x.zones.filter fun p => isOpen p.2).length

/-- Zones in a state: the listed ones, and for EMPTY the unlisted ones too. -/
def zonesIn (x : Inst) (st : ZState) : Nat :=
  let n := (x.zones.filter fun p => decide (p.2.state = st) && decide (p.1 < x.params.zoneCount)).length
  if st = .empty then
    n + (x.params.zoneCount - (x.zones.filter fun p => decide (p.1 < x.params.zoneCount)).length)
  else n

/-- Sum over the zones of an instance. -/
def zoneSum (x : Inst) (f : Zone → Nat) : Nat := sumNat (x.zones.map fun p => f p.2)

/-- Written, WASTE, PENDING and remaining blocks of an instance (R161, R162). -/
def writtenBlocks (x : Inst) : Nat := zoneSum x fun z => z.wp - z.waste
def wasteBlocks (x : Inst) : Nat := zoneSum x (·.waste)
def pendingBlocks (x : Inst) : Nat := zoneSum x (·.pending)
def remainingBlocks (x : Inst) : Nat := x.params.zoneCount * x.params.zoneCap - zoneSum x (·.wp)

/-! ### Twin buffer -/

/-- Listed blocks of an instance: key and content. -/
def storedOf (i : Nat) (x : Inst) : List (BlkKey × Stored) :=
  (x.zones.flatMap fun z => z.2.blocks.map fun b =>
    ({ inst := i, conv := false, zone := z.1, offset := b.1 }, b.2)) ++
  x.conv.map fun b => ({ inst := i, conv := true, zone := 0, offset := b.1 }, b.2)

/-- Copies A of an instance's twin entries: of the blocks stored, of those that row 13 has reserved, and of those that only a
READ still refers to (R176). -/
def twinBufs (x : Inst) : List Nat :=
  ((x.zones.flatMap fun z => z.2.blocks.filterMap fun b => b.2.twin.map Prod.fst) ++
    (x.conv.filterMap fun b => b.2.twin.map Prod.fst) ++ x.stagedBufs.map Prod.fst ++
    x.slots.flatMap fun p => match p.2 with
      | .held t => t.blocks.filterMap fun b => if b.ref then b.twin.map Prod.fst else none
      | .done .. => []).eraseDups

/-- Blocks of an instance that hold twin space. -/
def twinBlocks (x : Inst) : Nat := (twinBufs x).length

/-- The dirty amount in blocks: one copy is counted (R173). -/
def dirtyBlocks (s : State) : Nat := poolOwned s 4

/-- Dirty limits by HOLDUP (R39), in MiB. -/
def holdupMib (s : State) : Nat :=
  let h := bits s.sys.straps.toNat 4 2
  512 * (h + 1)

/-- The dirty limit in MiB: the epoch's where it sets one, else the image's, never above the HOLDUP value (R39, R174). -/
def setDirtyMib (s : State) : Nat := min (if s.slt.dirtyMib = 0 then s.img.dirtyMib else s.slt.dirtyMib) (holdupMib s)

/-- The dirty limit in force, in MiB: 64 MiB during DRAIN (R174, R397). -/
def dirtyLimitMib (s : State) : Nat :=
  match s.pwr.dirtyCap with
  | some c => min c (setDirtyMib s)
  | none => setDirtyMib s

/-- Twin share of an instance in blocks: the dirty limit × r ÷ Σr, at least 256 (R173). -/
def twinShare (s : State) (x : Inst) : Nat :=
  let sum := sumNat (s.insts.map fun p => if inService p.2 then p.2.params.bwRate else 0)
  max 256 (if sum = 0 then dirtyLimitMib s * 256 else dirtyLimitMib s * 256 * x.params.bwRate / sum)

/-- Row 13 finds twin space for `n` blocks (R173), and the buffers for both copies (R352). -/
def twinFits (s : State) (x : Inst) (n : Nat) : Bool :=
  dirtyBlocks s + n ≤ dirtyLimitMib s * 256 && twinBlocks x + n ≤ twinShare s x && n ≤ poolFree s 4 && n ≤ poolFree s 5

/-! ### Nonces and descriptors -/

/-- Nonce of a zone block (Table ZN-11). -/
def zoneNonce (i z off gen : Nat) : BitVec 96 :=
  BitVec.ofNat 96 (bits off 0 20 + bits z 0 23 * 2 ^ 20 + bits i 0 10 * 2 ^ 43 + bits gen 0 3 * 2 ^ 53 +
    bits gen 3 10 * 2 ^ 56 + bits gen 13 29 * 2 ^ 66)

/-- Nonce of a conventional block (Table ZN-11). -/
def convNonce (i wcount : Nat) : BitVec 96 :=
  BitVec.ofNat 96 (bits wcount 0 56 + bits i 0 10 * 2 ^ 56 + 2 ^ 95)

/-- Bytes that a lane takes for a nonce: little-endian, bits [7:0] first (R178). -/
def nonceBytes (n : BitVec 96) : List Byte := bytesOf 12 n

/-- A block, and with META its metadata, sealed under a data key: ciphertext, metadata ciphertext (0 without META) and tag; there
is no additional authenticated data (R178). -/
def sealData (withMeta : Bool) (key : BitVec 256) (nonce : BitVec 96) (d : Block) (m : Meta) : Block × Meta × BitVec 128 :=
  let r := gcmSeal (bytesOf 32 key) (nonceBytes nonce) (bytesOf 4096 d ++ if withMeta then bytesOf 64 m else [])
  (blockOf r.1, BitVec.ofNat 512 (ofLeBytes (r.1.drop 4096)), BitVec.ofNat 128 (ofLeBytes r.2))

/-- A sealed block opened under a data key: its plaintext, where the tag verifies (R310). -/
def openData (withMeta : Bool) (key : BitVec 256) (nonce : BitVec 96) (b : Sealed) : Option (Block × Meta) :=
  let c := bytesOf 4096 b.c ++ if withMeta then bytesOf 64 b.mc else []
  let p := gcmCtr (aesKeys (bytesOf 32 key)) (nonceBytes nonce) (c.length / 16 + 1) 2 c
  if ofLeBytes (gcmSeal (bytesOf 32 key) (nonceBytes nonce) p).2 = b.tag.toNat then
    some (blockOf p, BitVec.ofNat 512 (ofLeBytes (p.drop 4096)))
  else none

/-- Lifetime class and stream of a hint (R164). -/
def hintClass (h : Byte) : Nat := bits h.toNat 0 3
def hintStream (h : Byte) : Nat := bits h.toNat 3 5

/-- ZFLAGS.REBUILD and the like need the zone's die set. -/
def setOf (s : State) (x : Inst) (n : Nat) : Option DieSet :=
  s.med.sets.find? fun d => d.pool = x.pool && d.num = n

/-- Zone descriptor as a number, byte 0 lowest (Table ZN-6). -/
def zoneDesc (s : State) (x : Inst) (z : Nat) (zn : Zone) : Nat :=
  let slc := zn.blocks.any fun b => b.2.slcPage && b.2.onFlash
  let reb := match setOf s x zn.set with
    | some d => d.rebuilds.any s.med.rebuild.contains
    | none => false
  let empty := zn.state = .empty
  z + zcode zn.state * 2 ^ 32 +
    (flag zn.txn.isSome 0 + flag slc 1 + flag reb 2 + flag zn.genExhausted 3) * 2 ^ 40 +
    (if empty then 0 else zn.hint.toNat) * 2 ^ 48 + x.params.zoneCap * 2 ^ 64 + zn.wp * 2 ^ 96 + zn.waste * 2 ^ 128 +
    zn.pending * 2 ^ 160 + (if empty then 0 else zn.key) * 2 ^ 192 + (if empty then 0xFFFF else zn.set) * 2 ^ 208 +
    ((zn.txn.bind fun d => (amGet? s.jrn.descs d).map (·.txnId)).getD 0) * 2 ^ 224 + zn.gen * 2 ^ 256 + zn.changed * 2 ^ 320

/-! ### Transactions -/

/-- Descriptors of an instance that count against the limits: OPEN or DEV_ABORTED (Table TX-2). -/
def counts (d : Desc) : Bool := d.state = .opened || d.state = .devAborted

def instTxns (s : State) (i : Nat) : Nat := (s.jrn.descs.filter fun p => p.2.inst = i && counts p.2).length
def devTxns (s : State) : Nat := (s.jrn.descs.filter fun p => counts p.2).length
def closingTxns (s : State) : Nat := (s.jrn.descs.filter fun p => !counts p.2).length

/-- The counted descriptor that a TXN_ID names. -/
def findTxn (s : State) (i txn : Nat) : Option (Nat × Desc) :=
  s.jrn.descs.find? fun p => p.2.inst = i && p.2.txnId = txn && counts p.2

/-- The descriptor number that a new transaction takes: the lowest not in use (DESIGN CHOICE: R185 does not say which free
number it is; log entry 126). -/
def freeDesc (s : State) : Nat :=
  ((List.range (s.jrn.descs.length + 1)).find? fun n => (amGet? s.jrn.descs n).isNone).getD 0

/-- Zones that a transaction's members name. -/
def txnZones (d : Desc) : List Nat := (d.members.map (·.zone)).eraseDups

/-- A descriptor is still uncommitted: its member blocks are pending or aborted (R189). -/
def uncommitted (s : State) (desc : Nat) : Bool :=
  match amGet? s.jrn.descs desc with
  | some d => d.state != .committing
  | none => false

end Sys2Proof.Machine
end

