-- ==== Sys2Proof/Machine/Complete.lean ====
section
/-! DEFINITION. How an accepted task ends: its COMPLETION takes its down number and its slot moves from HELD to DONE in
one update (R118, R207), a deadline outcome with it (R124, R227, R228); the DATA frames of a read and the status of
R134. -/

namespace Sys2Proof.Machine

open Sys2Proof

/-! ### Status codes (Table CM-24) -/

def stOk : Nat := 0x00
def stLate : Nat := 0x01
def stUnwritten : Nat := 0x02
def stAborted : Nat := 0x10
def stSlotBusy : Nat := 0x11
def stBadRecord : Nat := 0x12
def stInstState : Nat := 0x13
def stZoneState : Nat := 0x20
def stZoneFull : Nat := 0x21
def stZoneBoundary : Nat := 0x22
def stWritePointer : Nat := 0x23
def stOpenLimit : Nat := 0x24
def stCmdAuth : Nat := 0x30
def stReplay : Nat := 0x31
def stDataAuth : Nat := 0x32
def stPermission : Nat := 0x33
def stTxnUnknown : Nat := 0x40
def stTxnLimit : Nat := 0x41
def stTxnConflict : Nat := 0x42
def stTxnAborted : Nat := 0x43
def stUnrecovered : Nat := 0x50
def stPoisoned : Nat := 0x51
def stExhausted : Nat := 0x52
def stDegraded : Nat := 0x53
def stNoBuffer : Nat := 0x60
def stInternal : Nat := 0x7F

/-- The codes in the order of Table CM-24. -/
def statusCodes : List Nat :=
  [0x00, 0x01, 0x02, 0x10, 0x11, 0x12, 0x13, 0x20, 0x21, 0x22, 0x23, 0x24, 0x30, 0x31, 0x32, 0x33, 0x40, 0x41, 0x42,
   0x43, 0x50, 0x51, 0x52, 0x53, 0x60, 0x7F]

/-- Place of a status in Table CM-24. -/
def statusIdx (st : Nat) : Nat := statusCodes.findIdx (· == st)

/-- Code of a miss cause (Table LT-6). -/
def causeCode : MissCause → Nat
  | .queue => 1
  | .suspendBudget => 2
  | .softDecode => 3
  | .reconstruct => 4
  | .twinWait => 5
  | .commitHold => 6
  | .keyWait => 7
  | .fault => 8
  | .derate => 9
  | .egress => 10
  | .restart => 11
  | .other => 12

/-- Latency bin (R389), from the latency in ns. -/
def latencyBin (l : Nat) : Nat :=
  if l < 2000 then 0
  else if 65536000 ≤ l then 61
  else
    let e := Nat.log2 (l / 1000)
    4 * (e - 1) + (4 * l / (2 ^ e * 1000) - 4) + 1

/-- First field of a type's histogram in group 0x0003. -/
def latencyBase (op : Nat) : Nat := if op = 1 then 0 else if op = 2 || op = 3 then 62 else 124

/-! ### Deadlines and misses -/

/-- Due instant of a task: its ready instant plus DEADLINE_US (R206); none for DEADLINE_US = 0 (R208). -/
def dueOf (t : Task) : Option Nat :=
  if recDeadline t.record = 0 then none else some (t.ready + recDeadline t.record * 1000)

/-- The task's COMPLETION would be late now (R207); a task carried across a cold start is late whatever the time (R209). -/
def isLate (s : State) (t : Task) : Bool :=
  match dueOf t with
  | none => false
  | some d => t.cause = .restart || d < s.quartz

/-- Misses in the current sub-window and the 15 before it pass the limit (R228): a DEGRADE fault of source 0x162, the
escalated flag and NOTIFY ESCALATED. -/
def escalate (i : Nat) (s : State) : State :=
  match inst? s i with
  | none => s
  | some x =>
    let n := sumNat x.misses
    if x.params.missLimit < n && !x.escalated then
      let s := setInst i { x with escalated := true } s
      let s := raise 0x162 (ruleFault kEscalated sevDegrade 0x162 i [i]) s
      let s := tally i 0x0004 32 1 s
      notify i 0x000B n x.params.missWindowMs x.params.missLimit s
    else s

/-- A task is delayed by another cause from now on; a RESTART miss stays one (R209, R227). -/
def turn (c : MissCause) (now : Nat) (t : Task) : Task :=
  if t.cause = .restart then t
  else
    let k := causeCode t.cause
    { t with cause := c, since := now, spent := amSet t.spent k (amGetD t.spent k 0 + (now - t.since)) }

/-- What has delayed a task up to now turns out to be a cause (R227). -/
def blame (c : MissCause) (now : Nat) (t : Task) : Task :=
  if t.cause = .restart then t else turn .other now { t with cause := c }

/-- Code of the cause that contributed the longest delay, the lowest of equal ones; OTHER where none contributed (R227,
Table LT-6). -/
def namedCause (now : Nat) (t : Task) : Nat :=
  let sp := (turn .other now t).spent
  ((List.range 11).foldl (fun (a : Nat × Nat) k =>
    let n := amGetD sp (k + 1) 0
    if a.2 < n then (k + 1, n) else a) (causeCode .other, 0)).1

/-- A missed deadline other than a RESTART miss (R227). -/
def missLate (i slot : Nat) (t : Task) (s : State) : State :=
  let due := (dueOf t).getD 0
  let s := tally i 0x0004 (t.op - 1) 1 s
  let cause := namedCause s.quartz t
  let s := tally i 0x0004 (20 + cause - 1) 1 s
  let s := tally noInst 0x0101 0 1 s
  let wraps := s.qtz.late = 0xFFFFFFFF
  let s := { s with qtz := { s.qtz with late := (s.qtz.late + 1) % 2 ^ 32, ovf := s.qtz.ovf || wraps } }
  let s := if wraps then wrapEvent 0x00E00018 s else s
  let s := eventAt s.quartz kDeadlineMiss sevNotice noSource i false false
    (slot + t.op * 2 ^ 16 + cause * 2 ^ 24 + t.seq.toNat * 2 ^ 32 + recDeadline t.record * 2 ^ 64 +
      (s.quartz - due) * 2 ^ 128 + t.ready * 2 ^ 192) s
  let s := modInst i (fun x => { x with misses := modNth x.misses 0 (· + 1) }) s
  escalate i s

/-- A RESTART miss is counted in QTZ_RESTARTLATE and the tally counters alone; its instance's one record follows (R209). -/
def missRestart (i : Nat) (s : State) : State :=
  let s := modInst i (fun x => { x with restartLate := true }) s
  let s := { s with qtz := { s.qtz with restartLate := satInc s.qtz.restartLate } }
  tally noInst 0x0101 2 1 (tally i 0x0004 (20 + causeCode .restart - 1) 1 s)

/-- A missed deadline, by its cause. -/
def missTask (i slot : Nat) (t : Task) (s : State) : State :=
  if t.cause = .restart then missRestart i s else missLate i slot t s

/-- A miss of an internal deadline in the device window (R228, R229): the count, and past the limit one DEGRADE fault of
source 0x162 and the flag. -/
def missInternal (s : State) : State :=
  let s := tally noInst 0x0101 1 1 { s with fcl := { s.fcl with missDev := modNth s.fcl.missDev 0 (· + 1) } }
  if s.img.missLimit < sumNat s.fcl.missDev && !s.fcl.escalated then
    raise 0x162 (ruleFault kEscalated sevDegrade 0x162 noInst [])
      { s with fcl := { s.fcl with escalated := true } }
  else s

/-! ### Completion -/

/-- Statuses that become OK_LATE when late (R124, R207). -/
def canBeLate (st : Nat) : Bool := st = stOk || st = stUnwritten

/-- RESULT is 0 for a status other than OK, OK_LATE and OK_UNWRITTEN, but for READ (R155). -/
def resultFor (op st result : Nat) : Nat :=
  if st = stOk || st = stLate || st = stUnwritten || (op = 1 && st != stAborted) then result else 0

/-- Store a slot. -/
def setSlot (n : Nat) (sl : Slot) (x : Inst) : Inst := { x with slots := amSet x.slots n sl }

/-- The HELD task of a slot. -/
def heldTask (s : State) (i slot : Nat) : Option Task :=
  match inst? s i with
  | none => none
  | some x => match slotOf x slot with
    | some (.held t) => some t
    | _ => none

/-- Change the HELD task of a slot. -/
def modTask (i slot : Nat) (f : Task → Task) (s : State) : State :=
  match heldTask s i slot with
  | none => s
  | some t => modInst i (setSlot slot (.held (f t))) s

/-- What a block of a task holds is let go: its reference on a twin entry and the buffer of its data (R176, R350). -/
def letGo (rb : ReadBlock) (s : State) : State :=
  freeBufs 1 rb.out.toList (match rb.twin with
    | some t => if rb.ref then freeTwin t s else s
    | none => s)

/-- Change block `b` of a HELD task. -/
def modBlock (i slot b : Nat) (f : ReadBlock → ReadBlock) (s : State) : State :=
  modTask i slot (fun t => { t with blocks := modNth t.blocks b f }) s

/-- Block `b` of a HELD task. -/
def blockAt? (s : State) (i slot b : Nat) : Option ReadBlock := (heldTask s i slot).bind fun t => t.blocks[b]?

/-- The copy of the twin entry that a block hits is complete: its reference is dropped (R176). -/
def dropTwin (i slot b : Nat) (s : State) : State :=
  match blockAt? s i slot b with
  | none => s
  | some rb => letGo { rb with out := none } (modBlock i slot b (fun rb => { rb with twin := none, ref := false }) s)

/-- A block of a task lets everything go that it holds. -/
def dropBlock (i slot b : Nat) (s : State) : State :=
  match blockAt? s i slot b with
  | none => s
  | some rb => letGo rb (modBlock i slot b (fun rb => { rb with twin := none, ref := false, out := none }) s)

/-- A block of a task takes a buffer for its data, from a half's pools first; one that has a buffer keeps it (R15). -/
def giveBuf (i slot b half : Nat) (s : State) : State :=
  match blockAt? s i slot b with
  | none => s
  | some rb =>
    if rb.out.isSome then s
    else
      let r := takeEgress half s
      modBlock i slot b (fun rb => { rb with out := r.1 }) r.2

/-- The COMPLETION of a HELD task takes the next down number; the slot becomes DONE in the same update (R118), with the
deadline outcome (R207), its counters (R389) and, for a request with a trailer, its own trailer (R97, R299). -/
def completeTask (i slot st result : Nat) (dropped : Bool) (s : State) : State :=
  match heldTask s i slot, inst? s i with
  | some t, some x =>
    let late := isLate s t
    let st := if late && canBeLate st then stLate else st
    let c : Completion :=
      { status := st, op := t.op, dropped := dropped, taskSeq := t.seq, result := resultFor t.op st result,
        acceptTime := t.acceptTime, serviceNs := min (s.quartz - t.acceptTime) 0xFFFFFFFF }
    let flags := flag t.trailer.isSome 0
    let trl := t.trailer.bind fun tr => replyTrailer i x 3 flags slot 32 (completionBody c) tr
    let s := modInst i (setSlot slot (.done c x.down trl { t with blocks := [], reply := [] })) s
    let s := t.blocks.foldl (fun s b => letGo b s) s
    let s := sendSeq i t.link flags slot 0 (.completion c) trl s
    let s := if trl.isSome then keccakMsg false s else s
    let s := tally i 0x0001 (20 + statusIdx st) 1 s
    let s := tally i 0x0003 (latencyBase t.op + latencyBin (s.quartz - t.ready)) 1 s
    let s := if t.op = 0x12 then tally i 0x0008 3 1 s else if t.op = 0x13 then tally i 0x0008 4 1 s
      else if t.op = 0x14 then tally i 0x0008 5 1 s else s
    if late then missTask i slot t s else s
  | _, _ => s

/-! ### Down DATA frames of a read -/

/-- RESULT of a READ (R133): first failed block or 0xFFFF, failed count, fill count. -/
def readResult (t : Task) : Nat :=
  (if t.failedCount = 0 then 0xFFFF else t.failedFirst) + t.failedCount * 2 ^ 16 + t.fillCount * 2 ^ 32

/-- Status of a READ, lateness apart (R134). -/
def readStatus (t : Task) : Nat :=
  if t.lost then stUnrecovered else if t.poison then stPoisoned else if t.authFail then stDataAuth
  else if 0 < t.fillCount then stUnwritten else stOk

/-- The down window of R106 has no room, or flow control pauses the egress link (Table LT-4). -/
def egressHeld (s : State) (x : Inst) (link : Nat) : Bool := 1024 ≤ x.unacked.length || linkPaused s link

/-- The delay of every HELD task that nothing else delays becomes that of a cause, or ends (Table LT-4). -/
def turnAll (old new : MissCause) (s : State) : State :=
  { s with insts := s.insts.map fun p => (p.1, { p.2 with slots := p.2.slots.map fun q => match q.2 with
      | .held t => if t.cause = old then (q.1, .held (turn new s.quartz t)) else q
      | .done .. => q }) }

/-- Send block `b` of a read as a DATA frame (R133); the latch passes its point of no return with the first (R142). -/
def sendBlock (i slot b : Nat) (last : Bool) (s : State) : State :=
  match heldTask s i slot, inst? s i with
  | some t, some x =>
    match t.blocks[b]? with
    | none => s
    | some rb =>
      let m := if x.params.metaFmt && t.op = 1 then some rb.md else none
      let held := egressHeld s x t.link
      let s := modTask i slot (fun t => { (if held then turn .egress s.quartz t else t) with
        latch := if t.latch = .running then .committed else t.latch
        blocks := modNth t.blocks b fun rb => { rb with stage := .sent, out := none } }) s
      sendOwned i t.link (flag last 1 + flag m.isSome 5) slot b (.data rb.data m) none rb.out s
  | _, _ => s

/-- A block of a read is still on its way. -/
def openBlock (b : ReadBlock) : Bool := match b.stage with
  | .sent => false
  | .failed => false
  | _ => true

/-- Blocks of a read still on their way. -/
def openBlocks (t : Task) : Nat := (t.blocks.filter openBlock).length

/-- A read none of whose blocks is still on its way sends the DATA frame it held back, with LAST, and completes (R133,
R134). -/
def finishRead (i slot : Nat) (s : State) : State :=
  match heldTask s i slot with
  | none => s
  | some t =>
    if openBlocks t = (if t.heldBack.isSome then 1 else 0) then
      let s := match t.heldBack with
        | some b => sendBlock i slot b true s
        | none => s
      let s := tally i 0x0001 46 (t.blocks.length - t.failedCount) s
      completeTask i slot (readStatus t) (readResult t) false s
    else s

/-- Block `b` of a read is ready to send. One ready block is held back, so that the last frame sent can carry LAST. -/
def blockReady (i slot b : Nat) (s : State) : State :=
  match heldTask s i slot with
  | none => s
  | some t =>
    let s := match t.heldBack with
      | some h => sendBlock i slot h false s
      | none => s
    finishRead i slot (modTask i slot (fun t => { t with heldBack := some b }) s)

/-- Block `b` of a read fails: it is not sent (R133). `how`: lost on the media, poison, or a failed tag. -/
def blockFailed (i slot b : Nat) (how : Nat) (s : State) : State :=
  finishRead i slot (modTask i slot (fun t => { t with
    failedFirst := if t.failedCount = 0 then b else min t.failedFirst b
    failedCount := t.failedCount + 1
    lost := t.lost || how = 0
    poison := t.poison || how = 1
    authFail := t.authFail || how = 2
    blocks := modNth t.blocks b fun rb => { rb with stage := .failed } }) (dropBlock i slot b s))

end Sys2Proof.Machine
end

