-- ==== Sys2Proof/Machine/Media.lean ====
section
/-! DEFINITION. Flash media management: dies and block counts (R253), superblocks and stripes (R243–R245), programs,
erases and reads at the dies under their caps and suspensions (R221–R226, R241), failures (R255, R256), fold, garbage
collection and wear levelling (R251, R259–R263), lost dies (R258), the preserve state (R266). -/

namespace Sys2Proof.Machine

open Sys2Proof

/-! ### Geometry -/

/-- Data blocks of a stripe of width `w` (R243). -/
def stripeBlocks (w : Nat) : Nat := 4 * (w - 1)

/-- Stripes of one program unit on every member (R245). -/
def groupStripes (p : MediaProfile) (slc : Bool) : Nat := if slc then p.planes else p.planes * p.cell

/-- Data blocks of a stripe group. -/
def groupBlocks (p : MediaProfile) (w : Nat) (slc : Bool) : Nat := stripeBlocks w * groupStripes p slc

/-- Program units of a block: PAGES ÷ CELL in either mode. -/
def unitsPerBlock (p : MediaProfile) : Nat := p.pages / p.cell

/-- Data blocks of a superblock. -/
def sbBlocks (p : MediaProfile) (w : Nat) (slc : Bool) : Nat := groupBlocks p w slc * unitsPerBlock p

/-- Member that holds data block `idx` of a superblock (R244): stripes skip their parity member s mod W. -/
def memberOf (w idx : Nat) : Nat :=
  let st := idx / stripeBlocks w
  let k := idx % stripeBlocks w / 4
  if k < st % w then k else k + 1

/-- SLC share of a die in blocks (R250). -/
def slcShare (p : MediaProfile) : Nat := ceilDiv (p.blocks * p.slcPct) 100

/-- Channel of a die: die number = 64 × channel + d (R234). -/
def chanOf (die : Nat) : Nat := die / 64

/-- Number of a die within its channel (R234). -/
def dieIn (die : Nat) : Nat := die % 64

/-! ### Dies -/

/-- A die that is present, its blocks all fresh: SPARE_BLOCKS of them SPARE, 8 in the system area (Table IN-3), the rest
FREE and erased (log entry 15). -/
def freshDie (p : MediaProfile) : Die :=
  { lost := false, op := .idle, phase := .running, nested := none, suspensions := 0, issuedAt := 0, resumedAt := 0,
    suspendedAt := 0, suspendedNs := 0, lastLimit := none, budget := (0, 0, 0), reads := [], waitProgs := [],
    free := p.blocks - p.spareBlocks - 8, opened := 0, full := 8, retired := 0, spare := p.spareBlocks,
    erased := p.blocks - p.spareBlocks - 8, eraseQ := [], erasesDone := [], nextFresh := 8, erasedList := [],
    bad := [], levels := [], entry := none }

def die? (s : State) (d : Nat) : Option Die := amGet? s.med.dies d

def modDie (d : Nat) (f : Die → Die) (s : State) : State :=
  { s with med := { s.med with dies := amModify s.med.dies d f } }

def sb? (s : State) (n : Nat) : Option Superblock := amGet? s.med.sbs n

def modSb (n : Nat) (f : Superblock → Superblock) (s : State) : State :=
  { s with med := { s.med with sbs := amModify s.med.sbs n f } }

/-- FREE + OPEN + FULL + RETIRED + SPARE = BLOCKS (R253). -/
def dieEq (blocks : Nat) (d : Die) : Prop := d.free + d.opened + d.full + d.retired + d.spare = blocks

def isLost (s : State) (d : Nat) : Bool := match die? s d with
  | some x => x.lost
  | none => true

/-- SLC blocks of a die in use: its 8 blocks of the media system area and SLC journal, and those of SLC superblocks (R250). -/
def slcInUse (s : State) (d : Nat) : Nat :=
  8 + (s.med.sbs.filter fun p => p.2.slc && p.2.members.any fun m => m.1 = d).length

/-- A die set can take a new superblock in a mode: every member holds an ERASED FREE block, and for SLC its share is not
used up (R166, R250). A die that stands in for a lost member holds a SPARE block (R258). -/
def setHasFree (s : State) (ds : DieSet) (slc : Bool) : Bool :=
  !ds.draining && !ds.blocked && ds.dies.all fun d => match die? s d with
    | none => false
    | some x => !x.lost && 0 < (if ds.lent.contains d then x.spare else x.erased) &&
        (!slc || slcInUse s d < slcShare s.img.profile)

/-- Take an ERASED FREE block of a die: FREE → OPEN in one update (R253). -/
def takeBlock (x : Die) : Nat × Die :=
  match x.erasedList with
  | b :: l => (b, { x with erasedList := l, free := x.free - 1, erased := x.erased - 1, opened := x.opened + 1 })
  | [] => (x.nextFresh, { x with nextFresh := x.nextFresh + 1, free := x.free - 1, erased := x.erased - 1
                                 opened := x.opened + 1 })

/-- The erased block of a die with the highest erase count, as static wear levelling takes it (R263). -/
def takeWorn (x : Die) : Nat × Die :=
  let worn := x.erasedList.foldl (fun (a : Option Nat) b => match a with
    | none => some b
    | some c => if amGetD x.erasesDone c 0 < amGetD x.erasesDone b 0 then some b else a) none
  match worn with
  | none => takeBlock x
  | some b => (b, { x with erasedList := x.erasedList.erase b, free := x.free - 1, erased := x.erased - 1
                           opened := x.opened + 1 })

/-- Take a SPARE block of a die in place of a lost member's: SPARE → OPEN (R253, R258). -/
def takeSpare (x : Die) : Nat × Die :=
  (x.nextFresh, { x with nextFresh := x.nextFresh + 1, spare := x.spare - 1, opened := x.opened + 1 })

/-- A replacement block of a die for a failed one: a SPARE block, else an ERASED FREE one (R256). -/
def takeReplacement (x : Die) : Option (Nat × Die) :=
  if 0 < x.spare then some (takeSpare x) else if 0 < x.erased then some (takeBlock x) else none

/-- Open a superblock on a die set; its number. `worn`: of its most-worn free blocks. -/
def takeSb (worn : Bool) (inst : Nat) (ds : DieSet) (slc : Bool) (hint : Byte) (conv : Bool) (s : State) : Nat × State :=
  let n := s.med.nextSb
  let (ms, s) := ds.dies.foldl (fun (a : List (Nat × Nat) × State) d =>
    match die? a.2 d with
    | none => (a.1 ++ [(d, 0)], a.2)
    | some x =>
      let (b, x) := if ds.lent.contains d then takeSpare x else if worn then takeWorn x else takeBlock x
      (a.1 ++ [(d, b)], modDie d (fun _ => x) a.2)) ([], s)
  let sb : Superblock :=
    { inst := inst, set := ds.num, slc := slc, cls := hintClass hint, stream := hintStream hint, conv := conv,
      members := ms, rebuilding := [], used := 0, issued := 0, closed := false, full := false, staging := false
      readers := [] }
  (n, { s with med := { s.med with sbs := amSet s.med.sbs n sb, nextSb := n + 1 } })

/-! ### Stored blocks by key -/

def stored? (s : State) (k : BlkKey) : Option Stored :=
  match inst? s k.inst with
  | none => none
  | some x => if k.conv then amGet? x.conv k.offset else amGet? (zoneOf x k.zone).blocks k.offset

def modStored (k : BlkKey) (f : Stored → Stored) (s : State) : State :=
  modInst k.inst (fun x =>
    if k.conv then { x with conv := amModify x.conv k.offset f }
    else { x with zones := amModify x.zones k.zone fun z => { z with blocks := amModify z.blocks k.offset f } }) s

/-- Block `b` of a READ, by its record. -/
def readKeyOf (i : Nat) (r : BitVec 512) (b : Nat) : BlkKey :=
  if recConv r then { inst := i, conv := true, zone := 0, offset := recConvBlk r + b }
  else { inst := i, conv := false, zone := recZone r, offset := recOffset r + b }

/-! ### Twin entries (R175–R177) -/

/-- A block of a READ takes its reference on the twin entry that it hits; where the count is at its limit the data go to a buffer
of its own (R176, R353). -/
def takeEntry (i slot b half : Nat) (t : Nat × Nat) (s : State) : State :=
  let r := refTwin t s
  if r.1 then modBlock i slot b (fun rb => { rb with ref := true }) r.2
  else giveBuf i slot b half (modBlock i slot b (fun rb => { rb with twin := none }) r.2)

/-- An entry that is superseded or discarded stays for the READs accepted before that have not made their lookup: their
references are taken now (R176). -/
def keepEntry (i : Nat) (t : Nat × Nat) (s : State) : State :=
  match inst? s i with
  | none => s
  | some x => x.slots.foldl (fun s p => match p.2 with
      | .held k =>
        if k.looked then s
        else (List.range k.blocks.length).foldl (fun s b =>
          if (k.blocks[b]?).any fun rb => rb.twin = some t && !rb.ref then takeEntry i p.1 b (k.link / 8) t s else s) s
      | .done .. => s) s

/-- A stored block is superseded or discarded: its twin entry is released once no READ refers to it (R176, R177). -/
def dropStored (i : Nat) (st : Stored) (s : State) : State := match st.twin with
  | some t => freeTwin t (keepEntry i t s)
  | none => s

/-- Twin entries of some blocks are discarded. -/
def dropTwins (i : Nat) (l : List (Nat × Stored)) (s : State) : State := l.foldl (fun s b => dropStored i b.2 s) s

/-- The twin entries of a zone that is reset are discarded (R177). -/
def dropZone (i z : Nat) (s : State) : State :=
  match inst? s i with
  | none => s
  | some x => dropTwins i (zoneOf x z).blocks s

/-- The map update of a programmed block has committed: its twin space is released (R172). -/
def releaseTwin (k : BlkKey) (s : State) : State :=
  match (stored? s k).bind (·.twin) with
  | none => s
  | some t => freeTwin t (modStored k (fun st => { st with twin := none }) s)

/-- Live blocks of a superblock, with their keys. -/
def liveOf (s : State) (n : Nat) : List (BlkKey × Stored) :=
  match sb? s n with
  | none => []
  | some b => match inst? s b.inst with
    | none => []
    | some x => (storedOf b.inst x).filter fun p => match p.2.place with
      | some pl => pl.1 = n
      | none => false

/-- The die that holds a block at rest. -/
def dieOfPlace (s : State) (pl : Nat × Nat) : Option Nat :=
  match sb? s pl.1 with
  | none => none
  | some b => (b.members[memberOf b.members.length pl.2]?).map Prod.fst

/-- Queue of a die in which a place is read: its stripe's plane, where the profile declares independent plane reads; else a
die has one queue (R221, R243). -/
def planeOf (s : State) (pl : Nat × Nat) : Nat :=
  let p := s.img.profile
  match sb? s pl.1 with
  | some b => if p.pflags.testBit 0 then pl.2 / stripeBlocks b.members.length % p.planes else 0
  | none => 0

/-- A place lies on a die that is lost, or on a replacement whose data are not yet rebuilt (R258). -/
def placeGone (s : State) (pl : Nat × Nat) : Bool :=
  match sb? s pl.1, dieOfPlace s pl with
  | some b, some d => isLost s d || b.rebuilding.any fun r => r.2 = d
  | _, _ => true

/-- No other member of a place's stripe lies on a lost die, so that the block can be reconstructed (R249). -/
def othersAlive (s : State) (pl : Nat × Nat) : Bool :=
  match sb? s pl.1, dieOfPlace s pl with
  | some b, some d => b.members.all fun m => m.1 = d || (!isLost s m.1 && !(b.rebuilding.any fun r => r.2 = m.1))
  | _, _ => false

/-- Every other member of a place's stripe can be read now (R226). -/
def othersReadable (s : State) (pl : Nat × Nat) : Bool :=
  match sb? s pl.1, dieOfPlace s pl with
  | some b, some d => b.members.all fun m =>
      m.1 = d || (!isLost s m.1 && !(b.rebuilding.any fun r => r.2 = m.1) && match die? s m.1 with
        | some x => x.nested.isNone
        | none => false)
  | _, _ => false

/-! ### Starting work at a die -/

/-- Programs that run at dies; a suspended one does not. -/
def programsRunning (s : State) : Nat :=
  (s.med.dies.filter fun p => match p.2.op with
    | .program _ => p.2.phase != .suspended
    | _ => p.2.nested.isSome).length

/-- Erases that run at dies; a suspended one does not. -/
def erasesRunning (s : State) : Nat :=
  (s.med.dies.filter fun p => match p.2.op with
    | .erase _ => p.2.phase != .suspended
    | _ => false).length

/-- The caps let the suspended operation of a die run again (R241). -/
def resumeFits (s : State) (x : Die) : Bool := match x.op with
  | .idle => true
  | .program _ => programsRunning s < s.med.progCap
  | .erase _ => erasesRunning s < s.med.eraseCap

/-- A suspended operation resumes (R222, R224). -/
def resumeDie (d : Nat) (s : State) : State :=
  modDie d (fun x => { x with
    phase := .running
    resumedAt := s.quartz
    suspendedNs := x.suspendedNs + (s.quartz - x.suspendedAt) }) s

/-- A suspension ends: no read with a deadline waits, or its time cap is used up (R224). -/
def suspensionOver (x : Die) : Bool :=
  x.phase = .suspended && x.nested.isNone && (!(x.reads.any fun r => r.due.isSome) || x.budget.2.2 = 0)

/-- Issue the next array operation of an idle die that no read waits for: a waiting program, else a waiting erase, each
under its cap (R241; log entry 104). -/
def kickDie (d : Nat) (s : State) : State :=
  match die? s d with
  | none => s
  | some x =>
    if x.lost || x.op != .idle || x.phase != .running || !x.reads.isEmpty then s
    else match x.waitProgs, x.eraseQ with
      | p :: l, _ =>
        if programsRunning s < s.med.progCap then
          modDie d (fun x => { x with op := .program p, waitProgs := l, phase := .running, suspensions := 0
                                      issuedAt := s.quartz, resumedAt := s.quartz, suspendedNs := 0
                                      budget := (s.qtz.progMax, s.qtz.progRunUs, s.qtz.progCap * 4000) }) s
        else s
      | [], b :: l =>
        if erasesRunning s < s.med.eraseCap && s.pwr.dirtyCap.isNone then
          modDie d (fun x => { x with op := .erase b, eraseQ := l, phase := .running, suspensions := 0
                                      issuedAt := s.quartz, resumedAt := s.quartz, suspendedNs := 0
                                      budget := (s.qtz.eraseMax, s.qtz.eraseRunUs, s.qtz.eraseCap * 8000) }) s
        else s
      | [], [] => s

/-- Resume the suspended operation of a die whose suspension is over, under its cap. -/
def kickSuspended (d : Nat) (s : State) : State :=
  match die? s d with
  | none => s
  | some x => if suspensionOver x && resumeFits s x then resumeDie d s else s

/-- Issue and resume what the caps now allow, in ascending die number (R241). -/
def kickAll (s : State) : State :=
  let s := (s.med.dies.filter fun p => suspensionOver p.2).foldl (fun s p => kickSuspended p.1 s) s
  (s.med.dies.filter fun p => p.2.op = .idle && (!p.2.waitProgs.isEmpty || !p.2.eraseQ.isEmpty)).foldl
    (fun s p => kickDie p.1 s) s

def modProg (n : Nat) (f : Prog → Prog) (s : State) : State :=
  { s with med := { s.med with progs := amModify s.med.progs n f } }

/-- Queue the programs of a set: each member die of the superblock once per stripe group. -/
def issueProg (n : Nat) (s : State) : State :=
  match amGet? s.med.progs n with
  | none => s
  | some pr => pr.left.foldl (fun s d => kickDie d (modDie d (fun x => { x with waitProgs := x.waitProgs ++ [n] }) s)) s

/-- Add a set of programs; its number. -/
def addProg (pr : Prog) (s : State) : Nat × State :=
  let n := s.med.nextProg
  (n, { s with med := { s.med with progs := amSet s.med.progs n pr, nextProg := n + 1 } })

/-- Start a set of programs. -/
def startProg (pr : Prog) (s : State) : State :=
  let (n, s) := addProg pr s
  issueProg n s

/-- Working member dies of a superblock. -/
def liveMembers (s : State) (b : Superblock) : List Nat := (b.members.map Prod.fst).filter fun d => !isLost s d

/-- Index from `lo` to `hi` at which a group of a superblock takes a block: its own place, or the place that its native
group keeps for it while it lies in a staging extent (R245). -/
def indexIn (n lo hi : Nat) (st : Stored) : Option Nat :=
  let within := fun (pl : Option (Nat × Nat)) => match pl with
    | some p => if p.1 = n && lo ≤ p.2 && p.2 < hi then some p.2 else none
    | none => none
  match within st.native with
  | some ix => some ix
  | none => within st.place

/-- The blocks that a group of a superblock takes, each with its acceptance position and index. -/
def groupItems (s : State) (inst n lo hi : Nat) : List (BlkKey × Nat × Nat) :=
  match inst? s inst with
  | none => []
  | some x => (storedOf inst x).filterMap fun p => (indexIn n lo hi p.2).map fun ix => (p.1, p.2.pos, ix)

/-- Program the data blocks from index `lo` to `hi` of a superblock, as `groups` stripe groups (R245). Superseded blocks
are not programmed (R177). A group that takes blocks from staging extents is a fold (R251). -/
def issueGroups (kind : ProgKind) (n lo hi groups : Nat) (s : State) : State :=
  match sb? s n with
  | none => s
  | some b =>
    let items := groupItems s b.inst n lo hi
    let staged := !b.slc && items.any fun it => (stored? s it.1).any fun st => st.native.isSome
    let s := if staged then tally noInst 0x0102 11 groups s else s
    let g := groupBlocks s.img.profile b.members.length b.slc
    startProg { kind := if staged then .fold else kind, sb := n, items := items
                left := (List.replicate groups (liveMembers s b)).flatten, first := if g = 0 then 0 else lo / g
                groups := groups, redo := [], failed := [], sources := [], toRead := [], needs := [], bufs := [], bundle := none }
      (modSb n (fun b => { b with issued := b.issued + groups }) s)

/-- The blocks of a closed superblock whose programs have all ended are FULL: OPEN → FULL on each member (R253). -/
def settleSb (n : Nat) (s : State) : State :=
  match sb? s n with
  | none => s
  | some b =>
    if !b.closed || b.full || s.med.progs.any fun p => p.2.sb = n then s
    else b.members.foldl (fun s m => modDie m.1 (fun x => { x with opened := x.opened - 1, full := x.full + 1 }) s)
      (modSb n (fun b => { b with full := true }) s)

/-- A superblock takes no further block. -/
def closeSb (n : Nat) (s : State) : State := settleSb n (modSb n (fun b => { b with closed := true }) s)

/-- The next free index of a superblock is taken; a group that is now complete is programmed (R245). -/
def nextIndex (n : Nat) (s : State) : Option Nat :=
  match sb? s n with
  | none => none
  | some b => if b.closed || sbBlocks s.img.profile b.members.length b.slc ≤ b.used then none else some b.used

/-- Programs the group that the last placed block completed, and closes a superblock that is full. -/
def afterPlace (n : Nat) (s : State) : State :=
  match sb? s n with
  | none => s
  | some b =>
    let g := groupBlocks s.img.profile b.members.length b.slc
    let s := if g != 0 && b.used % g = 0 && b.issued * g < b.used then
        issueGroups (if b.staging then .staging else .host) n (b.used - g) b.used 1 s else s
    if sbBlocks s.img.profile b.members.length b.slc ≤ b.used then closeSb n s else s

/-! ### Choosing a die set (R166) -/

/-- Open zones of an instance on a die set. -/
def openOn (x : Inst) (set : Nat) : List Zone := (x.zones.filter fun p => isOpen p.2 && p.2.set = set).map Prod.snd

/-- Die sets of an instance's pool, ascending. -/
def setsOf (s : State) (x : Inst) : List DieSet := s.med.sets.filter fun d => d.pool = x.pool

/-- Choose among candidates: fewest open zones, then the stream's preference, then the first after the last choice. -/
def chooseAmong (x : Inst) (stream : Nat) (c : List DieSet) : Option DieSet :=
  let m := c.foldl (fun a d => min a (openOn x d.num).length) 1024
  let c := c.filter fun d => (openOn x d.num).length = m || m = 1024
  let pref := c.filter fun d => (openOn x d.num).all fun z => hintStream z.hint = 0 || hintStream z.hint = stream
  let c := if stream != 0 && !pref.isEmpty then pref else c
  match c.find? fun d => x.lastSet < d.num with
  | some d => some d
  | none => c.head?

/-- The choice of R166: the set, and whether the target region is SLC; none when every set has a lost member that has
no replacement. -/
def chooseSet (s : State) (x : Inst) (slc : Bool) (stream : Nat) : Option (DieSet × Bool) :=
  let ok := (setsOf s x).filter fun d => !d.lostMember
  let c := ok.filter fun d => setHasFree s d slc
  if slc && c.isEmpty then (chooseAmong x stream (ok.filter fun d => setHasFree s d false)).map fun d => (d, false)
  else (chooseAmong x stream c).map fun d => (d, slc)

/-- Target region of a hint (R165): SLC under BY_HINT for classes 0–3. -/
def targetSlc (x : Inst) (h : Byte) : Bool :=
  if x.params.writeMode = 1 then true else if x.params.writeMode = 2 then false else hintClass h ≤ 3

/-! ### Placing accepted blocks -/

/-- The superblock that an instance fills with conventional data of a hint in a region. -/
def convCur (s : State) (x : Inst) (hint : Byte) (slc : Bool) : Option Nat :=
  (amGet? x.convSb (hint.toNat + if slc then 256 else 0)).bind fun n => (nextIndex n s).map fun _ => n

/-- A new superblock for conventional data of a hint. -/
def newConv (k : BlkKey) (hint : Byte) (d : DieSet) (slc : Bool) (s : State) : Option Nat × State :=
  let (n, s) := takeSb false k.inst d slc hint true s
  (some n, modInst k.inst (fun x => { x with
    convSb := amSet x.convSb (hint.toNat + if slc then 256 else 0) n, lastSet := d.num }) s)

/-- The superblock that takes the next conventional block of a hint. Its region is chosen for each write alone: SLC where the
hint or the mode asks for it and a superblock there is free, else native (R165). A new superblock lies on the die set that R166
gives, and is the set that the instance chose last (DESIGN CHOICE: R166 speaks of zones only; log entry 124). -/
def convSbFor (k : BlkKey) (x : Inst) (hint : Byte) (s : State) : Option Nat × State :=
  let want := targetSlc x hint
  match (if want then convCur s x hint true else none), chooseSet s x want (hintStream hint) with
  | some n, _ => (some n, s)
  | none, some (d, true) => newConv k hint d true s
  | none, c => match convCur s x hint false, c with
    | some n, _ => (some n, s)
    | none, some (d, _) => newConv k hint d false s
    | none, none => (none, s)

/-- A superblock of a die set that a zone of the same instance, class and stream left partly filled as it became FULL or
READ_ONLY: the next zone's data continue it (R167). -/
def leftOpen (s : State) (x : Inst) (k : BlkKey) (hint : Byte) (set : Nat) (slc : Bool) : Option Nat :=
  let done := fun (z : Zone) => z.state = .full || z.state = .readOnly
  (s.med.sbs.find? fun p => p.2.inst = k.inst && p.2.set = set && p.2.slc = slc && !p.2.conv && !p.2.staging &&
    p.2.cls = hintClass hint && p.2.stream = hintStream hint && (nextIndex p.1 s).isSome &&
    (x.zones.any fun z => z.2.sb = some p.1) && x.zones.all fun z => z.2.sb != some p.1 || done z.2).map Prod.fst

/-- The superblock that takes the next block of a zone. A zone keeps to its die set unless that set drains (R166, R275). -/
def zoneSbFor (k : BlkKey) (x : Inst) (hint : Byte) (s : State) : Option Nat × State :=
  let zn := zoneOf x k.zone
  match zn.sb.bind fun n => (nextIndex n s).map fun _ => n with
  | some n => (some n, s)
  | none =>
    let want := zn.slcTarget
    let own := (setOf s x zn.set).bind fun d =>
      if d.draining then none
      else if setHasFree s d want then some (d, want)
      else if setHasFree s d false then some (d, false) else none
    match own.orElse fun _ => chooseSet s x want (hintStream hint) with
    | none => (none, s)
    | some (d, slc) =>
      let s := if want && !slc then tally k.inst 0x0006 0 1 s else s
      let (n, s) := match leftOpen s x k hint d.num slc with
        | some n => (n, s)
        | none => takeSb false k.inst d slc hint false s
      (some n, modInst k.inst (fun x => putZone k.zone { zoneOf x k.zone with sb := some n } x) s)

/-- The open superblock that takes the next block of a zone or of a conventional hint; a new one is taken where there is
none. For a conventional hint the die set is chosen as R166 chooses one for a zone, and the choice counts as the instance's
last (DESIGN CHOICE: R166 speaks of zones only; log entry 124). -/
def openSbFor (k : BlkKey) (hint : Byte) (s : State) : Option Nat × State :=
  match inst? s k.inst with
  | none => (none, s)
  | some x => if k.conv then convSbFor k x hint s else zoneSbFor k x hint s

/-- Extents of a zone: runs of consecutive blocks at consecutive places (R244). -/
def extentCount (zn : Zone) : Nat :=
  (zn.blocks.foldl (fun (a : Nat × Nat × Nat × Nat) b => match b.2.place with
    | none => a
    | some pl => (if a.1 != 0 && b.1 = a.2.1 + 1 && pl.1 = a.2.2.1 && pl.2 = a.2.2.2 + 1 then a.1 else a.1 + 1, b.1, pl.1, pl.2))
    (0, 0, 0, 0)).1

/-- Give an accepted block its place at rest; it is programmed with its stripe group. -/
def placeBlock (k : BlkKey) (s : State) : State :=
  match stored? s k with
  | none => s
  | some st =>
    match openSbFor k st.hint s with
    | (none, s) => s
    | (some n, s) => match nextIndex n s with
      | none => s
      | some ix =>
        let slc := match sb? s n with
          | some b => b.slc
          | none => false
        afterPlace n (modSb n (fun b => { b with used := b.used + 1 })
          (modStored k (fun st => { st with place := some (n, ix), slcPage := slc }) s))

/-- Twin data of the group that a superblock fills of which some test holds. -/
def groupAsked (s : State) (ask : Stored → Bool) (n : Nat) (b : Superblock) : Bool :=
  let g := groupBlocks s.img.profile b.members.length b.slc
  (groupItems s b.inst n (b.used / g * g) b.used).any fun it => (stored? s it.1).any fun st => !st.onFlash && ask st

/-- An incomplete group of a superblock is programmed now, its empty slots pad (R245). -/
def padSb (n : Nat) (s : State) : State :=
  match sb? s n with
  | none => s
  | some b =>
    let g := groupBlocks s.img.profile b.members.length b.slc
    if b.closed || g = 0 || b.used % g = 0 then s
    else afterPlace n (modSb n (fun b => { b with used := b.used / g * g + g }) s)

/-- An open superblock of staging extents of an instance for a hint, on a die set that has all its members (R167, R245). -/
def stagingOpen (s : State) (x : Inst) (k : BlkKey) (hint : Byte) (set : Option Nat) : Option Nat :=
  (s.med.sbs.find? fun p => p.2.staging && !p.2.closed && p.2.inst = k.inst && p.2.conv = k.conv &&
    p.2.cls = hintClass hint && p.2.stream = hintStream hint && set.all (· = p.2.set) &&
    (setOf s x p.2.set).any fun d => !d.lostMember).map Prod.fst

/-- A new superblock of staging extents on a die set. -/
def takeStaging (k : BlkKey) (hint : Byte) (d : DieSet) (s : State) : Option Nat × State :=
  let (n, s) := takeSb false k.inst d true hint k.conv s
  (some n, modSb n (fun b => { b with staging := true }) s)

/-- The superblock that takes the next block of a staging extent: in the SLC region of the block's own die set, else of
another one of the instance; none while no SLC superblock is free (R245, R250). -/
def stagingSb (k : BlkKey) (hint : Byte) (set : Nat) (s : State) : Option Nat × State :=
  match inst? s k.inst with
  | none => (none, s)
  | some x =>
    match stagingOpen s x k hint (some set), (setOf s x set).filter fun d => setHasFree s d true with
    | some n, _ => (some n, s)
    | none, some d => takeStaging k hint d s
    | none, none => match stagingOpen s x k hint none, chooseSet s x true (hintStream hint) with
      | some n, _ => (some n, s)
      | none, some (d, true) => takeStaging k hint d s
      | none, _ => (none, s)

/-- A block of an incomplete native group goes to a staging extent; its place in the group is kept (R245). -/
def stageBlock (ask : Stored → Bool) (n set : Nat) (k : BlkKey) (s : State) : State :=
  match stored? s k with
  | none => s
  | some st =>
    if st.onFlash || (st.place.map Prod.fst) != some n || !ask st then s
    else
      match stagingSb k st.hint set s with
      | (none, s) => s
      | (some m, s) => match nextIndex m s with
        | none => s
        | some j => afterPlace m (modSb m (fun b => { b with used := b.used + 1 })
            (modStored k (fun st => { st with native := st.place, place := some (m, j), slcPage := true }) s))

/-- The twin data of an incomplete native group are programmed to SLC as a staging extent (R245). -/
def stageGroup (ask : Stored → Bool) (n : Nat) (b : Superblock) (s : State) : State :=
  let g := groupBlocks s.img.profile b.members.length b.slc
  let s := (groupItems s b.inst n (b.used / g * g) b.used).foldl (fun s it => stageBlock ask n b.set it.1 s) s
  (s.med.sbs.filter fun p => p.2.staging && p.2.inst = b.inst).foldl (fun s p => padSb p.1 s) s

/-- Twin data of the incomplete group of a superblock go to flash now, where a test holds of some: an SLC group is programmed
with pad, a native group's data go to a staging extent (R245). -/
def padGroup (ask : Stored → Bool) (n : Nat) (s : State) : State :=
  match sb? s n with
  | none => s
  | some b =>
    if b.closed || !groupAsked s ask n b then s else if b.slc then padSb n s else stageGroup ask n b s

/-- A zone takes another extent: it has fewer than 255, and else waits for its fragments to be rejoined (R244). -/
def extentFree (zn : Zone) : Bool := extentCount zn < 255

/-- The groups that a zone fills, for the data of which a test holds. -/
def padZoneIf (ask : Stored → Bool) (i z : Nat) (s : State) : State :=
  match inst? s i with
  | none => s
  | some x => match (zoneOf x z).sb with
    | some n => if extentFree (zoneOf x z) then padGroup ask n s else s
    | none => s

/-- Open groups of conventional data of an instance, for the data of which a test holds. -/
def padConvIf (ask : Stored → Bool) (i : Nat) (s : State) : State :=
  match inst? s i with
  | none => s
  | some x => x.convSb.foldl (fun s p => padGroup ask p.2 s) s

/-- Every open group of an instance, for the data of which a test holds. -/
def padInstIf (ask : Stored → Bool) (i : Nat) (s : State) : State :=
  match inst? s i with
  | none => s
  | some x =>
    let ns := x.zones.filterMap fun p => if extentFree p.2 then p.2.sb else none
    padConvIf ask i (ns.foldl (fun s n => padGroup ask n s) s)

/-- The group that a zone fills goes to flash. -/
def padZone (i z : Nat) (s : State) : State := padZoneIf (fun _ => true) i z s

/-- The front of an order waits for twin space. -/
def waitsTwin : Waiting → Bool
  | .twin _ => true
  | _ => false

/-- Every open group of an instance goes to flash. -/
def padInst (i : Nat) (s : State) : State := padInstIf (fun _ => true) i s

/-- What a FLUSH covers goes to flash (R146, R245). -/
def padFlush (i : Nat) (t : Task) (s : State) : State :=
  let z := recZoneIdx t.record
  let ask := fun (st : Stored) => decide (st.pos < t.pos)
  if z = 0xFFFFFFFF then padInstIf ask i s else padZoneIf ask i z s

/-! ### The preserve state (R266) -/

/-- Data blocks that the owners of a pool reserve (Table IN-3). -/
def reservation (p : MediaProfile) (x : Inst) : Nat :=
  x.params.zoneCount * x.params.zoneCap + ceilDiv (x.params.convBlocks * 9) 8 +
    x.params.openLimit * sbBlocks p x.params.stripeWidth false

/-- Blocks that a die of a pool must hold good: its share of the owners' capacity, of the SLC region, of the system area
and the preserve reserve. -/
def dieNeed (s : State) (pool : Nat) : Nat :=
  match amGet? s.slt.pools pool with
  | none => 0
  | some pd =>
    let need := sumNat (pd.owners.map fun i => match inst? s i with
      | some x => reservation s.img.profile x
      | none => 0)
    let sets := (s.med.sets.filter fun d => d.pool = pool && !d.draining).length
    let per := sets * sbBlocks s.img.profile pd.w false
    (if per = 0 then 0 else ceilDiv need per) + slcShare s.img.profile + 12

/-- Some die's good blocks fall below its reservation. -/
def anyShort (s : State) : Bool :=
  s.med.sets.any fun ds => ds.dies.any fun d => match die? s d with
    | none => false
    | some x => !x.lost && s.img.profile.blocks - x.retired - x.spare < dieNeed s ds.pool

/-- Enter the preserve state at the update in which a die becomes short, with a CONTAIN record (R266). -/
def checkPreserve (s : State) : State :=
  if !s.med.preserve && anyShort s then
    event kMediaData sevContain noSource noInst [] { s with med := { s.med with preserve := true } }
  else s

/-! ### Releasing superblocks and blocks -/

/-- A block of a die becomes FREE, or RETIRED where its erase count has reached ENDURANCE: a SPARE block then takes its place
(R250, R257, R266). -/
def freedBlock (endurance b : Nat) (x : Die) : Die :=
  if endurance ≤ amGetD x.erasesDone b 0 then
    (if 0 < x.spare then { x with retired := x.retired + 1, bad := x.bad ++ [b], spare := x.spare - 1, free := x.free + 1
                                  erased := x.erased + 1 }
     else { x with retired := x.retired + 1, bad := x.bad ++ [b] })
  else { x with free := x.free + 1, eraseQ := x.eraseQ ++ [b] }

/-- A FULL block becomes FREE or RETIRED; a FREE block waits for erase, and the preserve state is judged where one retires
(R257, R266). -/
def freeBlock (d b : Nat) (s : State) : State :=
  match die? s d with
  | none => s
  | some x =>
    let worn := s.img.profile.endurance ≤ amGetD x.erasesDone b 0
    let s := kickDie d (modDie d (fun x => freedBlock s.img.profile.endurance b { x with full := x.full - 1 }) s)
    if worn then checkPreserve (tally noInst 0x0102 14 1 s) else s

/-- No program of a superblock is still running. -/
def sbQuiet (s : State) (n : Nat) : Bool := s.med.progs.all fun p => p.2.sb != n && !p.2.sources.contains n

/-- READs of an instance that are HELD, which a test on their task picks: slot and position. -/
def heldReads (x : Inst) (p : Task → Bool) : List (Nat × Nat) :=
  x.slots.filterMap fun q => match q.2 with
    | .held t => if t.op = 0x01 && p t then some (q.1, t.pos) else none
    | .done .. => none

/-- A READ that has not completed has a block in a superblock, or was accepted before a reset that emptied it (R159, R261). -/
def sbRead (s : State) (n : Nat) : Bool :=
  s.insts.any fun p => !(heldReads p.2 fun t => t.blocks.any fun b => (b.place.map Prod.fst) = some n).isEmpty ||
    (sb? s n).any fun b => b.inst = p.1 && (heldReads p.2 fun _ => true).any b.readers.contains

/-- A commit that is not applied yet may still be undone, and with it a reset that emptied a superblock (R197, R201). -/
def undoHolds (s : State) (n : Nat) : Bool :=
  s.jrn.descs.any fun p => p.2.undo.any fun u => u.2.1.blocks.any fun b => (b.2.place.map Prod.fst) = some n

/-- A superblock with no live block is released for erase (R159, R261): its blocks become FREE. -/
def releaseSb (n : Nat) (s : State) : State :=
  match sb? s n with
  | none => s
  | some b =>
    if !(liveOf s n).isEmpty || !sbQuiet s n || sbRead s n || undoHolds s n then s
    else
      let s := closeSb n s
      let s := { s with med := { s.med with sbs := amErase s.med.sbs n } }
      b.members.foldl (fun s m => if isLost s m.1 then s else freeBlock m.1 m.2 s) s

/-- Release every closed superblock of an instance that holds no live block. -/
def releaseDead (i : Nat) (s : State) : State :=
  (s.med.sbs.filter fun p => p.2.inst = i && p.2.closed).foldl (fun s p => releaseSb p.1 s) s

/-- A zone is about to be emptied: the flash that holds its data waits for the READs accepted before that read it (R159). -/
def holdFlash (i z : Nat) (s : State) : State :=
  match inst? s i with
  | none => s
  | some x =>
    let rs := heldReads x fun t => !recConv t.record && recZone t.record = z
    let ns := (((zoneOf x z).blocks.filterMap fun b => b.2.place.map Prod.fst) ++ (zoneOf x z).sb.toList).eraseDups
    if rs.isEmpty then s else ns.foldl (fun s n => modSb n (fun b => { b with readers := b.readers ++ rs }) s) s

/-! ### Reads at the die -/

/-- Due instant by which a read is ordered: the task's, or 65,536 µs after its ready instant (R208, R221). -/
def orderKey (t : Task) : Nat := match dueOf t with
  | some d => d
  | none => t.ready + 65536000

/-- Insert a read in queue order: by due instant, then by acceptance time, then as they came (R221). -/
def insertRead (r : ReadReq) (key : ReadReq → Nat) : List ReadReq → List ReadReq
  | [] => [r]
  | q :: l => if key r < key q || (key r = key q && r.at' < q.at') then r :: q :: l else q :: insertRead r key l

/-- The task of a queued read, if it still runs; a read for a copy has none. -/
def readTask (s : State) (r : ReadReq) : Option Task :=
  if r.job.isSome then none
  else match heldTask s r.inst r.slot with
    | some t => if t.pos = r.order then some t else none
    | none => none

/-- The copy of a queued read and the item it reads, where that is still to be read. -/
def readJob (s : State) (r : ReadReq) : Option (Nat × Prog × BlkKey × Nat × Nat) :=
  r.job.bind fun n => (amGet? s.med.progs n).bind fun pr =>
    if pr.toRead.contains r.blk then (pr.items[r.blk]?).map fun it => (n, pr, it) else none

/-- A queued read is still wanted. -/
def readLives (s : State) (r : ReadReq) : Bool := (readTask s r).isSome || (readJob s r).isSome

/-- Queue key of a read: the task's due instant; 65,536 µs after a read of the media manager was issued, and after now where
its task no longer runs (R208, R221). -/
def readKey (s : State) (r : ReadReq) : Nat := match readTask s r with
  | some t => orderKey t
  | none => (if r.job.isSome then r.at' else s.quartz) + 65536000

/-- Remaining time of a die's operation in ns, by the profile (R226). -/
def remaining (s : State) (x : Die) : Nat :=
  let p := s.img.profile
  let total := match x.op with
    | .idle => 0
    | .program n => match amGet? s.med.progs n with
      | some pr => match sb? s pr.sb with
        | some b => (if b.slc then p.tProgSlcUs else p.tProgUs) * 1000
        | none => p.tProgUs * 1000
      | none => p.tProgUs * 1000
    | .erase _ => p.tEraseUs * 1000
  total - (s.quartz - x.issuedAt - x.suspendedNs)

/-- R224 lets the die's operation be suspended now. -/
def suspendOk (s : State) (x : Die) : Bool :=
  x.phase = .running && x.nested.isNone && match x.op with
    | .idle => false
    | _ => x.suspensions < x.budget.1 && x.budget.2.1 * 1000 ≤ s.quartz - x.resumedAt && x.suspendedNs < x.budget.2.2

/-- A die serves reads: it is idle, or its operation is suspended and no program is nested (R222, R226). A die that has been
given RESET serves none (R255). -/
def servesReads (x : Die) : Bool :=
  !x.lost && x.nested.isNone && ((x.op = .idle && x.phase = .running) || x.phase = .suspended)

/-- avail(m) of R226 in ns. -/
def avail (s : State) (d : Nat) : Nat := match die? s d with
  | none => 0
  | some x => if servesReads x then 0 else if suspendOk s x then s.img.profile.tSuspUs * 1000 else remaining s x

/-- Where the block of a read lies; of a copy's item only while the entry still points at a source (R260). -/
def readPlace (s : State) (r : ReadReq) : Option (Nat × Nat) :=
  match readTask s r, readJob s r with
  | some t, _ => (t.blocks[r.blk]?).bind (·.place)
  | none, some (_, pr, k, pos, _) => (stored? s k).bind fun st =>
      if st.pos = pos && (st.place.map Prod.fst).any pr.sources.contains then st.place else none
  | none, none => none

/-- The read is at the head of its queue at a die. -/
def atHead (s : State) (d : Nat) (r : ReadReq) : Bool :=
  (die? s d).any fun x => x.reads.find? (fun q => q.plane = r.plane) = some r

/-- Count an event of a read for its instance; reads of the media manager count for none. -/
def tallyRead (r : ReadReq) (n : Nat) (s : State) : State := if r.job.isSome then s else tally r.inst 0x0006 n 1 s

/-- Suspend the operation of a die for a read (R222, R224). -/
def suspendFor (d : Nat) (r : ReadReq) (s : State) : State :=
  match die? s d with
  | none => s
  | some x =>
    let isErase := match x.op with
      | .erase _ => true
      | _ => false
    tallyRead r 1 (tally noInst 0x0101 (if isErase then 4 else 3) 1
      (modDie d (fun x => { x with phase := .suspending, suspendedAt := s.quartz
                                   suspensions := x.suspensions + 1 }) s))

/-- The decision for a read of a reconstruction at the head of a busy die's queue: waiting, or a suspension where R224 allows
one and it takes less time (R226). -/
def memberRead (d : Nat) (r : ReadReq) (s : State) : State :=
  match die? s d with
  | none => s
  | some x =>
    if atHead s d r && r.due.isSome && !x.lost && suspendOk s x && s.img.profile.tSuspUs * 1000 < remaining s x then
      suspendFor d r s
    else s

/-- Take a block's reads out of every queue. -/
def dropReads (r : ReadReq) (s : State) : State :=
  { s with med := { s.med with dies := s.med.dies.map fun p => (p.1, { p.2 with
      reads := p.2.reads.filter fun q => !(q.inst = r.inst && q.slot = r.slot && q.blk = r.blk && q.order = r.order) }) } }

/-- Queue a read at a die. -/
def enqueue (d : Nat) (r : ReadReq) (s : State) : State :=
  modDie d (fun x => { x with reads := insertRead r (readKey s) x.reads }) s

/-- A read's block waits for some members of its stripe, the first of them at a die. -/
def setNeed (r : ReadReq) (die n : Nat) (s : State) : State := match r.job with
  | some j => modProg j (fun p => { p with needs := amSet p.needs r.blk n }) s
  | none => modTask r.inst r.slot (fun t => { turn .reconstruct s.quartz t with
      blocks := modNth t.blocks r.blk fun rb => { rb with stage := .array die, need := n } }) s

/-- Reconstruct a read: the other members of its stripe are read, not the die that holds the block (R226, R249). -/
def reconstruct (r : ReadReq) (pl : Nat × Nat) (s : State) : State :=
  match sb? s pl.1, dieOfPlace s pl with
  | some b, some d =>
    let ms := (b.members.map Prod.fst).filter (· != d)
    let r := { r with recon := true, plane := planeOf s pl }
    let s := setNeed r (ms.headD d) ms.length (tally noInst 0x0101 5 1 (tallyRead r 2 (dropReads r s)))
    ms.foldl (fun s m => memberRead m r (enqueue m r s)) s
  | _, _ => s

/-- The read-around decision for the read at the head of a queue of a busy die (R226). A read with no deadline waits. -/
def aroundRead (d : Nat) (r : ReadReq) (s : State) : State :=
  match die? s d, readTask s r, readPlace s r with
  | some x, some t, some pl =>
    if x.lost || servesReads x || (dueOf t).isNone then s
    else if r.recon then memberRead d r s
    else
      let p := s.img.profile
      let canRec := othersReadable s pl
      if x.nested.isSome then (if canRec then reconstruct r pl s else s)
      else if x.phase != .running then s
      else
        let eWait := remaining s x + p.tReadUs * 1000
        let eSusp := (p.tSuspUs + p.tReadUs) * 1000
        let others := match sb? s pl.1 with
          | some b => (b.members.map Prod.fst).filter (· != d)
          | none => []
        let eRec := (others.foldl (fun a m => max a (avail s m)) 0) + p.tReadUs * 1000 + 2000
        let sOk := suspendOk s x
        if eWait ≤ eSusp || !sOk then
          if canRec && eRec < eWait then reconstruct r pl s
          else if sOk then s else modTask r.inst r.slot (turn .suspendBudget s.quartz) s
        else if canRec && eRec < eSusp then reconstruct r pl s
        else suspendFor d r s
  | _, _, _ => s

/-- A read has come to the head of its queue: it waits for no other read any more (Table LT-4). -/
def headReached (r : ReadReq) (s : State) : State :=
  modTask r.inst r.slot (fun t => if t.cause = .queue then turn .other s.quartz t else t) s

/-- The read-around decisions at a die, for each read that is, or comes, to the head of its queue (R226). -/
def readAround (d : Nat) (s : State) : State :=
  match die? s d with
  | none => s
  | some x => x.reads.foldl (fun s r => if atHead s d r then aroundRead d r (headReached r s) else s) s

/-- The stored block that lies at a place, if any. -/
def keyAt (s : State) (pl : Nat × Nat) : Option BlkKey :=
  ((liveOf s pl.1).find? fun p => p.2.place = some pl).map Prod.fst

/-- Mark a block poisoned in its map entry, in one HWT, with a DEGRADE record (R249, R265). The HWT waits at STAGE while
another one holds the entry's line (R203). -/
def poisonBlock (k : BlkKey) (die : Nat) (s : State) : State :=
  if hwtLocked s (keyLine k) then { s with jrn := { s.jrn with waitingPoison := s.jrn.waitingPoison ++ [(k, die)] } }
  else
  let s := sealHwt 1 1 [keyLine k] (modStored k (fun st => { st with harm := .lost }) s)
  let s := { s with med := { s.med with poison := satInc s.med.poison } }
  let s := tally noInst 0x0102 19 1 (tally k.inst 0x0006 6 1 s)
  event kMediaData sevDegrade noSource k.inst
    (if k.conv then [k.inst, k.offset, die] else [k.inst, k.zone, k.offset, die]) s

/-- The sources of a copy have all been read: its programs begin (R221, R251). -/
def startCopy (n : Nat) (s : State) : State :=
  match amGet? s.med.progs n with
  | none => s
  | some pr => match sb? s pr.sb with
    | none => s
    | some b => issueProg n (modProg n (fun p => { p with
        left := (List.replicate pr.groups (liveMembers s b)).flatten }) s)

/-- An item of a copy has its data. -/
def itemRead (n ix : Nat) (s : State) : State :=
  let s := modProg n (fun p => { p with toRead := p.toRead.filter (· != ix), needs := amErase p.needs ix }) s
  if (amGet? s.med.progs n).any (·.toRead.isEmpty) then startCopy n s else s

/-- A block whose codeword fails every stage with no reconstruction is lost: it is marked poisoned. A READ reports it; a copy
carries it as a poisoned slot (R249, R252, R265). -/
def readLost (r : ReadReq) (s : State) : State :=
  let s := match readPlace s r with
    | some pl => match keyAt s pl with
      | some k => poisonBlock k ((dieOfPlace s pl).getD 0) s
      | none => s
    | none => s
  match r.job with
  | some n => itemRead n r.blk (dropReads r s)
  | none => blockFailed r.inst r.slot r.blk 0 (dropReads r (tally r.inst 0x0006 5 1 s))

/-- The block of a read comes from the array of a die. -/
def setDirect (r : ReadReq) (d : Nat) (s : State) : State := match r.job with
  | some _ => s
  | none => modTask r.inst r.slot (fun t => { t with
      blocks := modNth t.blocks r.blk fun rb => { rb with stage := .array d, need := 0 } }) s

/-- Queue a block's array read at the die that holds it. -/
def directRead (r : ReadReq) (pl : Nat × Nat) (s : State) : State :=
  match dieOfPlace s pl with
  | none => readLost r s
  | some d =>
    let r := { r with recon := false, plane := planeOf s pl }
    let s := setDirect r d (enqueue d r s)
    readAround d (if atHead s d r then s else modTask r.inst r.slot (turn .queue s.quartz) s)

/-- Read a block at rest: at its die, else by reconstruction, where a member that cannot be read now is waited for; lost where
another member is (R226, R249, R258). -/
def startBlock (r : ReadReq) (pl : Nat × Nat) (s : State) : State :=
  if !placeGone s pl then directRead r pl s
  else if othersAlive s pl then reconstruct r pl s
  else readLost r s

/-- Queue a block's array read at its die. -/
def queueRead (i slot b : Nat) (t : Task) (pl : Nat × Nat) (s : State) : State :=
  startBlock { inst := i, slot := slot, blk := b, due := dueOf t, order := t.pos, at' := t.acceptTime, recon := false
               last := false, plane := 0, job := none } pl s

/-- A block that hits a twin entry is served from the copy in the half of its task's port, else from the other with a fault
record; where both have failed it is poisoned, or lost with two channels (R29, R175). -/
def serveTwin (i slot b half : Nat) (harm : Option Harm) (t : Nat × Nat) (s : State) : State :=
  match twinHalf s half t with
  | none => if harm = some .lost then blockFailed i slot b 0 (tally i 0x0006 5 1 s)
      else blockFailed i slot b 1 (tally i 0x0006 6 1 s)
  | some h => giveBuf i slot b half (if h = half then s else event kMemory sevNotice noSource i [4 + half, if half = 0 then t.1 else t.2] s)

/-- The lookup of one block of a READ (R175): a fill block is ready at once; a twin hit takes its reference and goes to a lane,
unless the entry has been programmed since; a block at rest goes to its die. -/
def lookBlock (i slot : Nat) (t : Task) (s : State) (b : Nat) : State :=
  let half := t.link / 8
  match blockAt? s i slot b with
  | none => s
  | some rb => match rb.stage with
    | .fill => blockReady i slot b (giveBuf i slot b half s)
    | .array _ => match rb.place with
      | some pl => queueRead i slot b t pl s
      | none => s
    | .lane => match rb.twin, stored? s (readKeyOf i t.record b) with
      | none, _ => s
      | some tw, st =>
        let harm := st.map (·.harm)
        if rb.ref then serveTwin i slot b half harm tw s
        else if st.any fun st => st.twin = some tw then serveTwin i slot b half harm tw (takeEntry i slot b half tw s)
        else match st.bind (·.place) with
          | some pl => queueRead i slot b t pl (modBlock i slot b (fun rb => { rb with twin := none, place := some pl }) s)
          | none => s
    | _ => s

/-- Begin a READ that no commit holds: it makes its lookup (R175, R176). -/
def startRead (i slot : Nat) (s : State) : State :=
  match heldTask s i slot with
  | none => s
  | some t =>
    (List.range t.blocks.length).foldl (lookBlock i slot t)
      (finishRead i slot (modTask i slot (fun t => { t with looked := true }) s))

/-! ### Copies of live data: fold, GC, wear levelling, refresh (R251, R259–R264) -/

/-- Half of the channel of the die that holds a place (R15). -/
def halfOfPlace (s : State) (pl : Nat × Nat) : Nat := chanOf ((dieOfPlace s pl).getD 0) / 32

/-- The read of an item of a copy begins, with a buffer in the half of its channel (R15); one that has been overwritten or moved
since is not read (R260). -/
def startItem (n ix : Nat) (s : State) : State :=
  let r : ReadReq := { inst := noInst, slot := 0, blk := ix, due := none, order := n, at' := s.quartz, recon := false
                       last := false, plane := 0, job := some n }
  match readPlace s r with
  | none => itemRead n ix s
  | some pl =>
    let a := takeStage (halfOfPlace s pl) s
    startBlock r pl (match a.1 with
      | some b => modProg n (fun p => { p with bufs := p.bufs ++ [(ix, b)] }) a.2
      | none => a.2)

/-- Copy live blocks into a new superblock of the same instance, class and stream: their sources are read at the dies, with no
deadline, then the stripe groups are programmed. The map entries switch when the programs have ended, each only if it still
points at its source (R221, R260). -/
def copyJob (kind : ProgKind) (bundle : Option Nat) (blks : List (BlkKey × Stored)) (ds : DieSet) (slc staging : Bool)
    (s : State) : State :=
  match blks with
  | [] => s
  | (k, st) :: _ =>
    let (n, s) := takeSb (kind = .wear) k.inst ds slc st.hint k.conv s
    let g := groupBlocks s.img.profile ds.dies.length slc
    let groups := if g = 0 then 1 else ceilDiv blks.length g
    let items := (List.range blks.length).zip blks |>.map fun p => (p.2.1, p.2.2.pos, p.1)
    let s := modSb n (fun b => { b with used := groups * g, issued := groups, staging := staging }) s
    let s := if kind = .fold then tally noInst 0x0102 11 groups s
      else if kind = .gc then tally noInst 0x0102 12 blks.length s else s
    let (j, s) := addProg { kind := kind, sb := n, items := items, left := [], first := 0, groups := groups, redo := []
                            failed := [], sources := (blks.filterMap fun p => p.2.place.map Prod.fst).eraseDups
                            toRead := List.range blks.length, needs := [], bufs := [], bundle := bundle } s
    (List.range blks.length).foldl (fun s ix => startItem j ix s) (closeSb n s)

/-- ERASED FREE superblocks of a die set. -/
def freeSets (s : State) (ds : DieSet) : Nat :=
  ds.dies.foldl (fun a d => match die? s d with
    | some x => min a x.erased
    | none => 0) 8192

/-- Copy live blocks of one instance, class and stream. SLC groups take pad. A native group is programmed only complete (R245):
whole groups go to native superblocks, which switch in one HWT, and what is left over goes to a staging extent where SLC is
free; a fold leaves it in SLC (R251). -/
def copyTo (kind : ProgKind) (blks : List (BlkKey × Stored)) (ds : DieSet) (slc : Bool) (s : State) : State :=
  let cap := sbBlocks s.img.profile ds.dies.length slc
  if slc then (if setHasFree s ds true then copyJob kind none (blks.take cap) ds true false s else s)
  else
    let g := groupBlocks s.img.profile ds.dies.length false
    let whole := if g = 0 then 0 else blks.length / g * g
    let n := ceilDiv whole (max 1 cap)
    let rest := blks.drop whole
    let fits := setHasFree s ds false && n ≤ freeSets s ds
    let id := s.med.nextProg
    let s := if fits then (List.range n).foldl (fun s c =>
      copyJob kind (some id) (((blks.take whole).drop (c * cap)).take cap) ds false false s) s else s
    if kind != .fold && (whole = 0 || fits) && setHasFree s ds true then copyJob kind none rest ds true true s else s

/-- A copy has begun. -/
def began (before after : State) : Bool := before.med.nextProg < after.med.nextProg

/-- SLC data of a zone that a fold copies: at rest, and with no place kept in a native group (R251). -/
def slcBlocks (i z : Nat) (zn : Zone) : List (BlkKey × Stored) :=
  (zn.blocks.filter fun b => b.2.slcPage && b.2.onFlash && b.2.native.isNone).map fun b =>
    ({ inst := i, conv := false, zone := z, offset := b.1 }, b.2)

/-- A copy moves data of a zone. -/
def moving (s : State) (i z : Nat) : Bool :=
  s.med.progs.any fun p => !p.2.sources.isEmpty && p.2.items.any fun k => k.1.inst = i && !k.1.conv && k.1.zone = z

/-- Fold a FULL zone whose data have all reached flash, or an open one where SLC runs short: the extents switch in one HWT
(R251). -/
def foldZone (i z : Nat) (s : State) : State :=
  match inst? s i with
  | none => s
  | some x =>
    let zn := zoneOf x z
    if moving s i z || (zn.state = .full && zn.blocks.any fun b => !b.2.onFlash) then s
    else match setOf s x zn.set with
      | some ds => copyTo .fold (slcBlocks i z zn) ds false s
      | none => s

/-- The fragments of a zone of many extents are rejoined by the GC path, long before its 256 extents are used up (R244; log
entry 127). -/
def rejoinZone (i z : Nat) (s : State) : State :=
  match inst? s i with
  | none => s
  | some x =>
    let zn := zoneOf x z
    if extentCount zn < 128 || moving s i z then s
    else match setOf s x zn.set with
      | some ds => copyTo .gc ((zn.blocks.filter fun b => b.2.onFlash && b.2.native.isNone).map fun b =>
          ({ inst := i, conv := false, zone := z, offset := b.1 }, b.2)) ds false s
      | none => s

/-- A ZONE_RESET ends the folds of a zone: the map is not switched, and what is not being programmed at a die is given up
(R252). -/
def endFold (i z : Nat) (s : State) : State :=
  let mine := s.med.progs.filter fun p => p.2.kind = .fold && !p.2.sources.isEmpty &&
    p.2.items.any fun k => k.1.inst = i && !k.1.conv && k.1.zone = z
  mine.foldl (fun s p =>
    let here := (s.med.dies.filter fun d => d.2.op = .program p.1 || d.2.nested = some p.1).map Prod.fst
    let s := { s with med := { s.med with dies := s.med.dies.map fun d => (d.1, { d.2 with
      waitProgs := d.2.waitProgs.filter (· != p.1), reads := d.2.reads.filter fun r => r.job != some p.1 }) } }
    modProg p.1 (fun q => { q with items := [], toRead := [], needs := [], left := here, redo := [] }) s) s

/-- Highest erase count of a superblock's members. -/
def sbErases (s : State) (b : Superblock) : Nat :=
  b.members.foldl (fun a m => match die? s m.1 with
    | some x => max a (amGetD x.erasesDone m.2 0)
    | none => a) 0

/-- A superblock of a die set: of that number, and of an instance of its pool. -/
def sbOfSet (s : State) (ds : DieSet) (b : Superblock) : Bool :=
  b.set = ds.num && (inst? s b.inst).any fun x => x.pool = ds.pool

/-- FULL superblocks of a die set with no program under way. -/
def fullSbs (s : State) (ds : DieSet) : List (Nat × Superblock) :=
  s.med.sbs.filter fun p => p.2.full && sbOfSet s ds p.2 && sbQuiet s p.1 &&
    (liveOf s p.1).all fun b => b.2.onFlash && b.2.native.isNone

/-- Garbage collection on a die set, from below its low mark until its high mark: the FULL superblock with the fewest
live blocks, then the lowest erase count (R259). -/
def gcSet (ds : DieSet) (s : State) : State :=
  let free := freeSets s ds
  let on := free < s.med.gcLow || (ds.gc && free < s.med.gcHigh)
  let s := if ds.gc = on then s else { s with med := { s.med with sets := s.med.sets.map fun d =>
    if d.pool = ds.pool && d.num = ds.num then { d with gc := on } else d } }
  if !on then s
  else
    let best := (fullSbs s ds).foldl (fun (a : Option (Nat × Nat × Nat)) p =>
      let l := (liveOf s p.1).length
      let e := sbErases s p.2
      match a with
      | none => some (p.1, l, e)
      | some (_, l', e') => if l < l' || (l = l' && e < e') then some (p.1, l, e) else a) none
    match best with
    | none => s
    | some (n, 0, _) => releaseSb n s
    | some (n, _, _) => match sb? s n with
      | none => s
      | some b => copyTo .gc (liveOf s n) ds b.slc s

/-- The superblock at E_cold: the lowest erase count; among equals class 7 first (R167, R263). -/
def coldest (s : State) (ds : DieSet) : Option (Nat × Nat) :=
  ((fullSbs s ds).foldl (fun (a : Option (Nat × Nat × Bool)) p =>
    let e := sbErases s p.2
    let seven : Bool := p.2.cls = 7
    match a with
    | none => some (p.1, e, seven)
    | some (_, e', seven') => if e < e' || (e = e' && seven && !seven') then some (p.1, e, seven) else a) none).map
      fun a => (a.1, a.2.1)

/-- Static wear levelling on a die set (R263): the coldest FULL superblock moves to the most-worn free blocks when the spread
passes MED_WL.SPREAD. It stops in the preserve state (R267). -/
def wearSet (ds : DieSet) (s : State) : State :=
  let moves := (s.med.progs.filter fun p => p.2.kind = .wear).filterMap fun p => sb? s p.2.sb
  if s.med.preserve || s.med.wlMax ≤ moves.length || moves.any (sbOfSet s ds) then s
  else
    let eMax := ds.dies.foldl (fun a d => match die? s d with
      | some x => x.erasesDone.foldl (fun a e => if x.bad.contains e.1 then a else max a e.2) a
      | none => a) 0
    match coldest s ds with
    | none => s
    | some (n, e) => match sb? s n with
      | none => s
      | some b =>
        if s.med.wlSpread < eMax - e && !(liveOf s n).isEmpty then
          let t := copyTo .wear (liveOf s n) ds b.slc s
          if began s t then tally noInst 0x0102 13 1 t else t
        else s

/-- Live blocks at rest of a superblock, as a refresh of a page takes them: the page's four slots, and for a native page what
fills its stripe group (R245, R264). -/
def pageBlocks (s : State) (pl : Nat × Nat) (b : Superblock) : List (BlkKey × Stored) :=
  let live := (liveOf s pl.1).filter fun p => p.2.onFlash && p.2.native.isNone
  let page := live.filter fun p => p.2.place.any fun q => q.2 / 4 = pl.2 / 4
  if b.slc then page
  else
    let g := groupBlocks s.img.profile b.members.length false
    page ++ (live.filter fun p => !p.2.place.any fun q => q.2 / 4 = pl.2 / 4).take (g - page.length)

/-- Refresh a block's page: its live blocks are copied by the GC path (R249, R264). Where no superblock is free, it waits for
one. -/
def refreshPage (k : BlkKey) (s : State) : State :=
  match (stored? s k).bind (·.place) with
  | none => s
  | some pl => match sb? s pl.1, inst? s k.inst with
    | some b, some x => match setOf s x b.set with
      | none => s
      | some ds =>
        let busy := s.med.progs.any fun p => p.2.sources.contains pl.1
        let t := if busy then s else copyTo .refresh (pageBlocks s pl b) ds b.slc s
        if began s t then tally noInst 0x0102 18 1 t
        else if s.med.refreshQ.contains k then s
        else { s with med := { s.med with refreshQ := s.med.refreshQ ++ [k] } }
    | _, _ => s

/-- Pages that waited for a free superblock are tried again. -/
def refreshWaiting (s : State) : State :=
  let q := s.med.refreshQ
  q.foldl (fun s k => refreshPage k s) { s with med := { s.med with refreshQ := [] } }

/-! ### Losses -/

/-- Mica has placed a die in a pool or in the device spare set; a die in neither is idle and never used (R271). -/
def placedDie (s : State) (d : Nat) : Bool :=
  s.slt.spares.contains d || s.slt.pools.any fun p => p.2.dies.contains d

/-- A die of a list that Mica holds as spare on the channel of a lost die. -/
def spareDieOn (s : State) (lost : Nat) (l : List Nat) : Option Nat :=
  l.find? fun d => chanOf d = chanOf lost && !isLost s d && !(s.med.sets.any fun x => x.dies.contains d)

/-- What R258 finds in place of a lost die beside the other members: step 1 a spare die of the pool, then of the device, on
the channel (R272), step 2 another die of the channel with a SPARE block, step 3 a die with a SPARE block on a channel
that no other member uses. The flag says that the die gives SPARE blocks only. -/
def replacementDie (s : State) (lost pool : Nat) (members : List Nat) : Option (Nat × Bool) :=
  let own := ((amGet? s.slt.pools pool).map (·.dies)).getD []
  let chans := (members.filter (· != lost)).map chanOf
  let lends := fun (p : Nat × Die) => !isLost s p.1 && placedDie s p.1 && 0 < p.2.spare && p.1 != lost
  match spareDieOn s lost (own ++ s.slt.spares) with
  | some d => some (d, false)
  | none =>
    match s.med.dies.find? fun p => chanOf p.1 = chanOf lost && lends p with
    | some p => some (p.1, true)
    | none => (s.med.dies.find? fun p => lends p && !chans.contains (chanOf p.1)).map fun p => (p.1, true)

/-- Put the member of a lost die on its replacement; it is rebuilt in the background (R258). -/
def replaceMember (lost n : Nat) (s : State) : State × Bool :=
  match sb? s n with
  | none => (s, true)
  | some b =>
    let pool := match inst? s b.inst with
      | some x => x.pool
      | none => 0
    match replacementDie s lost pool (b.members.map Prod.fst) with
    | none => (s, false)
    | some (d, lent) => match die? s d with
      | none => (s, false)
      | some x =>
        let (blk, x) := if lent then takeSpare x else takeBlock x
        let x := if b.full then { x with opened := x.opened - 1, full := x.full + 1 } else x
        (modSb n (fun b => { b with
            members := b.members.map fun m => if m.1 = lost then (d, blk) else m
            rebuilding := b.rebuilding ++ [(lost, d)] }) (modDie d (fun _ => x) s), true)

/-- A die set that lost a member takes what R258 finds in its place, else it has a lost member. -/
def replaceInSet (s : State) (lost : Nat) (ds : DieSet) : DieSet :=
  if !ds.dies.contains lost then ds
  else match replacementDie s lost ds.pool ds.dies with
    | some (d, lent) =>
      { ds with dies := ds.dies.map fun m => if m = lost then d else m
                lent := (ds.lent.filter (· != lost)) ++ (if lent then [d] else [])
                rebuilds := ds.rebuilds ++ [lost] }
    | none => { ds with lostMember := true, rebuilds := ds.rebuilds ++ [lost] }

/-- Replacement of a whole die in the die sets (R272). -/
def replaceInSets (lost : Nat) (s : State) : State :=
  (List.range s.med.sets.length).foldl (fun s k =>
    { s with med := { s.med with sets := modNth s.med.sets k (replaceInSet s lost) } }) s

/-- A zone moves to READ_ONLY or OFFLINE by itself, with a DEGRADE record (R160). -/
def moveZone (i z : Nat) (st : ZState) (s : State) : State :=
  event kZone sevDegrade noSource i [z]
    (modInst i (fun x => putZone z { zoneOf x z with state := st, changed := s.quartz } x) s)

/-- Zones whose die set lost a member that nothing can replace move to READ_ONLY (Table ZN-4). -/
def zonesReadOnly (s : State) : State :=
  s.insts.foldl (fun s p => p.2.zones.foldl (fun s z =>
    let bad := match setOf s p.2 z.2.set with
      | some ds => ds.lostMember && !setHasFree s ds false
      | none => false
    if bad && (z.2.state = .implicitOpen || z.2.state = .explicitOpen || z.2.state = .closed)
    then moveZone p.1 z.1 .readOnly s else s) s) s

/-- Reads queued at a die that can no longer serve them begin again: at the die that holds the block, or by reconstruction
where the stripe allows, else they are lost (R249, R258). -/
def rerouteReads (d : Nat) (s : State) : State :=
  match die? s d with
  | none => s
  | some x =>
    x.reads.foldl (fun s r => match readPlace s r with
      | none => s
      | some pl => startBlock { r with recon := false } pl
          (dropReads r (if r.job.isSome then s else modTask r.inst r.slot (turn .fault s.quartz) s)))
      (modDie d (fun x => { x with reads := [] }) s)

/-- A die is lost (R255, R258): the class of Table AR-9 holds it until it is rebuilt; its superblocks take replacements;
its reads are reconstructed. Its programs no longer count, since parity covers the member. -/
def dropDie (d : Nat) (s : State) : State :=
  match die? s d with
  | none => s
  | some x =>
    if x.lost then s
    else
      let s := { s with nfc := modNth s.nfc (chanOf d) fun c => { c with dieLost := setBit c.dieLost (dieIn d) true } }
      let s := modDie d (fun x => { x with lost := true, op := .idle, nested := none, phase := .running
                                           waitProgs := [], eraseQ := [] }) s
      let s := unrestore (diePart d) s
      let (s, ok) := (s.med.sbs.filter fun p => p.2.members.any fun m => m.1 = d).foldl (fun (a : State × Bool) p =>
        let (s, k) := replaceMember d p.1 a.1
        (s, a.2 && k)) (s, true)
      let s := replaceInSets d s
      let ok := ok && !(s.med.sets.any fun ds => ds.lostMember && ds.dies.contains d)
      let s := { s with med := { s.med with
        progs := s.med.progs.map fun p => (p.1, { p.2 with left := p.2.left.filter (· != d), redo := p.2.redo.filter (· != d)
                                                           failed := p.2.failed.filter fun f => f.1 != d })
        rebuild := s.med.rebuild ++ [d], rebuildPct := 0
        beyondRepair := if ok then s.med.beyondRepair else s.med.beyondRepair ++ [d] } }
      checkPreserve (zonesReadOnly (rerouteReads d s))

/-- The loss of a die is a DEGRADE fault of its channel's source. -/
def loseDie (d : Nat) (s : State) : State :=
  if isLost s d then s
  else
    dropDie d (raise (diePart d) { (lineFault (0xC0 + chanOf d) 5 0x12 d) with payload := d } s)

/-- A NAND channel fails (R238): all of its dies are treated as failed, its enables held high. -/
def loseChannel (ch : Nat) (s : State) : State :=
  match s.nfc[ch]? with
  | none => s
  | some c =>
    if c.lost then s
    else
      let s := { s with nfc := modNth s.nfc ch fun c => { c with lost := true, rate := 0 } }
      let s := unrestore (0xC0 + ch) s
      (s.med.dies.filter fun p => chanOf p.1 = ch).foldl (fun s p => dropDie p.1 s)
        (event kMediaLink sevNotice (0xC0 + ch) noInst [] s)

end Sys2Proof.Machine
end

