-- ==== Sys2Proof/Machine/Pools.lean ====
section
/-! DEFINITION. Frames as they land (R15, R88, R398) and the egress buffers that an instance counts (R350, Table CM-7). -/

namespace Sys2Proof.Machine

open Sys2Proof

/-- Landing pool of the half of the port that a frame came on (R15). -/
def landingPool (u : Up) : Nat := (upEnv u).link.val / 8

/-- The landing buffers of frames that are handed on or dropped are let go. -/
def freeLanding (l : List (U32 × Up × Land)) (s : State) : State :=
  l.foldl (fun s p => freeBufs (landingPool p.2.1) (p.2.2.buf.toList.map fun b => (landingPool p.2.1, b)) s) s

/-- Where a command came from, for the commands that are frames (R90). -/
def frameEnv : Instr → Option Env
  | .dataFrame f => some f.env
  | .ackFrame f => some f.env
  | .probe f => some f.env
  | .resend f => some f.env
  | .regRead f => some f.env
  | .regWrite f => some f.env
  | .diagIdentify f => some f.env
  | .stestReport f => some f.env
  | .recordRead f => some f.env
  | .certRead f => some f.env
  | .measure f => some f.env
  | .releaseBinding f => some f.env
  | .echo f => some f.env
  | .linkStatus f => some f.env
  | .read f => some f.env
  | .write f => some f.env
  | .append f => some f.env
  | .zoneOpen f => some f.env
  | .zoneClose f => some f.env
  | .zoneFinish f => some f.env
  | .zoneReset f => some f.env
  | .zoneReport f => some f.env
  | .txnBegin f => some f.env
  | .txnCommit f => some f.env
  | .txnAbort f => some f.env
  | .abort f => some f.env
  | .flush f => some f.env
  | .identify f => some f.env
  | .counters f => some f.env
  | .mailboxSend f => some f.env
  | .mailboxRead f => some f.env
  | .keyLoad f => some f.env
  | .keyErase f => some f.env
  | .keyRotate f => some f.env
  | .badHeaderFrame e _ => some e
  | _ => none

/-- TYPE of a command that is a frame (Table TP-6): TASK for every command that no line below names. -/
def frameType : Instr → Nat
  | .dataFrame _ => 2
  | .ackFrame _ => 4
  | .probe _ => 4
  | .resend _ => 4
  | .regRead _ => 7
  | .regWrite _ => 7
  | .diagIdentify _ => 8
  | .stestReport _ => 8
  | .recordRead _ => 8
  | .certRead _ => 8
  | .measure _ => 8
  | .releaseBinding _ => 8
  | .echo _ => 8
  | .linkStatus _ => 8
  | .badHeaderFrame _ type => type.toNat
  | _ => 1

/-- A down frame that holds an egress buffer until it is acknowledged. -/
def isData (d : Down) : Bool := match d.body with
  | .data .. => true
  | _ => false

/-- Blocks of a HELD task that still hold the egress buffers reserved for them (Table CM-7). -/
def reservedEgress (t : Task) : Nat := openBlocks t + t.reply.length

/-- Egress buffers of an instance: reserved, and in frames not yet acknowledged. -/
def egressOwned (x : Inst) : Nat :=
  sumNat (x.slots.map fun p => match p.2 with
    | .held t => reservedEgress t
    | .done .. => 0) + ((x.unacked ++ x.backlog).filter isData).length

/-- Egress buffers of every instance. -/
def egressAll (s : State) : Nat := sumNat (s.insts.map fun p => egressOwned p.2)

/-- An instance's egress share, and the egress pools, can take `n` more buffers (Table CM-7, Table MM-11). -/
def egressFits (s : State) (x : Inst) (n : Nat) : Bool :=
  egressOwned x + n ≤ x.params.egressBufs && egressAll s + n ≤ 2097152

end Sys2Proof.Machine
end

