-- ==== Sys2Proof/Machine/Tally.lean ====
section
/-! DEFINITION. The tally unit: the counter catalogue (Table FE-12), snapshots (R387, Table FE-11), clearing (R386) and
link rates (R390). -/

namespace Sys2Proof.Machine

open Sys2Proof

/-- Instance groups 0x0001–0x0008. -/
def instGroup (g : Nat) : Bool := 1 ≤ g && g ≤ 8

/-- The group stands in Table FE-12. -/
def groupExists (g : Nat) : Bool := instGroup g || (0x100 ≤ g && g ≤ 0x109) || (0x1000 ≤ g && g ≤ 0x103F)

/-- The group's target: a created instance, or 0xFFFF for a device group. -/
def targetOk (s : State) (g target : Nat) : Bool :=
  if instGroup g then (inst? s target).isSome else target = noInst

/-- Event counters of a group: `n` fields from field `f`. -/
def evFields (s : State) (target g f n : Nat) : List Ctr := (List.range n).map fun k => tallyGet s target g (f + k)

/-- State values: their OVF bit is always 0 (R386). -/
def stFields (l : List Nat) : List Ctr := l.map fun v => { value := v % 2 ^ 48, ovf := false }

/-- The OVF bit of a count that runs without bound in the model: the counter has passed 2^48 − 1. -/
def ctrOf (n : Nat) : Ctr := { value := n % 2 ^ 48, ovf := decide (2 ^ 48 ≤ n) }

/-- A bucket's fields: L, RESERVED, CONSUMED, SPILLED, CREDITED, D₀ (R214). -/
def bucketFields (b : Bucket) : List Ctr :=
  [⟨b.level, false⟩, ⟨b.reserved, false⟩, ctrOf b.consumed, ctrOf b.spilled, ctrOf b.credited, ⟨b.d0 % 2 ^ 48, false⟩]

/-- Highest and lowest erase count of a die's blocks. -/
def eraseSpan (blocks : Nat) (d : Die) : Nat × Nat :=
  let m := d.erasesDone.map Prod.snd
  (m.foldl max 0, if d.erasesDone.length < blocks then 0 else m.foldl min (m.headD 0))

/-- A die as the counts of R253 see it: every block of a lost one is RETIRED (MED_BLKCNT). -/
def countedDie (s : State) (d : Die) : Die :=
  if d.lost then { d with free := 0, opened := 0, full := 0, retired := s.img.profile.blocks, spare := 0, erased := 0 } else d

/-- The fields of one die in groups 0x1000–0x103F. -/
def dieFields (s : State) (n : Nat) : List Nat := match die? s n with
  | none => [0, 0, 0, 0, 0, 0, 0, 0]
  | some d =>
    let e := eraseSpan s.img.profile.blocks d
    let d := countedDie s d
    [e.1, e.2, d.free, d.opened, d.full, d.retired, d.spare, d.erased]

/-- A sum over the dies. -/
def dieSum (s : State) (f : Die → Nat) : Nat := sumNat (s.med.dies.map fun p => f (countedDie s p.2))

/-- The fields of a group, in order (Table FE-12). -/
def groupFields (s : State) (g target : Nat) : List Ctr :=
  let ev := evFields s target g
  match g with
  | 0x0001 => ev 0 49
  | 0x0002 => ev 0 29
  | 0x0003 => ev 0 186
  | 0x0004 => ev 0 33
  | 0x0005 => match inst? s target with
    | none => []
    | some x => bucketFields (credited s x).bw ++ bucketFields (credited s x).ops ++ ev 12 1
  | 0x0006 => ev 0 9
  | 0x0007 => match inst? s target with
    | none => []
    | some x =>
      let txn := fun (st : TxnState) => (s.jrn.descs.filter fun p => p.2.inst = target && p.2.state = st).length
      stFields ([freeSlots x, heldSlots x, doneSlots x] ++
        [ZState.empty, .implicitOpen, .explicitOpen, .closed, .readOnly, .full, .offline].map (zonesIn x) ++
        [writtenBlocks x, wasteBlocks x, pendingBlocks x, remainingBlocks x, txn .opened, txn .devAborted, twinBlocks x,
         egressOwned x, x.mbox.length])
  | 0x0008 => ev 0 8
  | 0x0100 => ev 0 128
  | 0x0101 => ev 0 7
  | 0x0102 => stFields [dieSum s (·.free), dieSum s (·.opened), dieSum s (·.full), dieSum s (·.retired),
      dieSum s (·.spare), dieSum s (·.erased)] ++ ev 6 14
  | 0x0103 => ev 0 104
  | 0x0104 => ev 0 20
  | 0x0105 => (List.range 64).flatMap fun p =>
      stFields [((s.bpm.pools[p]?).map (·.size)).getD 0, poolFree s p, poolOwned s p, 0] ++ ev (6 * p + 4) 2
  | 0x0106 => ev 0 9
  | 0x0107 => stFields ((List.range 256).map fun k => amGetD s.cfl.erases k 0) ++ ev 256 2
  | 0x0108 => ev 0 34
  | 0x0109 => ev 0 11
  | g => if 0x1000 ≤ g && g ≤ 0x103F then
      stFields ((List.range 64).flatMap fun k => dieFields s (64 * (g - 0x1000) + k))
    else []

/-- The bytes of a snapshot: the header of Table FE-11, then the fields. Every field is copied at the request, since a
command is one update: SPREAD_NS is 0. -/
def snapshotBytes (s : State) (g target : Nat) : List Byte :=
  let f := groupFields s g target
  leBytes 2 g ++ leBytes 2 target ++ leBytes 2 1 ++ leBytes 2 f.length ++ leBytes 8 s.tal.snapSeq ++
    leBytes 8 s.quartz ++ leBytes 8 0 ++ leBytes 4 (64 + 8 * f.length) ++ List.replicate 28 0 ++
    f.flatMap fun c => leBytes 8 (c.value + flag c.ovf 63)

/-- Split bytes into blocks of 4096, at most `n`. -/
def blocksOf : Nat → List Byte → List Block
  | 0, _ => []
  | n + 1, bs => if bs.isEmpty then [] else blockOf (bs.take 4096) :: blocksOf n (bs.drop 4096)

/-- The counters of a group of a target are cleared with their OVF bits; state values stay (R386). A bucket counts as
reset: CONSUMED, SPILLED and CREDITED become 0 and D₀ the tokens it holds (log entry 19). -/
def clearBucket (b : Bucket) : Bucket :=
  { b with consumed := 0, spilled := 0, credited := 0, d0 := b.level + b.reserved }

/-- Clear the event counters of a group for its target (R386). -/
def clearGroup (g target : Nat) (s : State) : State :=
  let lo := tallyKey target g 0
  let s := { s with tal := { s.tal with ctrs := s.tal.ctrs.filter fun p => p.1 < lo || lo + 65536 ≤ p.1 } }
  if g = 5 then modInst target (fun x =>
    let x := credited s x
    { x with bw := clearBucket x.bw, ops := clearBucket x.ops }) s
  else s

/-- A write of TAL_CLR. -/
def talClear (v : Nat) (s : State) : State :=
  let g := bits v 0 16
  let t := bits v 16 16
  if groupExists g && targetOk s g t then clearGroup g t s else regRefused 0x00500004 v s

/-- Mb/s of a link from its 64-byte units in a window, rounded down (R390). -/
def linkRate (units windowMs : Nat) : Nat := if windowMs = 0 then 0 else units * 512 / (windowMs * 1000) % 2 ^ 20

/-- TAL registers by offset in the block. -/
def talRead (off : Nat) (s : State) : Option Nat :=
  if off = 0x00 then some s.tal.tenant
  else if off = 0x04 then some 0
  else if off = 0x10 then some s.tal.bwWin
  else if 0x40 ≤ off && off < 0x80 && off % 4 = 0 then some (nthNat s.tal.rx ((off - 0x40) / 4))
  else if 0x80 ≤ off && off < 0xC0 && off % 4 = 0 then some (nthNat s.tal.tx ((off - 0x80) / 4))
  else none

/-- Writes of TAL registers; none where the register takes no write. -/
def talWrite (off v : Nat) (s : State) : Option State :=
  if off = 0x00 then some { s with tal := { s.tal with tenant := bits v 0 8 } }
  else if off = 0x04 then some (talClear v s)
  else if off = 0x10 then
    let w := bits v 0 10
    some (if 1 ≤ w && w ≤ 1000 then { s with tal := { s.tal with bwWin := w } } else regRefused 0x00500010 v s)
  else none

/-- Rates of the links in a window that ends, and the units that count in the next one: of the units counted on link `n`,
those of a frame that lies across the boundary belong to the next window (R390; `cut`, log entry 135). -/
def windowRates (units cut : List Nat) (windowMs : Nat) : List Nat × List Nat :=
  ((List.range 16).map fun n => linkRate (nthNat units n - nthNat cut n) windowMs,
    (List.range 16).map fun n => min (nthNat units n) (nthNat cut n))

/-- BANDWIDTH_WINDOW_END: the rate of each link in the window that ends, from the units counted in it (R390). `rx`, `tx`: the
units of frames that lie across the boundary and count in the next window. -/
def execBandwidthWindowEnd (rx tx : List Nat) (s : State) : Host.Outcome State Fault Refusal :=
  let r := windowRates s.tal.rxUnits rx s.tal.bwWin
  let t := windowRates s.tal.txUnits tx s.tal.bwWin
  .next { s with tal := { s.tal with rx := r.1, tx := t.1, rxUnits := r.2, txUnits := t.2 } }

end Sys2Proof.Machine
end

