-- ==== Sys2Proof/Machine/Obs.lean ====
section
/-! DEFINITION. Obsidian: the record's bytes (Table FE-6), the record writer (R382), the recorders and their policies
(R383, R384) and the reads of R385. -/

namespace Sys2Proof.Machine

open Sys2Proof

/-- Bytes 0x00–0x7B of a record, as an instance recorder holds it or not. -/
def recordBody (r : Rec) (inInst : Bool) : List Byte :=
  leBytes 8 r.seq ++ leBytes 8 (if r.inst = noInst then 0 else r.iseq) ++ leBytes 8 r.time ++ leBytes 2 r.code ++
    leBytes 1 r.severity ++ leBytes 1 (flag r.simul 0 + flag r.first 1 + flag r.carried 2 + flag inInst 3) ++
    leBytes 2 r.source ++ leBytes 2 r.inst ++ leBytes 1 r.incarn ++ leBytes 1 r.derate ++ leBytes 6 0 ++
    leBytes 84 r.payload

/-- The 128 bytes of a record: its body and CHECK (R379). -/
def recordBytes (r : Rec) (inInst : Bool) : List Byte :=
  let b := recordBody r inInst
  b ++ leBytes 4 (crc32 b)

/-- Lowest severity held in a recorder. -/
def lowestSev (l : List Rec) : Nat := l.foldl (fun a r => min a r.severity) 5

/-- Remove the oldest record of a severity. -/
def dropOldest (sev : Nat) : List Rec → List Rec
  | [] => []
  | r :: l => if r.severity = sev then l else r :: dropOldest sev l

/-- Where a record went: put beside the others, in place of a victim, or dropped (R384). -/
inductive Put where
  | added | replaced | lost
deriving DecidableEq, Repr

/-- The overwrite policy (R384). -/
def putOverwrite (cap : Nat) (r : Rec) (l : List Rec) : List Rec × Put :=
  if l.length < cap then (l ++ [r], .added)
  else if lowestSev l ≤ r.severity then (dropOldest (lowestSev l) l ++ [r], .replaced)
  else (l, .lost)

/-- Count what R384 counts. -/
def countPut (p : Put) (s : State) : State := match p with
  | .added => s
  | .replaced => tallyRaw noInst 0x0108 32 1 { s with obs := { s.obs with overwr := satInc s.obs.overwr } }
  | .lost => tallyRaw noInst 0x0108 33 1 { s with obs := { s.obs with dropped := satInc s.obs.dropped } }

/-- Records that the start-up recorder holds: 192 in retention RAM before the landing SRAM has passed its test at step 4
or where it has failed; else 2048 (R383). -/
def startupCap (s : State) : Nat :=
  if (s.sys.boot = .start && s.sys.step ≤ 4) || s.fcl.unrestored.contains 0x16A then 192 else 2048

/-- Records of the device recorder. -/
def deviceCap (s : State) : Nat := 8192 * s.obs.sizeMib

/-- Write a record into the device recorder: the overwrite policy up to 16 MiB, the stop policy above (R384). -/
def putDevice (r : Rec) (s : State) : State :=
  if !s.obs.stop then
    let (l, p) := putOverwrite (deviceCap s) r s.obs.device
    countPut p { s with obs := { s.obs with device := l } }
  else if s.obs.full then countPut .lost s
  else if s.obs.device.length + 1 < deviceCap s then
    { s with obs := { s.obs with device := s.obs.device ++ [r] } }
  else
    { s with obs := { s.obs with
        device := s.obs.device ++ [{ r with code := kRecorderFull, severity := sevNotice, source := noSource
                                            inst := noInst, payload := 0 }]
        full := true } }

/-- Write a record into the recorder that takes every record: the start-up recorder, or the device recorder (R383). -/
def putMain (r : Rec) (s : State) : State :=
  if s.obs.useStartup then
    let (l, p) := putOverwrite (startupCap s) r s.obs.startup
    countPut p { s with obs := { s.obs with startup := l } }
  else putDevice r s

/-- Write a record into the recorder of a created instance that it names (R383). -/
def putInst (r : Rec) (s : State) : State :=
  if s.obs.instEn && (inst? s r.inst).isSome && r.inst != noInst && !s.obs.useStartup then
    let (l, p) := putOverwrite 256 r (amGetD s.obs.instRecs r.inst [])
    countPut p { s with obs := { s.obs with instRecs := amSet s.obs.instRecs r.inst l } }
  else s

/-- Write a record into every recorder that takes it (R383). With Obsidian faulted, records are kept only in retention RAM
(Table FE-2, source 0x16C). -/
def writeRecord (r : Rec) (s : State) : State :=
  if s.fcl.unrestored.contains 0x16C then s
  else tallyRaw noInst 0x0108 (r.severity - 1) 1 (tallyRaw noInst 0x0108 (3 + r.code) 1 (putInst r (putMain r s)))

/-- The LOST record takes the entry that frees, ahead of any waiting event (R382). -/
def lostRecord (s : State) : State :=
  if s.obs.lostCount = 0 then s
  else
    let r : Rec := { seq := s.obs.seq, iseq := 0, time := s.quartz, code := kLost, severity := sevNotice, simul := false,
                     first := false, carried := false, source := noSource, inst := noInst, incarn := s.sys.incarn,
                     derate := s.qtz.step
                     payload := s.obs.lostFirst + s.obs.lostCount * 2 ^ 64 + s.obs.lostLast * 2 ^ 128 }
    { s with obs := { s.obs with seq := s.obs.seq + 1, fifo := s.obs.fifo ++ [r], lostCount := 0, lostFirst := 0
                                 lostLast := 0 } }

/-- RECORD_WRITE: the writer takes the first FIFO entry, writes it whole into its recorders, then advances OBS_HEAD; a
LOST record takes the freed entry (R382). -/
def recordWrite (s : State) : State :=
  match s.obs.fifo with
  | [] => s
  | r :: rest =>
    let s := writeRecord r { s with obs := { s.obs with fifo := rest } }
    lostRecord { s with obs := { s.obs with published := max s.obs.published (r.seq + 1) } }

def execRecordWrite (s : State) : Host.Outcome State Fault Refusal := .next (recordWrite s)

/-- The record writer empties the FIFO: every entry, and the LOST record that the first freed entry takes (R382). -/
def drainFifo (s : State) : State := (List.range (s.obs.fifo.length + 1)).foldl (fun s _ => recordWrite s) s

/-- Put a record among others in ascending SEQ. -/
def insertRec (r : Rec) : List Rec → List Rec
  | [] => [r]
  | q :: l => if r.seq < q.seq then r :: q :: l else q :: insertRec r l

/-- At step 9 the start-up records and the severe records move into the device recorder in the order of their SEQ, one that lies in
both once, each with CARRIED (R383, log entry 130). -/
def carryRecords (s : State) : State :=
  let recs := (s.obs.startup ++ s.obs.severe.filter fun r => !s.obs.startup.any fun q => q.seq = r.seq)
  (recs.foldl (fun l r => insertRec r l) []).foldl (fun s r => putDevice { r with carried := true } s) { s with obs := { s.obs with useStartup := false } }

/-! ### Reads (R385) -/

/-- The records of a recorder: 0–1023 an instance, 0xFFFE start-up, 0xFFFD severe, else the device recorder. -/
def recorder (s : State) (n : Nat) : List Rec :=
  if n < 1024 then amGetD s.obs.instRecs n []
  else if n = 0xFFFE then s.obs.startup
  else if n = 0xFFFD then s.obs.severe
  else s.obs.device

/-- Number by which a recorder's records are asked for: ISEQ in an instance recorder, else SEQ. -/
def recNum (n : Nat) (r : Rec) : Nat := if n < 1024 then r.iseq else r.seq

/-- The record with the smallest number at or above the one asked for. -/
def findRecord (s : State) (n want : Nat) : Option Rec :=
  (recorder s n).foldl (fun a r =>
    if recNum n r < want then a
    else match a with
      | none => some r
      | some q => if recNum n r < recNum n q then some r else a) none

/-- Oldest SEQ held by the device recorder; the next SEQ where it holds none. -/
def oldestSeq (s : State) : Nat := match s.obs.device with
  | [] => s.obs.published
  | r :: l => l.foldl (fun a q => min a q.seq) r.seq

/-- A read of OBS_RDWIN0 latches a record. -/
def latchRecord (s : State) : State :=
  let f := findRecord s s.obs.rdInst s.obs.rdSeq
  { s with obs := { s.obs with latch := f, found := f.isSome
                               skipped := f.any fun r => s.obs.rdSeq < recNum s.obs.rdInst r } }

/-- Word `k` of the latched record; 0 where the latch holds none. -/
def latchWord (s : State) (k : Nat) : Nat := match s.obs.latch with
  | none => 0
  | some r => ofLeBytes (((recordBytes r (s.obs.rdInst < 1024)).drop (4 * k)).take 4)

/-- A read of OBS_RDWIN word `k`: word 0 latches first, word 31 advances OBS_RDSEQ past the record found. -/
def rdwinRead (k : Nat) (s : State) : Nat × State :=
  let s := if k = 0 then latchRecord s else s
  let v := latchWord s k
  (v, if k = 31 then match s.obs.latch with
      | some r => { s with obs := { s.obs with rdSeq := recNum s.obs.rdInst r + 1 } }
      | none => s
    else s)

/-- A read of the low word of OBS_HEAD latches its high word and both words of OBS_OLDEST. -/
def headRead (s : State) : Nat × State :=
  let h := s.obs.published
  let o := oldestSeq s
  let hi := amSet (amSet (amSet s.mgmt.hi 0x0040000C (BitVec.ofNat 32 (h / 2 ^ 32))) 0x00400010 (BitVec.ofNat 32 o))
    0x00400014 (BitVec.ofNat 32 (o / 2 ^ 32))
  (h % 2 ^ 32, { s with mgmt := { s.mgmt with hi := hi } })

/-- OBS registers by offset in the block, but for those whose read acts. -/
def obsRead (off : Nat) (s : State) : Option Nat :=
  if off = 0x00 then some (flag s.obs.stop 0 + flag s.obs.full 1 + min s.obs.fifo.length 64 * 4 + flag s.obs.instEn 9)
  else if off = 0x04 then some s.obs.sizeMib
  else if off = 0x18 then some s.obs.lost
  else if off = 0x1C then some s.obs.overwr
  else if off = 0x20 then some s.obs.dropped
  else if off = 0x24 then some s.obs.rdInst
  else if off = 0x28 then some (s.obs.rdSeq % 2 ^ 32)
  else if off = 0x2C then some (s.obs.rdSeq / 2 ^ 32)
  else if off = 0x30 then some (flag s.obs.found 0 + flag s.obs.skipped 1)
  else none

/-- Writes of OBS registers; none where the register takes no write. -/
def obsWrite (off v : Nat) (s : State) : Option State :=
  if off = 0x24 then some { s with obs := { s.obs with rdInst := bits v 0 16 } }
  else if off = 0x28 then some { s with obs := { s.obs with rdSeq := s.obs.rdSeq / 2 ^ 32 * 2 ^ 32 + v } }
  else if off = 0x2C then some { s with obs := { s.obs with rdSeq := s.obs.rdSeq % 2 ^ 32 + v * 2 ^ 32 } }
  else none

end Sys2Proof.Machine
end

