-- ==== Sys2Proof/Machine/CodeFlash.lean ====
section
/-! DEFINITION. The embedded code flash (R355–R369): sector states, operations with suspension and nesting, the commands
of CFL_CMD and of the firmware's port, the firmware image and its update. -/

namespace Sys2Proof.Machine

open Sys2Proof

/-! ### Sectors and granules -/

def cflHdr (s : State) (bank sector : Nat) : SectorHdr := amGetD s.cfl.hdrs (bank * 128 + sector) blankHdr

/-- State of a sector: 0 ERASED, 1 WRITTEN, 2 ERASE_OPEN, 3 PROTECTED (Table CF-2, CFL_SECT). -/
def sectorState (s : State) (bank sector : Nat) : Nat :=
  if sector = 127 then 3
  else
    let h := cflHdr s bank sector
    if h.openM = .blank && h.doneM = .set && h.usedM = .blank then 0
    else if h.openM = .blank && h.doneM = .set && h.usedM = .set then 1 else 2

def granKey (bank sector granule : Nat) : Nat := bank * 2 ^ 15 + sector * 2 ^ 8 + granule

/-- A granule at rest; unlisted granules read all ones. -/
def granAt (s : State) (bank sector granule : Nat) : BitVec 2048 :=
  amGetD s.cfl.mem (granKey bank sector granule) (BitVec.allOnes 2048)

def setGran (bank sector granule : Nat) (d : BitVec 2048) (s : State) : State :=
  { s with cfl := { s.cfl with mem := memSet (BitVec.allOnes 2048) s.cfl.mem (granKey bank sector granule) d } }

def setHdr (bank sector : Nat) (f : SectorHdr → SectorHdr) (s : State) : State :=
  { s with cfl := { s.cfl with hdrs := memSet blankHdr s.cfl.hdrs (bank * 128 + sector) (f (cflHdr s bank sector)) } }

/-- A bank as a flash unit (R222, R355). -/
def cflUnit (s : State) (bank : Nat) : CflUnit := if bank = 0 then s.cfl.unit0 else s.cfl.unit1

def modUnit (bank : Nat) (f : CflUnit → CflUnit) (s : State) : State :=
  if bank = 0 then { s with cfl := { s.cfl with unit0 := f s.cfl.unit0 } }
  else { s with cfl := { s.cfl with unit1 := f s.cfl.unit1 } }

def setOp (bank : Nat) (o : Option CflOp) (s : State) : State := modUnit bank (fun u => { u with op := o }) s

def setNested (bank : Nat) (o : Option CflOp) (s : State) : State := modUnit bank (fun u => { u with nested := o }) s

/-- The granule is the target of a program that has begun and not ended. -/
def midProgram (s : State) (bank sector granule : Nat) : Bool :=
  (cflUnit s bank).op.any fun o => o.kind = 1 && o.sector = sector && o.granule = granule

/-- A free granule (log entry 20). -/
def drawGran (s : State) : BitVec 2048 × State :=
  let (b, s) := drawBytes 256 s
  (BitVec.ofNat 2048 (ofLeBytes b), s)

/-- Data of the identity sector: the chain of R316, then all ones (log entry 7). -/
def identityGran (granule : Nat) : BitVec 2048 :=
  let b := (Config.identityChain.drop (256 * granule)).take 256
  BitVec.ofNat 2048 (ofLeBytes (b ++ List.replicate (256 - b.length) 0xFF#8))

/-- What a granule reads as. A sector whose erase stopped or is suspended, and a granule whose program is suspended, hold
unstated data (R358, R362): a free value. -/
def readGran (bank sector granule : Nat) (s : State) : BitVec 2048 × State :=
  if sector = 127 then (identityGran granule, s)
  else if (cflHdr s bank sector).openM != .blank || midProgram s bank sector granule then drawGran s
  else (granAt s bank sector granule, s)

/-! ### The firmware image (Table CF-5A) -/

/-- A field of the image header of a bank. -/
def fwField (s : State) (bank off size : Nat) : Nat := bits (granAt s bank 0 0).toNat (8 * off) (8 * size)

def fwVersion (s : State) (bank : Nat) : Nat := fwField s bank 0x08 4
def fwSvn (s : State) (bank : Nat) : Nat := fwField s bank 0x0C 1
def fwSeq (s : State) (bank : Nat) : Nat := fwField s bank 0x10 4
def fwLen (s : State) (bank : Nat) : Nat := fwField s bank 0x14 4

/-- The header passes the checks of Table CF-5A. -/
def fwHeaderOk (s : State) (bank : Nat) : Bool :=
  fwField s bank 0x00 4 = 0x465A5445 && fwField s bank 0x04 2 = 1 && fwField s bank 0x06 2 = 0 &&
    fwSvn s bank ≤ 64 && fwField s bank 0x0D 3 = 0 && 0x4000 ≤ fwLen s bank && fwLen s bank ≤ 8323072 &&
    fwField s bank 0x30 16 = 0

/-- A bank qualifies for the choice of R366. -/
def fwQualifies (s : State) (bank : Nat) : Bool :=
  sectorState s bank 0 = 1 && (cflHdr s bank 0).activateM = .set && fwHeaderOk s bank

/-- The active bank of R366. -/
def activeBank (s : State) : Option Nat :=
  match fwQualifies s 0, fwQualifies s 1 with
  | true, true => some (if fwSeq s 0 < fwSeq s 1 then 1 else 0)
  | true, false => some 0
  | false, true => some 1
  | false, false => none

/-- The first `n` bytes of a bank. -/
def bankBytes (s : State) (bank n : Nat) : List Byte :=
  ((List.range (ceilDiv n 256)).flatMap fun g => bytesOf 256 (granAt s bank (g / 256) (g % 256))).take n

/-- Measurement of R61: SHAKE256 with 512 bits of output over the image. -/
def fwMeasure (s : State) (bank : Nat) : BitVec 512 :=
  BitVec.ofNat 512 (ofLeBytes (shake256 (bankBytes s bank (min (fwLen s bank) 8388608)) 64))

/-- Execute-only regions of a bank's image: BANK, FIRST, COUNT (R367). -/
def fwXo (s : State) (bank : Nat) : List (Nat × Nat × Nat) :=
  (List.range 8).map fun k => (bank, fwField s bank (0x18 + 2 * k) 1, fwField s bank (0x19 + 2 * k) 1)

/-- A sector lies in an execute-only region in force. -/
def inXo (s : State) (bank sector : Nat) : Bool :=
  s.cfl.xoLock && s.cfl.xo.any fun r => r.1 = bank && r.2.1 ≤ sector && sector < r.2.1 + r.2.2

/-! ### Results and operations -/

/-- A manager operation ends: DONE, RESULT and DETAIL; a firmware operation ends at its own port (R368). -/
def cflEnd (mgr : Bool) (result detail : Nat) (s : State) : State :=
  if mgr then { s with cfl := { s.cfl with busy := false, done := true, result := result, detail := detail } }
  else { s with cfl := { s.cfl with fwResult := result } }

/-- A new operation. -/
def newCflOp (kind : Nat) (mgr : Bool) (bank sector granule : Nat) (data : BitVec 2048) (now : Nat) : CflOp :=
  { kind := kind, mgr := mgr, bank := bank, sector := sector, granule := granule, data := data, suspended := false,
    suspensions := 0, resumedAt := now, suspendedAt := 0, suspendedNs := 0 }

/-- R362 lets the operation be suspended now. -/
def cflSuspendOk (s : State) (o : CflOp) : Bool :=
  if o.kind = 1 then o.suspensions = 0 && 8000 ≤ s.quartz - o.resumedAt
  else if o.kind = 2 || o.kind = 3 then
    o.suspensions < 32 && (o.suspensions = 0 || 1000000 ≤ s.quartz - o.resumedAt) && o.suspendedNs < 100000000
  else false

/-- The operation is suspended. -/
def cflSuspend (o : CflOp) (s : State) : State :=
  tally noInst 0x0107 257 1 (setOp o.bank
    (some { o with suspended := true, suspensions := o.suspensions + 1, suspendedAt := s.quartz }) s)

/-- The operation of a bank resumes (R362). -/
def cflResumeOp (bank : Nat) (s : State) : State := match (cflUnit s bank).op with
  | some o =>
    if o.suspended then
      setOp bank (some { o with suspended := false, resumedAt := s.quartz
                                suspendedNs := o.suspendedNs + (s.quartz - o.suspendedAt) }) s
    else s
  | none => s

/-- A program reaches its granule: USED is set first in an ERASED sector (R359). -/
def beginProgram (o : CflOp) (s : State) : State :=
  if o.kind = 1 then setHdr o.bank o.sector (fun h => { h with usedM := .set }) s else s

/-- Step 1 of an erase: OPEN is set (R358). -/
def beginErase (bank sector : Nat) (s : State) : State := setHdr bank sector (fun h => { h with openM := .set }) s

/-- The next sector of an ERASE_BANK, skipping those already ERASED (R369). -/
def nextSector (s : State) (bank from' : Nat) : Option Nat :=
  (List.range 127).find? fun n => from' ≤ n && sectorState s bank n != 0

/-- A corrected read counts in CFL_CE, which wraps into CFL_STATE.CE_OVF (R356). -/
def cflCorrected (s : State) : State :=
  let wraps := s.cfl.ce = 0xFFFFFFFF
  let s := { s with cfl := { s.cfl with ce := (s.cfl.ce + 1) % 2 ^ 32, ceOvf := s.cfl.ceOvf || wraps } }
  if wraps then wrapEvent 0x00600014 s else s

/-- What a read of a granule delivers: an uncorrectable one delivers poison, whose bytes in CFL_BUF are not stated, a free value
(R356, log entry 131). -/
def eccGran (ecc : CflEcc) (bank sector granule : Nat) (s : State) : BitVec 2048 × State := match ecc with
  | .clean => readGran bank sector granule s
  | .corrected => readGran bank sector granule (cflCorrected s)
  | .uncorrectable => drawGran s

/-- Serve a READ now: into CFL_BUF for the manager. -/
def serveRead (mgr : Bool) (bank sector granule : Nat) (ecc : CflEcc) (s : State) : State :=
  if inXo s bank sector then
    cflEnd mgr 6 0 (notice kCodeFlash []
      (if mgr then { s with cfl := { s.cfl with buf := 0 } } else s))
  else
    let (d, s) := eccGran ecc bank sector granule s
    cflEnd mgr 0 0 (if mgr then { s with cfl := { s.cfl with buf := d } } else s)

/-- Reads that waited for a bank are served. -/
def serveWaiting (bank : Nat) (s : State) : State :=
  let go := s.cfl.reads.filter fun r => r.bank = bank
  go.foldl (fun s r => serveRead r.mgr r.bank r.sector r.granule r.ecc s)
    { s with cfl := { s.cfl with reads := s.cfl.reads.filter fun r => r.bank != bank } }

/-- A READ of a granule: at once where the bank is idle or its operation is or may be suspended, else it waits (R362,
R363). -/
def cflRead (mgr : Bool) (bank sector granule : Nat) (ecc : CflEcc) (s : State) : State :=
  let wait := { s with cfl := { s.cfl with
    busy := s.cfl.busy || mgr
    reads := s.cfl.reads ++ [{ mgr := mgr, bank := bank, sector := sector, granule := granule, ecc := ecc }] } }
  match (cflUnit s bank).op with
  | none => serveRead mgr bank sector granule ecc s
  | some o =>
    if (cflUnit s bank).nested.isSome then wait
    else if o.suspended then serveRead mgr bank sector granule ecc s
    else if cflSuspendOk s o then serveRead mgr bank sector granule ecc (cflSuspend o s)
    else wait

/-- BANK_SELF: the target is the bank that the issuer fetches from; code in retention RAM may not target the bank that
the other cores fetch from, the running one (R361). -/
def bankSelf (s : State) (fetch : Option Nat) (bank : Nat) : Bool :=
  match fetch with
  | some f => f = bank
  | none => s.cfl.running = bank

/-- Refusal of a program or erase, in the order of Table CF-5 (log entry 21); 0 where it may start. -/
def cflRefusal (s : State) (kind : Nat) (fetch : Option Nat) (bank sector granule : Nat) : Nat :=
  if bankSelf s fetch bank then 1
  else
    let nestable := match (cflUnit s bank).op with
      | some o => kind = 1 && (o.kind = 2 || o.kind = 3) && (cflUnit s bank).nested.isNone
      | none => true
    let inErase := (cflUnit s bank).op.any fun o => o.sector = sector
    if !nestable then 2
    else if sector = 127 && kind != 3 then 3
    else if inErase then 7
    else if kind = 1 && sectorState s bank sector = 2 then 4
    else if kind = 1 && granAt s bank sector granule != BitVec.allOnes 2048 then 5
    else 0

/-- PROGRAM: alone, or nested in a running erase, which it suspends within its budget (R359, R363). -/
def cflProgram (mgr : Bool) (fetch : Option Nat) (bank sector granule : Nat) (data : BitVec 2048) (s : State) : State :=
  let r := cflRefusal s 1 fetch bank sector granule
  if r != 0 then cflEnd mgr r 0 s
  else
    let s := { s with cfl := { s.cfl with busy := s.cfl.busy || mgr, verified := modNth s.cfl.verified bank fun _ => false } }
    let n := newCflOp 1 mgr bank sector granule data s.quartz
    match (cflUnit s bank).op with
    | none => beginProgram n (setOp bank (some n) s)
    | some o =>
      if o.suspended then beginProgram n (setNested bank (some n) s)
      else if cflSuspendOk s o then beginProgram n (setNested bank (some n) (cflSuspend o s))
      else setNested bank (some { n with suspended := true }) s

/-- ERASE of one sector (R358). -/
def cflErase (mgr : Bool) (fetch : Option Nat) (bank sector : Nat) (s : State) : State :=
  let r := cflRefusal s 2 fetch bank sector 0
  if r != 0 then cflEnd mgr r 0 s
  else
    beginErase bank sector (setOp bank (some (newCflOp 2 mgr bank sector 0 0 s.quartz)) { s with cfl := { s.cfl with
      busy := s.cfl.busy || mgr
      verified := modNth s.cfl.verified bank fun _ => false } })

/-- ERASE_BANK: sectors 0–126 in order, skipping those already ERASED (R369). -/
def cflEraseBank (mgr : Bool) (fetch : Option Nat) (bank : Nat) (s : State) : State :=
  let r := cflRefusal s 3 fetch bank 127 0
  if r != 0 then cflEnd mgr r 0 s
  else match nextSector s bank 0 with
    | none => cflEnd mgr 0 0 s
    | some n =>
      beginErase bank n (setOp bank (some (newCflOp 3 mgr bank n 0 0 s.quartz)) { s with cfl := { s.cfl with
        busy := s.cfl.busy || mgr
        verified := modNth s.cfl.verified bank fun _ => false } })

/-- VERIFY: the checks run until CFL_OPERATION_COMPLETE. -/
def cflVerify (mgr : Bool) (bank : Nat) (sigOk : Bool) (s : State) : State :=
  { s with cfl := { s.cfl with busy := s.cfl.busy || mgr, verifies := s.cfl.verifies ++ [{ mgr := mgr, bank := bank, sigOk := sigOk }] } }

/-- ACTIVATE: refused without a passing VERIFY since the bank's last program or erase. -/
def cflActivate (mgr : Bool) (fetch : Option Nat) (bank : Nat) (s : State) : State :=
  if bankSelf s fetch bank then cflEnd mgr 1 0 s
  else if (cflUnit s bank).op.isSome then cflEnd mgr 2 0 s
  else if !(s.cfl.verified.getD bank false) then cflEnd mgr 0xC 0 s
  else setOp bank (some (newCflOp 6 mgr bank 0 0 0 s.quartz)) { s with cfl := { s.cfl with busy := s.cfl.busy || mgr } }

/-- The result of VERIFY and its DETAIL (R369). -/
def verifyResult (s : State) (bank : Nat) (sigOk : Bool) : Nat × Nat :=
  if !fwHeaderOk s bank then (9, 1)
  else if fwSvn s bank < s.fuses.svnFloor then (0xB, 0)
  else if fwSeq s bank ≤ fwSeq s s.cfl.running then (0xD, 0)
  else if fwVersion s bank < s.img.minFw then (0xA, 0)
  else if !sigOk then (9, 5) else (0, 0)

/-- VERIFY ends: the measurement is written whether or not it passes. -/
def endVerify (v : CflVerify) (s : State) : State :=
  let r := verifyResult s v.bank v.sigOk
  cflEnd v.mgr r.1 r.2 { s with cfl := { s.cfl with
    verifies := s.cfl.verifies.erase v, meas := fwMeasure s v.bank
    verified := modNth s.cfl.verified v.bank fun _ => r.1 = 0 } }

/-- An operation passes its limit: a missed internal deadline, DEGRADE; the CFL abandons it and the target sector becomes
ERASE_OPEN (R356). -/
def cflLimit (o : CflOp) (s : State) : State :=
  let s := missInternal (raise (0x168 + o.bank)
    { (ruleFault kInternalMiss sevDegrade (0x168 + o.bank) noInst []) with access := 9 } s)
  cflEnd o.mgr 8 0 (setHdr o.bank o.sector (fun h => { h with openM := .set }) s)

/-- A program ends within its limit. -/
def endProgram (o : CflOp) (s : State) : State :=
  cflEnd o.mgr 0 0 (tally noInst 0x0107 256 1 (setGran o.bank o.sector o.granule o.data s))

/-- An erase of a sector ends: data and header read blank, then DONE is set (R358). -/
def eraseSector (bank sector : Nat) (s : State) : State :=
  let lo := granKey bank sector 0
  let k := bank * 128 + sector
  let s := { s with cfl := { s.cfl with
    mem := s.cfl.mem.filter fun p => p.1 < lo || lo + 256 ≤ p.1
    erases := amSet s.cfl.erases k (amGetD s.cfl.erases k 0 + 1) } }
  setHdr bank sector (fun _ => { blankHdr with doneM := .set }) s

/-- The operation in a bank ends; a nested program that waited begins, and reads that waited are served. -/
def afterOp (bank : Nat) (s : State) : State :=
  match (cflUnit s bank).nested with
  | some n =>
    let n := { n with suspended := false, resumedAt := s.quartz }
    beginProgram n (modUnit bank (fun _ => { op := some n, nested := none }) s)
  | none => serveWaiting bank (setOp bank none s)

/-- The next sector of an ERASE_BANK begins, or its last one has ended (R369). -/
def nextErase (o : CflOp) (s : State) : State :=
  match nextSector s o.bank (o.sector + 1) with
  | some n => beginErase o.bank n (setOp o.bank
      (some { o with sector := n, suspensions := 0, resumedAt := s.quartz, suspendedNs := 0 }) s)
  | none => afterOp o.bank (cflEnd o.mgr 0 0 s)

/-- ACTIVATE ends: the mark is set, and a warm start for firmware activation is requested, unless one is waiting (R76,
Table CF-6). -/
def endActivate (o : CflOp) (s : State) : State :=
  let s := setHdr o.bank 0 (fun h => { h with activateM := .set }) s
  cflEnd o.mgr 0 0 (if s.sys.warmDeferred.isSome then notice kReset [2] s
    else { s with sys := { s.sys with warmDeferred := some 3 } })

/-- A running operation of a bank ends, within its limit or past it. -/
def endOp (o : CflOp) (ok : Bool) (s : State) : State :=
  if !ok then afterOp o.bank (cflLimit o s)
  else if o.kind = 1 then afterOp o.bank (endProgram o s)
  else if o.kind = 2 then afterOp o.bank (cflEnd o.mgr 0 0 (eraseSector o.bank o.sector s))
  else if o.kind = 3 then nextErase o (eraseSector o.bank o.sector s)
  else afterOp o.bank (endActivate o s)

/-- A nested program ends: the reads that waited are served, else the erase resumes (R363). -/
def endNested (n : CflOp) (ok : Bool) (s : State) : State :=
  let s := setNested n.bank none (if ok then endProgram n s else cflLimit n s)
  if s.cfl.reads.any fun r => r.bank = n.bank then serveWaiting n.bank s else cflResumeOp n.bank s

/-- The oldest VERIFY of a bank ends. -/
def endVerifyOf (bank : Nat) (s : State) : State :=
  match s.cfl.verifies.find? fun v => v.bank = bank with
  | some v => endVerify v s
  | none => s

/-- CFL_OPERATION_COMPLETE: the nested program of the bank, else its operation that runs, else a VERIFY ends. -/
def cflComplete (bank : Nat) (ok : Bool) (s : State) : State :=
  match (cflUnit s bank).nested, (cflUnit s bank).op with
  | some n, some o => if n.suspended then endOp o ok s else endNested n ok s
  | _, some o => if o.suspended then endVerifyOf bank s else endOp o ok s
  | _, none => endVerifyOf bank s

/-- What power or a reset leaves of an operation that it stops: an open value in the granule of a program, a partial
ACTIVATE mark (R357, R366; log entry 20). -/
def dropOp (o : Option CflOp) (s : State) : State := match o with
  | some n => if n.kind = 1 && !n.suspended then
      let (d, s) := drawGran s
      setGran n.bank n.sector n.granule d s
    else if n.kind = 6 then setHdr n.bank 0 (fun h => { h with activateM := .partial' }) s else s
  | none => s

/-- PFAIL_N, RESET_N or a start: operations are abandoned; an erase leaves its sector ERASE_OPEN (R358), a program its
granule unstated (a free value, log entry 20). -/
def cflAbandon (s : State) : State :=
  let s := dropOp s.cfl.unit1.nested (dropOp s.cfl.unit1.op (dropOp s.cfl.unit0.nested (dropOp s.cfl.unit0.op s)))
  { s with cfl := { s.cfl with unit0 := coldUnit, unit1 := coldUnit, reads := [], verifies := [], busy := false } }

/-! ### CFL_CMD and the firmware port -/

/-- A bit the spec does not fix. -/
def drawBit (s : State) : Bool × State :=
  let (b, s) := drawBytes 1 s
  ((b.headD 0).getLsbD 0, s)

/-- A write of CFL_CMD with the operation's outcome: KEY and OP are checked, and the previous operation must have ended. -/
def cflCmd (v : Nat) (sigOk : Bool) (ecc : CflEcc) (s : State) : State :=
  let op := bits v 0 4
  if bits v 16 16 != 0xCF1A || op = 0 || 6 < op || s.cfl.busy then regRefused 0x0060000C v s
  else
    let s := { s with cfl := { s.cfl with done := false, result := 0, detail := 0 } }
    let run := some s.cfl.running
    let b := s.cfl.bank
    if op = 1 then cflProgram true run b s.cfl.sector s.cfl.granule s.cfl.buf s
    else if op = 2 then cflErase true run b s.cfl.sector s
    else if op = 3 then cflEraseBank true run b s
    else if op = 4 then cflRead true b s.cfl.sector s.cfl.granule ecc s
    else if op = 5 then cflVerify true b sigOk s
    else cflActivate true run b s

/-- The firmware's port: the same commands and results (R361). -/
def cflFirmware (op : Nat) (fetch : Option (Fin 2)) (bank sector granule : Nat) (data : BitVec 2048) (sigOk : Bool)
    (ecc : CflEcc) (s : State) : State :=
  let f := fetch.map (·.val)
  if op = 1 then cflProgram false f bank sector granule data s
  else if op = 2 then cflErase false f bank sector s
  else if op = 3 then cflEraseBank false f bank s
  else if op = 4 then cflRead false bank sector granule ecc s
  else if op = 5 then cflVerify false bank sigOk s
  else cflActivate false f bank s

/-- A command of either port. The manager's word gives its own operation. -/
def cflPort (op : Nat) (p : CflPort) (sigOk : Bool) (ecc : CflEcc) (s : State) : State := match p with
  | .manager v => cflCmd v.toNat sigOk ecc s
  | .firmware f b sec g d => cflFirmware op f b.val sec.val g.val d sigOk ecc s

/-! ### Registers -/

/-- CFL registers by offset in the block, but for CFL_CE, whose read clears. -/
def cflRegRead (off : Nat) (s : State) : Option Nat :=
  let us := [s.cfl.unit0, s.cfl.unit1]
  if off = 0x00 then
    some (s.cfl.running % 2 + flag s.cfl.fallback 1 + flag s.cfl.unit0.op.isSome 2 + flag s.cfl.unit1.op.isSome 3 +
      flag (us.any fun u => u.op.any fun o => o.suspended && o.kind != 1) 4 +
      flag (us.any fun u => u.nested.any fun n => !n.suspended) 5 +
      flag s.cfl.ceOvf 6 + s.fuses.svnFloor * 2 ^ 8)
  else if off = 0x04 then some s.cfl.adelay
  else if off = 0x08 then some (s.cfl.bank + s.cfl.sector * 2 + s.cfl.granule * 2 ^ 8)
  else if off = 0x0C then some 0
  else if off = 0x10 then some (flag s.cfl.busy 0 + flag s.cfl.done 1 + s.cfl.result * 4 + s.cfl.detail * 2 ^ 8)
  else if 0x20 ≤ off && off < 0x60 && off % 4 = 0 then
    let w := (off - 0x20) / 4
    some (sumNat ((List.range 16).map fun k => sectorState s (w / 8) (16 * (w % 8) + k) * 4 ^ k))
  else if 0x60 ≤ off && off < 0x80 && off % 4 = 0 then
    match s.cfl.xo[(off - 0x60) / 4]? with
    | some (b, f, c) => some (b + f % 128 * 2 + c % 128 * 2 ^ 8)
    | none => some 0
  else if off = 0x80 then some (flag s.cfl.xoLock 0)
  else if 0xC0 ≤ off && off < 0x100 && off % 4 = 0 then some (bits s.cfl.meas.toNat (32 * ((off - 0xC0) / 4)) 32)
  else if 0x100 ≤ off && off < 0x200 && off % 4 = 0 then some (bits s.cfl.buf.toNat (32 * ((off - 0x100) / 4)) 32)
  else none

/-- Replace word `k` of a string of words. -/
def setWord {w : Nat} (x : BitVec w) (k v : Nat) : BitVec w :=
  BitVec.ofNat w (x.toNat - bits x.toNat (32 * k) 32 * 2 ^ (32 * k) + v % 2 ^ 32 * 2 ^ (32 * k))

/-- What a READ by REG_WRITE finds: not fixed by the model (log entry 22). -/
def drawEcc (s : State) : CflEcc × State :=
  let (b, s) := drawBytes 1 s
  (if ofLeBytes b % 3 = 0 then .clean else if ofLeBytes b % 3 = 1 then .corrected else .uncorrectable, s)

/-- Writes of CFL registers; none where the register takes no write. A VERIFY by REG_WRITE meets the signature as it is
in the bank, and a READ the words as they are: free values (log entry 22). -/
def cflRegWrite (off v : Nat) (s : State) : Option State :=
  if off = 0x00 then some (if bit v 6 then { s with cfl := { s.cfl with ceOvf := false } } else s)
  else if off = 0x08 then
    some { s with cfl := { s.cfl with bank := bits v 0 1, sector := bits v 1 7, granule := bits v 8 8 } }
  else if off = 0x0C then
    let (b, s') := drawBit s
    let (e, s'') := drawEcc s
    some (if bits v 0 4 = 5 then cflCmd v b .clean s' else if bits v 0 4 = 4 then cflCmd v false e s''
      else cflCmd v false .clean s)
  else if 0x100 ≤ off && off < 0x200 && off % 4 = 0 then
    some { s with cfl := { s.cfl with buf := setWord s.cfl.buf ((off - 0x100) / 4) v } }
  else none

/-- CFL_PROGRAM (R359, R361, R363). -/
def execCflProgram (p : CflPort) (s : State) : Host.Outcome State Fault Refusal := .next (cflPort 1 p false .clean s)

/-- CFL_ERASE (R358). -/
def execCflErase (p : CflPort) (s : State) : Host.Outcome State Fault Refusal := .next (cflPort 2 p false .clean s)

/-- ERASE_BANK (R369). -/
def execEraseBank (p : CflPort) (s : State) : Host.Outcome State Fault Refusal := .next (cflPort 3 p false .clean s)

/-- CFL_READ, with what it finds in the words (R356, R362, R367). -/
def execCflRead (p : CflReadOp) (s : State) : Host.Outcome State Fault Refusal := .next (cflPort 4 p.port false p.ecc s)

/-- VERIFY, with whether the image's signature verifies (R369). -/
def execVerify (p : CflPort) (sigOk : Bool) (s : State) : Host.Outcome State Fault Refusal := .next (cflPort 5 p sigOk .clean s)

/-- ACTIVATE (R364, R369). -/
def execActivate (p : CflPort) (s : State) : Host.Outcome State Fault Refusal := .next (cflPort 6 p false .clean s)

/-- CFL_OPERATION_COMPLETE of a bank: within its limit or past it (R356). -/
def execCflOperationComplete (bank : Fin 2) (withinLimit : Bool) (s : State) : Host.Outcome State Fault Refusal :=
  .next (cflComplete bank.val withinLimit s)

/-- CFL_RESUME: no read of the bank has waited for 1 µs; its suspended operation resumes (R362). -/
def execCflResume (bank : Fin 2) (s : State) : Host.Outcome State Fault Refusal :=
  .next (if (cflUnit s bank.val).nested.isNone then cflResumeOp bank.val s else s)

end Sys2Proof.Machine
end

