-- ==== Sys2Proof/Machine/Dram.lean ====
section
/-! DEFINITION. The DRAM controller: set points and training (R325–R327), refresh (R329, R330), inline ECC, poison and
channel loss (R334–R339), the test mode (R340) and the DMC registers. -/

namespace Sys2Proof.Machine

open Sys2Proof

def modCh (n : Nat) (f : DmcCh → DmcCh) (s : State) : State :=
  { s with dmc := { s.dmc with chs := modNth s.dmc.chs n f } }

def dmcCh (s : State) (n : Nat) : DmcCh := s.dmc.chs.getD n coldDmcCh

/-- A corrected word counts in DMC_CE, which wraps into DMC_OVF bit n (R334). -/
def countCe (n : Nat) (s : State) : State :=
  let wraps := (dmcCh s n).ce = 0xFFFFFFFF
  let s := modCh n (fun c => { c with ce := (c.ce + 1) % 2 ^ 32 }) s
  let s := if wraps then wrapEvent (0x00700004 + 0x100 * n) { s with dmc := { s.dmc with ovf := setBit s.dmc.ovf n true } }
    else s
  tally noInst 0x0103 (4 * n) 1 s

/-- An uncorrectable word counts in DMC_UE, which wraps into DMC_OVF bit 24 + n, and in DMC_POISON (R335). -/
def countUe (n : Nat) (s : State) : State :=
  let wraps := (dmcCh s n).ue = 0xFFFFFFFF
  let s := modCh n (fun c => { c with ue := (c.ue + 1) % 2 ^ 32 }) s
  let s := if wraps then
      wrapEvent (0x00700008 + 0x100 * n) { s with dmc := { s.dmc with ovf := setBit s.dmc.ovf (24 + n) true } }
    else s
  tally noInst 0x0103 (4 * n + 2) 1 (tally noInst 0x0103 (4 * n + 1) 1
    { s with dmc := { s.dmc with poison := satInc s.dmc.poison } })

/-- Both copies of some bytes of a region in two copies are unreadable (R335, R339). -/
def deadBoth (s : State) (addr len : Nat) : Bool := dramBad s 0 addr len && dramBad s 1 addr len

/-- A twin entry whose copies both fail. -/
def twinDead (s : State) (t : Nat × Nat) : Bool := (twinHalf s 0 t).isNone

/-- The data of a block in the twin buffer alone are harmed with both its copies. -/
def hurtTwin (h : Harm) (s : State) (st : Stored) : Stored :=
  if st.harm = .whole && !st.onFlash && st.twin.any (twinDead s) then { st with harm := h } else st

/-- A conventional block is harmed with its page-map entry of 8 bytes too. -/
def hurtConv (h : Harm) (s : State) (i blk : Nat) (st : Stored) : Stored :=
  if st.harm = .whole && deadBoth s (convLine i blk + 8 * (blk % 16)) 8 then { st with harm := h } else hurtTwin h s st

/-- What an instance holds in the two copies of the DRAM. -/
def hurtInst (h : Harm) (s : State) (i : Nat) (x : Inst) : Inst :=
  { x with
    zones := x.zones.map fun z => (z.1, { z.2 with blocks := z.2.blocks.map fun b => (b.1, hurtTwin h s b.2) })
    conv := x.conv.map fun b => (b.1, hurtConv h s i b.1 b.2)
    mbox := x.mbox.map fun m =>
      if m.harm = .whole && deadBoth s (Config.msgAddr i m.num) 4096 then { m with harm := h } else m }

/-- A block of a READ is on its way from a twin entry or an egress buffer whose data have failed. -/
def blockStruck (s : State) (b : ReadBlock) : Bool := match b.stage with
  | .lane => b.ref && b.twin.any (twinDead s)
  | _ => false

/-- Blocks of HELD tasks that are struck: instance, slot and block. -/
def struckBlocks (s : State) (p : ReadBlock → Bool) : List (Nat × Nat × Nat) :=
  s.insts.flatMap fun x => x.2.slots.flatMap fun q => match q.2 with
    | .held t => if t.op = 0x01 then ((List.range t.blocks.length).filter fun b => (t.blocks[b]?).any p).map fun b => (x.1, q.1, b)
        else []
    | .done .. => []

/-- Struck blocks fail: lost, or with POISONED (R29, R336). -/
def failBlocks (h : Harm) (l : List (Nat × Nat × Nat)) (s : State) : State :=
  l.foldl (fun s b =>
    if h = .lost then blockFailed b.1 b.2.1 b.2.2 0 (tally b.1 0x0006 5 1 s)
    else blockFailed b.1 b.2.1 b.2.2 1 (tally b.1 0x0006 6 1 s)) s

/-- Everything both of whose copies are unreadable now is harmed: poisoned words make it poison (R175, R335, R336), a second lost
channel makes it lost (R29). The zones of such map entries go OFFLINE where the device settles (R160). -/
def judgeCopies (h : Harm) (s : State) : State :=
  let staging := s.jrn.staging.map fun r => if deadBoth s (Config.jrecAddr r.jseq) 64 then { r with bad := true } else r
  failBlocks h (struckBlocks s (blockStruck s))
    { s with insts := s.insts.map fun p => (p.1, hurtInst h s p.1 p.2), jrn := { s.jrn with staging := staging } }

/-- A channel is lost (R339): its WT2 regions are served from their other copies and rebuilt; records in its single-copy
regions are reported with a LOST record, whose numbers the spec does not fix (free values, log entry 25). With the channel of the same rotation in the other half not
rebuilt yet, what lies on both is lost (R29). -/
def dropDram (n : Nat) (s : State) : State :=
  if (dmcCh s n).state = 5 || (dmcCh s n).state = 4 then s
  else
    let s := unrestore (0x100 + n) (modCh n (fun c => { c with state := 5 }) s)
    let s := { s with dmc := { s.dmc with rebuilding := s.dmc.rebuilding ++ [n], imageLost := true } }
    let s := if s.dmc.rebuilding.contains ((n + 12) % 24) then judgeCopies .lost s else s
    let (b, s) := drawBytes 20 s
    eventAt s.quartz kLost sevNotice noSource noInst false false
      (ofLeBytes (b.take 8) + ofLeBytes ((b.drop 8).take 4) * 2 ^ 64 + ofLeBytes (b.drop 12) * 2 ^ 128) s

/-- The loss of a channel is a DEGRADE fault of its line. -/
def loseDram (n : Nat) (access master addr : Nat) (s : State) : State :=
  dropDram n (raise (0x100 + n) (lineFault (0x100 + n) access master addr) s)

/-- Uncorrectable words in 4 distinct groups within 100 µs lose the channel (R339). -/
def recentUe (n addr : Nat) (s : State) : State :=
  let keep := ((dmcCh s n).recentUe.filter fun p => s.quartz ≤ p.1 + 100000) ++ [(s.quartz, addr / 512)]
  let s := modCh n (fun c => { c with recentUe := keep }) s
  if 4 ≤ (keep.map Prod.snd).eraseDups.length then loseDram n 6 0x16 addr s else s

/-- Row of Table MM-3 that a usable address of a half lies in: the regions stand in the table's order, a region of one copy half
in each half (log entry 23). -/
def dramRegion (addr : Nat) : Nat :=
  let m := addr / 2 ^ 20
  if m < 2084 then 1 else if m < 10276 then 2 else if m < 11300 then 3 else if m < 13348 then 4 else if m < 14372 then 5
  else if m < 18468 then 6 else if m < 40960 then 7 else 8

/-- A region held in two copies (Table MM-3). -/
def inCopies (region : Nat) : Bool := region ≤ 4 || region = 8

/-- The test window: the top 2 MiB of the rebuild reserve, which ends at 40 GiB of each half's usable space where the
fixed regions of Table MM-3 are placed in the table's order (log entry 23). -/
def inWindow (addr : Nat) : Bool := 40 * 2 ^ 30 - 2 * 2 ^ 20 ≤ addr && addr < 40 * 2 ^ 30 && addr % 64 = 0

/-- The POISON bit of a word is set; that of the test window stands in its check block. -/
def poisonWord (half addr : Nat) (s : State) : State :=
  { s with dmc := { s.dmc with bad := s.dmc.bad ++ [(half, addr / 64)] } }

/-- Buffers of the single-copy pools that a word of a half lies in (Table MM-11). -/
def bufsAt (s : State) (half addr : Nat) : List (Nat × Nat) :=
  [6 + half, 8 + half, 10 + half].flatMap fun p => ((poolAt s p).used.filter fun b =>
    decide (bufAddr p b.1 / 64 ≤ addr / 64) && decide (addr / 64 ≤ (bufAddr p b.1 + 4159) / 64)).map fun b => (p, b.1)

/-- Poison of a single-copy region travels with the data: a buffer's flag is set, and a block of a READ that waits in it is
POISONED (R336, R351). -/
def poisonSingle (half addr : Nat) (s : State) : State :=
  let l := bufsAt s half addr
  failBlocks .poison (struckBlocks s fun b => openBlock b && b.out.any l.contains)
    (l.foldl (fun s b => poisonBuf b.1 b.2 s) s)

/-- An uncorrectable read poisons the word in place. In a region of two copies the same word of the other copy repairs it, where
that one is clean or corrected (`otherOk`), is not poisoned and lies on no lost channel; a corrected one counts (`corr`, R334);
where it is uncorrectable too, both stay poisoned (R335). A steward core, on port 5, that consumes the poison raises a CONTAIN
fault for the work in hand (R336). -/
def uncorrectable (half addr port : Nat) (otherOk corr : Bool) (s : State) : State :=
  let n := groupChannel half (groupOf addr)
  let region := dramRegion addr
  let gone := dramBad s (1 - half) (addr / 64 * 64) 64
  let s := countUe n s
  let s :=
    if inCopies region && otherOk && !gone then
      let s := if corr then countCe (groupChannel (1 - half) (groupOf addr)) s else s
      event kMemory sevNotice (0x100 + n) noInst []
        { s with dmc := { s.dmc with bad := s.dmc.bad.filter (· != (half, addr / 64)) } }
    else
      let s := event kMemory sevDegrade (0x100 + n) noInst [n, addr, region] s
      let s := if port = 5 then raise (0x100 + n) (ruleFault kMemory sevContain (0x100 + n) noInst [n, addr, region]) s else s
      if inCopies region then
        let s := if gone then s else poisonWord (1 - half) addr (countUe (groupChannel (1 - half) (groupOf addr)) s)
        judgeCopies .poison (poisonWord half addr s)
      else if inWindow addr then s else poisonSingle half addr (poisonWord half addr s)
  recentUe n addr s

/-! ### Test mode (R340) -/

/-- The check block that a start writes: the check bytes of seven words of zeros, POISON 0 (R337). -/
def startCheck : BitVec 512 :=
  BitVec.ofNat 512 (sumNat ((List.range 7).map fun k => (Config.rsCheck 0).toNat * 2 ^ (64 * k)))

def winWord (s : State) (half addr : Nat) : BitVec 512 := amGetD s.dmc.window (half * 2 ^ 40 + addr) 0
def winCheck (s : State) (half group : Nat) : BitVec 512 := amGetD s.dmc.checks (half * 2 ^ 40 + group) startCheck

def setWinWord (half addr : Nat) (d : BitVec 512) (s : State) : State :=
  { s with dmc := { s.dmc with window := memSet 0 s.dmc.window (half * 2 ^ 40 + addr) d } }

def setWinCheck (half group : Nat) (d : BitVec 512) (s : State) : State :=
  { s with dmc := { s.dmc with checks := amSet s.dmc.checks (half * 2 ^ 40 + group) d } }

/-- Check bytes of word `k` in a check block (Table MM-2). -/
def checkBytes (c : BitVec 512) (k : Nat) : BitVec 64 := BitVec.ofNat 64 (bits c.toNat (64 * k) 64)

/-- POISON of word `k`, by bitwise majority of its three bytes (Table MM-2). -/
def poisonBit (c : BitVec 512) (k : Nat) : Bool :=
  let b := fun o => bit c.toNat (8 * o + k)
  (b 56 && b 57) || (b 56 && b 58) || (b 57 && b 58)

/-- Outcome of a raw read: 0 clean, 1 corrected, 2 uncorrectable, 3 poisoned (DMC_TCMD). -/
def rawOutcome (d c : BitVec 512) (k : Nat) : Nat :=
  if poisonBit c k then 3
  else if checkBytes c k = Config.rsCheck d then 0
  else if Config.rsCorrectable d (checkBytes c k) then 1 else 2

/-- Set the POISON bit of word `k` in its three bytes. -/
def setPoison (c : BitVec 512) (k : Nat) : BitVec 512 :=
  BitVec.ofNat 512 (setBit (setBit (setBit c.toNat (448 + k) true) (456 + k) true) (464 + k) true)

/-- A check block with the check bytes of word `k` replaced. -/
def putCheck (c : BitVec 512) (k : Nat) (v : BitVec 64) : BitVec 512 :=
  BitVec.ofNat 512 (c.toNat - bits c.toNat (64 * k) 64 * 2 ^ (64 * k) + v.toNat * 2 ^ (64 * k))

/-- CMD 3: the word and its check block are read raw; the scrubber covers the word with it, so a corrected word is written
back and an uncorrectable one is poisoned in place (R334, R335, R340). -/
def rawRead (half addr : Nat) (s : State) : State :=
  let d := winWord s half addr
  let g := groupOf addr
  let c := winCheck s half g
  let k := wordOf addr
  let o := rawOutcome d c k
  let ch := groupChannel half g
  let s := { s with dmc := { s.dmc with tdata := d, tchk := c, outcome := o } }
  if o = 1 then
    let d' := Config.rsCorrect d (checkBytes c k)
    countCe ch (setWinCheck half g (putCheck c k (Config.rsCheck d')) (setWinWord half addr d' s))
  else if o = 2 then uncorrectable half addr 7 false false (setWinCheck half g (setPoison c k) s)
  else s

/-- A write of DMC_TCMD: refused outside test mode and for an address outside the window (R340). -/
def dmcTcmd (v : Nat) (s : State) : State :=
  let cmd := bits v 0 2
  if cmd = 0 then s
  else if !s.dmc.testen || !inWindow s.dmc.taddr then regRefused 0x00702100 v s
  else if cmd = 1 then setWinWord s.dmc.thalf s.dmc.taddr s.dmc.tdata s
  else if cmd = 2 then setWinCheck s.dmc.thalf (groupOf s.dmc.taddr) s.dmc.tchk s
  else rawRead s.dmc.thalf s.dmc.taddr s

/-! ### Set points, shares -/

/-- Channels in service change to a set point with the values kept for it (R327). -/
def setPoint (sp : Nat) (s : State) : State :=
  { s with dmc := { s.dmc with chs := s.dmc.chs.map fun c => if c.state = 1 then { c with sp := sp } else c } }

/-- A write of DMC_SPREQ: honoured only in test mode. -/
def dmcSpreq (v : Nat) (s : State) : State :=
  if s.dmc.testen then setPoint (bits v 0 1) { s with dmc := { s.dmc with spreq := bits v 0 1 } }
  else regRefused 0x00702008 v s

/-- A write of DMC_BWREG of a port (R333). -/
def dmcBwreg (p v : Nat) (s : State) : State :=
  let sh := bits v 0 9
  let l := setNth s.dmc.shares p sh
  if sh = 0 || 256 < sumNat l then regRefused (0x00702020 + 4 * p) v s
  else { s with dmc := { s.dmc with shares := l, caps := setNth s.dmc.caps p (bit v 9) } }

/-! ### Registers -/

/-- DMC registers by offset in the block, but for DMC_CE and DMC_UE, whose reads clear. -/
def dmcRead (off : Nat) (s : State) : Option Nat :=
  if off < 0x1800 then
    if off % 0x100 = 0 then
      let c := dmcCh s (off / 0x100)
      some (c.state + c.sp * 8 + c.debt * 32 + c.failStep * 2 ^ 16)
    else none
  else if off = 0x2008 then some s.dmc.spreq
  else if off = 0x200C then some s.dmc.drift
  else if 0x2020 ≤ off && off < 0x2040 && off % 4 = 0 then
    let p := (off - 0x2020) / 4
    some (nthNat s.dmc.shares p + flag (s.dmc.caps.getD p false) 9)
  else if off = 0x2040 then some s.dmc.scrub
  else if off = 0x2044 then some s.dmc.poison
  else if off = 0x2048 then some (flag s.dmc.testen 0)
  else if 0x2080 ≤ off && off < 0x20C0 && off % 4 = 0 then some (bits s.dmc.tdata.toNat (32 * ((off - 0x2080) / 4)) 32)
  else if 0x20C0 ≤ off && off < 0x2100 && off % 4 = 0 then some (bits s.dmc.tchk.toNat (32 * ((off - 0x20C0) / 4)) 32)
  else if off = 0x2100 then some (s.dmc.outcome * 4)
  else none

/-- Writes of DMC registers; none where the register takes no write. -/
def dmcWrite (off v : Nat) (s : State) : Option State :=
  let bad := some (regRefused (0x00700000 + off) v s)
  if off = 0x2000 then some { s with dmc := { s.dmc with ovf := s.dmc.ovf - (s.dmc.ovf &&& v) } }
  else if off = 0x2004 then some { s with dmc := { s.dmc with ovf := s.dmc.ovf - (s.dmc.ovf &&& v * 2 ^ 32) } }
  else if off = 0x2008 then some (dmcSpreq v s)
  else if off = 0x200C then
    let d := bits v 0 16
    if 8 ≤ d && d ≤ 4096 then some { s with dmc := { s.dmc with drift := d } } else bad
  else if 0x2020 ≤ off && off < 0x2040 && off % 4 = 0 then some (dmcBwreg ((off - 0x2020) / 4) v s)
  else if off = 0x2040 then
    let d := bits v 0 10
    if 1 ≤ d && d ≤ 720 then some { s with dmc := { s.dmc with scrub := d } } else bad
  else if off = 0x2048 then
    if bits v 16 16 = 0x7E5D then some { s with dmc := { s.dmc with testen := bit v 0 } } else bad
  else if off = 0x2050 then
    some { s with dmc := { s.dmc with taddr := s.dmc.taddr / 2 ^ 32 * 2 ^ 32 + v } }
  else if off = 0x2054 then
    some { s with dmc := { s.dmc with taddr := s.dmc.taddr % 2 ^ 32 + bits v 0 8 * 2 ^ 32, thalf := bits v 8 1 } }
  else if 0x2080 ≤ off && off < 0x20C0 && off % 4 = 0 then
    some { s with dmc := { s.dmc with tdata := setWord s.dmc.tdata ((off - 0x2080) / 4) v } }
  else if 0x20C0 ≤ off && off < 0x2100 && off % 4 = 0 then
    some { s with dmc := { s.dmc with tchk := setWord s.dmc.tchk ((off - 0x20C0) / 4) v } }
  else if off = 0x2100 then some (dmcTcmd v s)
  else none

/-! ### Commands -/

/-- Refreshes of a channel may be postponed: before acceptance opens, in test mode and while copies are rebuilt (R330). -/
def mayPostpone (s : State) : Bool := !s.sys.open' || s.dmc.testen || !s.dmc.rebuilding.isEmpty

/-- DRAM_REFRESH: issued at its instant, with any refreshes that were postponed; postponed up to 8 where R330 allows; else
a missed internal deadline, DEGRADE. -/
def execDramRefresh (ch : Fin 24) (onTime : Bool) (s : State) : Host.Outcome State Fault Refusal :=
  .next (
    if onTime then modCh ch.val (fun c => { c with debt := 0 }) s
    else if mayPostpone s && (dmcCh s ch.val).debt < 8 then
      tally noInst 0x0103 (4 * ch.val + 3) 1 (modCh ch.val (fun c => { c with debt := c.debt + 1 }) s)
    else missInternal (raise (0x100 + ch.val)
      { (ruleFault kInternalMiss sevDegrade (0x100 + ch.val) noInst []) with access := 9 } s))

/-- MR4_READ: the dies' refresh-rate field sets the refresh rate (R329). -/
def execMr4Read (ch : Fin 24) (rate : BitVec 2) (s : State) : Host.Outcome State Fault Refusal :=
  .next (modCh ch.val (fun c => { c with refreshRate := rate.toNat }) s)

/-- DRAM_SCRUB: a group is read; a corrected word is written back and counted (R338). -/
def execDramScrub (ch : Fin 24) (addr : U64) (corrected : Bool) (s : State) : Host.Outcome State Fault Refusal :=
  .next (if corrected && !(s.dmc.testen && inWindow addr.toNat) then countCe ch.val s else s)

/-- POISON bits once a lost channel's groups of the regions in two copies have been copied: those of the other half's words are
copied with them (R336, R339). -/
def copiedBad (ch : Nat) (l : List (Nat × Nat)) : List (Nat × Nat) :=
  let mine := fun (w : Nat × Nat) => decide (w.2 / 7 % 12 = ch % 12) && inCopies (dramRegion (64 * w.2))
  let kept := l.filter fun w => !(w.1 = ch / 12 && mine w)
  kept ++ (kept.filter fun w => w.1 != ch / 12 && mine w).map fun w => (ch / 12, w.2)

/-- COPY_REBUILD_COMPLETE: the lost channel's copies are whole again; redundancy is restored (R29, R339). -/
def execCopyRebuildComplete (ch : Fin 24) (s : State) : Host.Outcome State Fault Refusal :=
  .next (
    if s.dmc.rebuilding.contains ch.val then
      restored (0x100 + ch.val) (0x100 + ch.val)
        { s with dmc := { s.dmc with rebuilding := s.dmc.rebuilding.filter (· != ch.val), bad := copiedBad ch.val s.dmc.bad } }
    else s)

/-- SET_POINT_CHANGE: a write of DMC_SPREQ (R327). -/
def execSetPointChange (v : U32) (s : State) : Host.Outcome State Fault Refusal := .next (dmcSpreq v.toNat s)

/-- WRITE_DATA_ONLY: DMC_TCMD command 1 (R340). -/
def execWriteDataOnly (v : U32) (s : State) : Host.Outcome State Fault Refusal := .next (dmcTcmd v.toNat s)

/-- WRITE_CHECK_BLOCK_ONLY: DMC_TCMD command 2 (R340). -/
def execWriteCheckBlockOnly (v : U32) (s : State) : Host.Outcome State Fault Refusal := .next (dmcTcmd v.toNat s)

/-- RAW_READ: DMC_TCMD command 3 (R340). -/
def execRawRead (v : U32) (s : State) : Host.Outcome State Fault Refusal := .next (dmcTcmd v.toNat s)

end Sys2Proof.Machine
end

