-- ==== Sys2Proof/Machine/Cache.lean ====
section
/-! DEFINITION. The map cache (R341–R349): lines, ways, partitions, fills, eviction buffers, scratch ways, maintenance
and its races, and the MCH and BPM registers. -/

namespace Sys2Proof.Machine

open Sys2Proof

/-- Set of a line address (128-byte lines, 32,768 sets; R341). -/
def setIdx (line : Nat) : Nat := line / 128 % 32768

def lineOf (s : State) (line : Nat) : Option Line := amGet? s.mch.lines line

/-- The line that occupies a way of a set. -/
def occupant (s : State) (set way : Nat) : Option (Nat × Line) :=
  s.mch.lines.find? fun p => setIdx p.1 = set && p.2.way = way

/-- Usable ways of an allocation mask: those that are not locked (R341). -/
def usableWays (s : State) (mask : Nat) : Nat := popCount 16 ((List.range 16).foldl (fun a w =>
  if mask.testBit w && !s.mch.locked.testBit w then a + 2 ^ w else a) 0)

/-- A line leaves its way: a dirty one moves to its partition's eviction buffer and its writeback is queued, a clean one
is dropped (R349). Writebacks are issued one at a time, oldest first (log entry 28). -/
def evictLine (line : Nat) (l : Line) (s : State) : State :=
  let s := { s with mch := { s.mch with lines := amErase s.mch.lines line } }
  if l.dirty then
    { s with mch := { s.mch with evict := modNth s.mch.evict l.part fun b => b ++ [(line, b.isEmpty)] } }
  else s

/-- The oldest entry of an eviction buffer has its writeback issued. -/
def issueHead : List (Nat × Bool) → List (Nat × Bool)
  | [] => []
  | e :: b => (e.1, true) :: b

/-- The eviction buffer of a partition is full: 16 lines. -/
def evictFull (s : State) (part : Nat) : Bool := 16 ≤ (s.mch.evict.getD part []).length

/-- Put a line in the cache. -/
def putLine (line : Nat) (l : Line) (s : State) : State :=
  { s with mch := { s.mch with lines := amSet s.mch.lines line l } }

/-- Install a line in a way; none where the way is not the partition's, is locked, or holds a line that an HWT has
locked. A dirty victim needs room in its eviction buffer, else further evictions of that partition stall (R346, R349). -/
def installLine (line : Nat) (l : Line) (s : State) : State :=
  if !s.mch.enable || !(nthNat s.mch.ways l.part).testBit l.way || s.mch.locked.testBit l.way then s
  else match occupant s (setIdx line) l.way with
    | none => putLine line l s
    | some (v, x) =>
      if v = line then putLine line l s
      else if hwtLocked s v then s
      else if x.dirty && evictFull s x.part then
        { s with mch := { s.mch with stalled := setNth s.mch.stalled x.part true } }
      else putLine line l (evictLine v x s)

/-- The first usable way of a partition (log entry 28). -/
def firstWay (s : State) (part : Nat) : Nat :=
  ((List.range 16).find? fun w => (nthNat s.mch.ways part).testBit w && !s.mch.locked.testBit w).getD 0

/-! ### Stream prefetch (R345, log entry 49) -/

/-- Line numbers of one 2 MiB region. -/
def regionOf (n : Nat) : Nat := n / 16384

/-- An access at line number `n` continues a tracker: it lies a stride of the same region away. -/
def Tracker.next (n : Nat) (t : Tracker) : Bool := 2 ≤ t.run && (n : Int) - t.last = t.stride && regionOf n = regionOf t.last

/-- A miss at line number `n` may train a tracker: it lies 1–64 lines away in the same region. -/
def Tracker.near (n : Nat) (t : Tracker) : Bool :=
  n != t.last && ((n : Int) - t.last).natAbs ≤ 64 && regionOf n = regionOf t.last

/-- A tracker after an access that continues it. -/
def Tracker.advance (n : Nat) (t : Tracker) : Tracker := { last := n, stride := t.stride, run := t.run + 1 }

/-- A tracker after a miss that gives it its stride. -/
def Tracker.train (n : Nat) (t : Tracker) : Tracker := { last := n, stride := (n : Int) - t.last, run := 2 }

/-- The trackers of a partition after a demand miss at line number `n`: one that it continues, else one that it trains,
else a new one in place of the oldest of 16. -/
def missTrackers (n : Nat) (l : List Tracker) : List Tracker :=
  match l.findIdx? (Tracker.next n) with
  | some k => modNth l k (Tracker.advance n)
  | none => match l.findIdx? (Tracker.near n) with
    | some k => modNth l k (Tracker.train n)
    | none => l.drop (l.length - 15) ++ [{ last := n, stride := 0, run := 1 }]

/-- The trackers after a demand access that does not miss: a tracker that prefetches moves with its stream. -/
def hitTrackers (n : Nat) (l : List Tracker) : List Tracker :=
  match l.findIdx? (fun t => 3 ≤ t.run && t.next n) with
  | some k => modNth l k (Tracker.advance n)
  | none => l

/-- A line that is cached, being evicted or being filled. -/
def lineBusy (s : State) (line : Nat) : Bool :=
  (lineOf s line).isSome || s.mch.evict.any (fun b => b.any fun e => e.1 = line) || s.mch.fills.any fun f => f.1 = line

/-- The line numbers a tracker wants: `dist` strides ahead of its last access, within the region. -/
def aheadOf (dist : Nat) (t : Tracker) : List Nat :=
  ((List.range dist).map fun k : Nat => (t.last : Int) + t.stride * ((k : Int) + 1)).filterMap fun x =>
    if 0 ≤ x && regionOf x.toNat = regionOf t.last then some x.toNat else none

/-- The fill of one line that is prefetched. -/
def prefetchLine (part line : Nat) (s : State) : State :=
  if lineBusy s line then s
  else tally noInst 0x0104 (5 * part + 2) 1 { s with mch := { s.mch with fills := s.mch.fills ++ [(line, false)] } }

/-- Prefetches of the tracker at which the access stands. -/
def prefetch (part n : Nat) (s : State) : State :=
  match (s.mch.trackers.getD part []).find? fun t => 3 ≤ t.run && t.last = n with
  | some t => (aheadOf (nthNat s.mch.dist part) t).foldl (fun s x => prefetchLine part (128 * x) s) s
  | none => s

/-- The stream trackers of a partition see a demand access. -/
def track (part line : Nat) (miss : Bool) (s : State) : State :=
  if s.mch.prefetch.getD part false then
    let see := if miss then missTrackers (line / 128) else hitTrackers (line / 128)
    prefetch part (line / 128) { s with mch := { s.mch with trackers := modNth s.mch.trackers part see } }
  else s

/-- A demand access of a partition to a line: a hit; a hit in an eviction buffer, which cancels the writeback (R349); or
a miss, which starts a fill unless one is in progress (R344). -/
def demandAccess (part line : Nat) (s : State) : State :=
  if (lineOf s line).isSome then tally noInst 0x0104 (5 * part) 1 s
  else if s.mch.evict.any (fun b => b.any fun e => e.1 = line) then
    let issued := s.mch.evict.any fun b => b.any fun e => e.1 = line && e.2
    let s := { s with mch := { s.mch with evict := s.mch.evict.map fun b => issueHead (b.filter fun e => e.1 != line) } }
    tally noInst 0x0104 (5 * part + 3) 1
      (installLine line { part := part, way := firstWay s part, dirty := !issued, poison := 0 } s)
  else if s.mch.fills.any (fun f => f.1 = line) then tally noInst 0x0104 (5 * part + 1) 1 s
  else tally noInst 0x0104 (5 * part + 1) 1
    { s with mch := { s.mch with fills := s.mch.fills ++ [(line, false)] } }

/-- An access of a partition to a line while the cache is enabled, and what it prefetches (R344, R345). -/
def mapAccess (part line : Nat) (s : State) : State :=
  if !s.mch.enable then s
  else
    let miss := !(lineOf s line).isSome && !s.mch.evict.any fun b => b.any fun e => e.1 = line
    track part line miss (demandAccess part line s)

/-! ### Maintenance -/

/-- Write a line back: it is clean afterwards. -/
def cleanLine (line : Nat) (s : State) : State :=
  { s with mch := { s.mch with lines := amModify s.mch.lines line fun l => { l with dirty := false } } }

/-- Invalidate a line; a fill of it in progress is marked NO_INSTALL (R348). -/
def invalLine (line : Nat) (s : State) : State :=
  { s with mch := { s.mch with
      lines := amErase s.mch.lines line
      fills := s.mch.fills.map fun f => if f.1 = line then (f.1, true) else f } }

/-- One maintenance operation on a line: 1 CLEAN, 2 INVAL, 3 CLEAN_INVAL. A line that an HWT has locked makes it wait for
the unlock (R346). -/
def maintLine (op line : Nat) (s : State) : State :=
  if hwtLocked s line then { s with mch := { s.mch with waiting := s.mch.waiting ++ [(line, op)] } }
  else
    let s := if op = 1 || op = 3 then cleanLine line s else s
    if op = 2 || op = 3 then invalLine line s else s

/-- Lines of a way. -/
def wayLines (s : State) (way : Nat) : List Nat := (s.mch.lines.filter fun p => p.2.way = way).map Prod.fst

/-- A write of MCH_MAINT: BY_WAY and WAY are kept; an OP on a locked way is ignored with ERROR. -/
def mchMaint (v : Nat) (s : State) : State :=
  let op := bits v 0 2
  let byWay := bit v 2
  let way := bits v 3 4
  if op != 0 && byWay && s.mch.locked.testBit way then regRefused 0x00800024 v s
  else
    let s := { s with mch := { s.mch with byWay := byWay, way := way } }
    if op = 0 then s
    else if byWay then (wayLines s way).foldl (fun s l => maintLine op l s) s
    else maintLine op (s.mch.maddr / 128 * 128) s

/-- INVALL: every line that neither a scratch way nor an HWT holds is invalidated; INV_DONE is set (R342, R346). -/
def mchInvall (s : State) : State :=
  { s with mch := { s.mch with
      lines := s.mch.lines.filter fun p => s.mch.locked.testBit p.2.way || hwtLocked s p.1
      fills := s.mch.fills.map fun f => (f.1, true)
      invDone := true } }

/-- A write of MCH_CTRL: ENABLE takes effect only after a full invalidate since the start (R342). -/
def mchCtrl (v : Nat) (s : State) : State :=
  let refused := bit v 0 && !s.mch.invDone
  let s := if refused then regRefused 0x00800000 v s else { s with mch := { s.mch with enable := bit v 0 } }
  if bit v 1 then mchInvall s else s

/-- A lock of a way as scratch by steward firmware: refused for a 9th way, or where a partition would keep fewer than 2
usable ways (R343). -/
def mchLockWay (way : Nat) (s : State) : State :=
  if s.mch.locked.testBit way then s
  else
    let s' := { s with mch := { s.mch with locked := setBit s.mch.locked way true } }
    if 8 ≤ popCount 16 s.mch.locked || s.mch.ways.any fun m => usableWays s' m < 2 then notice kMemory [] s
    else
      let s := (wayLines s way).foldl (fun s l => maintLine 3 l s) s
      { s with mch := { s.mch with locked := setBit s.mch.locked way true } }

/-- A write of MCH_PART: at least 2 unlocked ways and a distance of 1–8 (R341, R345). -/
def mchPart (p v : Nat) (s : State) : State :=
  if usableWays s (bits v 0 16) < 2 || bits v 17 4 = 0 || 8 < bits v 17 4 then regRefused (0x00800010 + 4 * p) v s
  else { s with mch := { s.mch with ways := setNth s.mch.ways p (bits v 0 16)
                                    prefetch := setNth s.mch.prefetch p (bit v 16)
                                    dist := setNth s.mch.dist p (bits v 17 4) } }

/-- MCH registers by offset in the block. -/
def mchRead (off : Nat) (s : State) : Option Nat :=
  if off = 0x00 then some (flag s.mch.enable 0 + flag s.mch.invDone 2)
  else if 0x10 ≤ off && off < 0x20 && off % 4 = 0 then
    let p := (off - 0x10) / 4
    some (nthNat s.mch.ways p + flag (s.mch.prefetch.getD p false) 16 + nthNat s.mch.dist p * 2 ^ 17)
  else if off = 0x20 then some s.mch.locked
  else if off = 0x24 then
    some ((s.mch.waiting.head?.map Prod.snd).getD 0 + flag s.mch.byWay 2 + s.mch.way * 8)
  else none

/-- Writes of MCH registers; none where the register takes no write. MCH_LOCK is honoured only from firmware. -/
def mchWrite (off v : Nat) (s : State) : Option State :=
  if off = 0x00 then some (mchCtrl v s)
  else if 0x10 ≤ off && off < 0x20 && off % 4 = 0 then some (mchPart ((off - 0x10) / 4) v s)
  else if off = 0x20 then some (regRefused 0x00800020 v s)
  else if off = 0x24 then some (mchMaint v s)
  else if off = 0x28 then some { s with mch := { s.mch with maddr := s.mch.maddr / 2 ^ 32 * 2 ^ 32 + v } }
  else if off = 0x2C then some { s with mch := { s.mch with maddr := s.mch.maddr % 2 ^ 32 + v * 2 ^ 32 } }
  else none

/-- CACHE_FILL_COMPLETE: the requester has its data; the line is installed unless the fill is marked NO_INSTALL or no way
takes it (R344, R346, R348). `write`: the access is a write to a write-back region, which leaves the line dirty (R347). -/
def fillComplete (part line way poison : Nat) (write : Bool) (s : State) : State :=
  let no := s.mch.fills.any fun f => f.1 = line && f.2
  let s := { s with mch := { s.mch with fills := s.mch.fills.filter fun f => f.1 != line } }
  if no then tally noInst 0x0104 (5 * part + 4) 1 s
  else installLine line { part := part, way := way, dirty := write, poison := poison } s

/-- A partition's eviction buffer frees the entry of a line whose writeback is complete (R349). -/
def evictDone (part line : Nat) (s : State) : State :=
  { s with mch := { s.mch with evict := modNth s.mch.evict part fun b => issueHead (b.filter fun e => e.1 != line)
                               stalled := setNth s.mch.stalled part false } }

/-- CACHE_FILL_COMPLETE. -/
def execCacheFillComplete (part : Fin 4) (line : U64) (way : Fin 16) (poison : Byte) (write : Bool) (s : State) :
    Host.Outcome State Fault Refusal :=
  .next (fillComplete part.val (line.toNat / 128 * 128) way.val poison.toNat write s)

/-- MCH_ENABLE: a write of MCH_CTRL (R342). -/
def execMchEnable (v : U32) (s : State) : Host.Outcome State Fault Refusal := .next (mchCtrl v.toNat s)

/-- INVALL: a write of MCH_CTRL (R342). -/
def execInvall (v : U32) (s : State) : Host.Outcome State Fault Refusal := .next (mchCtrl v.toNat s)

/-- MCH_LOCK: a firmware write of MCH_LOCK.REQ (R343). -/
def execMchLock (way : Fin 16) (s : State) : Host.Outcome State Fault Refusal := .next (mchLockWay way.val s)

/-- CLEAN: a write of MCH_MAINT (R348). -/
def execClean (v : U32) (s : State) : Host.Outcome State Fault Refusal := .next (mchMaint v.toNat s)

/-- INVAL: a write of MCH_MAINT (R348). -/
def execInval (v : U32) (s : State) : Host.Outcome State Fault Refusal := .next (mchMaint v.toNat s)

/-- CLEAN_INVAL: a write of MCH_MAINT (R348). -/
def execCleanInval (v : U32) (s : State) : Host.Outcome State Fault Refusal := .next (mchMaint v.toNat s)

/-- EVICTION_WRITEBACK_COMPLETE (R349). -/
def execEvictionWritebackComplete (part : Fin 4) (line : U64) (s : State) : Host.Outcome State Fault Refusal :=
  .next (evictDone part.val (line.toNat / 128 * 128) s)

/-! ### BPM registers -/

/-- BPM registers by offset in the block, but for BPM_FREE, which latches, and BPM_FAIL, which clears. -/
def bpmRead (off : Nat) (s : State) : Option Nat :=
  if off < 0x1000 then
    let p := off / 0x40
    match s.bpm.pools[p]? with
    | none => none
    | some q =>
      let o := off % 0x40
      if o = 0x00 then some (q.medium + flag q.defined 2)
      else if o = 0x04 then some q.size
      else if o = 0x08 then some q.min
      else none
  else none

/-- A read of BPM_FREE latches OWNED and IN_FLIGHT for the next read of each (R354). -/
def bpmFree (p : Nat) (s : State) : Nat × State :=
  (poolFree s p, { s with bpm := { s.bpm with pools := modNth s.bpm.pools p fun q =>
    { q with ownedLatch := some (poolOwned s p), inflightLatch := some 0 } } })

/-- A read of BPM_OWNED: the latched value once, else the live one. -/
def bpmOwned (p : Nat) (s : State) : Nat × State :=
  let q := s.bpm.pools.getD p coldPool
  (q.ownedLatch.getD (poolOwned s p),
    { s with bpm := { s.bpm with pools := modNth s.bpm.pools p fun q => { q with ownedLatch := none } } })

/-- A read of BPM_INFLIGHT: the latched value once, else the live one. -/
def bpmInflight (p : Nat) (s : State) : Nat × State :=
  let q := s.bpm.pools.getD p coldPool
  (q.inflightLatch.getD 0,
    { s with bpm := { s.bpm with pools := modNth s.bpm.pools p fun q => { q with inflightLatch := none } } })

/-- Writes of BPM registers: only BPM_OVF takes any. -/
def bpmWrite (off v : Nat) (s : State) : Option State :=
  if off = 0x1000 then some { s with bpm := { s.bpm with ovf := s.bpm.ovf - (s.bpm.ovf &&& v) } }
  else if off = 0x1004 then some { s with bpm := { s.bpm with ovf := s.bpm.ovf - (s.bpm.ovf &&& v * 2 ^ 32) } }
  else none

end Sys2Proof.Machine
end

