-- ==== Sys2Proof/Machine/Keys.lean ====
section
/-! DEFINITION. Command keys, their generations and counters (R298–R302), the keyed check, key wrapping (R303–R305) and
the key slots (R306–R308). -/

namespace Sys2Proof.Machine

open Sys2Proof

/-! ### Wrapped keys -/

/-- How a wrapped key is judged (R303, R310). -/
inductive Unwrap where
  | malformed
  | failed
  | ok (key : BitVec 256)
deriving DecidableEq, Repr

/-- The key of the first 32 bytes. -/
def keyOf (bs : List Byte) : BitVec 256 := BitVec.ofNat 256 (ofLeBytes (bs.take 32))

/-- Judge a wrapped key: a length that is no multiple of 8 is malformed; then the integrity check; then a non-zero byte
after the key is malformed (R303). -/
def unwrap (kek w : List Byte) : Unwrap :=
  if w.length % 8 != 0 || w.length < 40 then .malformed
  else match kwUnwrap kek w with
    | none => .failed
    | some p => if (p.drop 32).any (· != 0) then .malformed else .ok (keyOf p)

/-- The purpose block (Table TR-5). -/
def purposeBlock (purpose gen target index : Nat) : List Byte :=
  leBytes 1 purpose ++ leBytes 1 gen ++ leBytes 2 target ++ leBytes 2 index ++ leBytes 2 0

/-- KEK = KMAC256(K, purpose block, 256, "ETZ-KEK") (R304). -/
def kekOf (k : BitVec 256) (purpose gen target index : Nat) : List Byte :=
  kmac256 (bytesOf 32 k) (purposeBlock purpose gen target index) 32 "ETZ-KEK"

/-- CONF of a KEY_ROTATE (R305). -/
def confOf (k : BitVec 256) (inst gen counter : Nat) : List Byte :=
  kmac256 (bytesOf 32 k) (leBytes 2 inst ++ leBytes 1 gen ++ leBytes 8 counter) 16 "ETZ-CONF"

/-- Unwrap under a command key; an integrity failure where no key is held (R304). -/
def unwrapUnder (k : Option CmdKey) (purpose gen target index : Nat) (w : List Byte) : Unwrap :=
  if w.length % 8 != 0 || w.length < 40 then .malformed
  else match k with
    | none => .failed
    | some k => unwrap (kekOf k.key purpose gen target index) w

/-- DTK = KMAC256(DUS, OPERATOR_ID, 256, "ETZ-DTK") (Table TR-1). -/
def dtkOf (operatorId : U32) : List Byte := kmac256 Config.dus (leBytes 4 operatorId.toNat) 32 "ETZ-DTK"

/-! ### Generations and counters -/

/-- KEY_GEN in force; 0 where no key is held. -/
def genInForce (x : Inst) : Nat := match x.cmd with
  | some k => k.gen
  | none => 0

/-- Generation of the next install: 1 for the first, then the generation in force plus 1, modulo 256 (R297). -/
def nextGen (x : Inst) : Nat := match x.cmd with
  | some k => (k.gen + 1) % 256
  | none => 1

/-- The previous generation is accepted now: within the grace period (R302). -/
def inGrace (s : State) (x : Inst) : Bool := match x.graceEnd with
  | some e => s.quartz < e
  | none => false

/-- The key that row 6 accepts for a generation: the current one, or the previous one within its grace period. -/
def acceptKey (s : State) (x : Inst) (gen : Nat) : Option CmdKey :=
  match keyGen? x gen with
  | none => none
  | some k => match x.cmd with
    | some c => if c.gen = gen then some k else if inGrace s x then some k else none
    | none => none

/-- The tag of an up frame verifies under a key (R298). `data`: the DATA body of the critical types that carry one. -/
def tagOk (k : CmdKey) (i : Nat) (u : Up) (t : Trailer) (data : List Byte) : Bool :=
  t.tag = tagOf k.key (tagInput 1 t.keyGen.toNat i t.counter.toNat
    (upTagHeader (upType u) (upEnv u).hdr) (upBody u) data)

/-- A KEY_ROTATE of the instance is accepted and not complete (R153). -/
def rotating (x : Inst) : Bool := x.slots.any fun p => match p.2 with
  | .held t => t.op = 0x14
  | .done .. => false

/-- A KEY_LOAD into a key slot is accepted and not complete (R153). -/
def loadingKey (x : Inst) (key : Nat) : Bool := x.slots.any fun p => match p.2 with
  | .held t => t.op = 0x12 && recField t.record 0x08 2 = key
  | .done .. => false

/-- Send NOTIFY REKEY of a kind once per generation (R301). -/
def rekey (i kind : Nat) (s : State) : State :=
  match inst? s i with
  | none => s
  | some x => match x.cmd with
    | none => s
    | some k =>
      if k.rekeySent.testBit (kind - 1) then s
      else notify i 0x0008 kind k.gen (k.lac / 2 ^ 32)
        (setInst i { x with cmd := some { k with rekeySent := k.rekeySent ||| 2 ^ (kind - 1) } } s)

/-- Send NOTIFY REKEY of a kind for the previous generation's own LAC, once per generation (R301; log entry 138). -/
def rekeyPrev (i kind : Nat) (s : State) : State :=
  match inst? s i with
  | none => s
  | some x => match x.prev with
    | none => s
    | some k =>
      if k.rekeySent.testBit (kind - 1) then s
      else notify i 0x0008 kind (genInForce x) (k.lac / 2 ^ 32)
        (setInst i { x with prev := some { k with rekeySent := k.rekeySent ||| 2 ^ (kind - 1) } } s)

/-- The acceptance instant of a frame with a trailer: LAC of its generation becomes its COUNTER (R300); the first acceptance
under the current generation ends the grace period (R302); REKEY is sent where that LAC nears or reaches its maximum (R301). -/
def acceptCounter (i gen counter : Nat) (s : State) : State :=
  match inst? s i with
  | none => s
  | some x =>
    if x.cmd.any (fun k => k.gen = gen) then
      let s := setInst i { x with cmd := x.cmd.map fun k => { k with lac := counter }, graceEnd := none } s
      let s := if 2 ^ 64 - 2 ^ 32 ≤ counter then rekey i 1 s else s
      if counter = 2 ^ 64 - 1 then rekey i 2 s else s
    else if x.prev.any (fun k => k.gen = gen) then
      let s := setInst i { x with prev := x.prev.map fun k => { k with lac := counter } } s
      let s := if 2 ^ 64 - 2 ^ 32 ≤ counter then rekeyPrev i 1 s else s
      if counter = 2 ^ 64 - 1 then rekeyPrev i 2 s else s
    else s

/-- Install a command key: the current generation becomes the previous one and the one before it is discarded. A grace
period and NOTIFY REKEY follow an install by SET_CMDKEY or R297 only (R301, R302). -/
def installKey (i : Nat) (key : BitVec 256) (byRotate : Bool) (s : State) : State :=
  match inst? s i with
  | none => s
  | some x =>
    let k : CmdKey := { gen := nextGen x, key := key, lac := 0, rekeySent := 0, byRotate := byRotate }
    let s := setInst i { x with
      cmd := some k
      prev := x.cmd
      graceEnd := if byRotate || x.cmd.isNone then none else some (s.quartz + s.kec.grace * 1000000) } s
    if byRotate then s else rekey i 3 s

/-- An AUTH_TAG refusal counts in KEC_AUTHFAIL, which wraps into KEC_OVF.AUTH. -/
def countAuthFail (s : State) : State :=
  let wraps := s.kec.authfail = 0xFFFFFFFF
  let s := { s with kec := { s.kec with authfail := (s.kec.authfail + 1) % 2 ^ 32, ovfAuth := s.kec.ovfAuth || wraps } }
  if wraps then wrapEvent 0x00B00010 s else s

/-- A failed check in a sealed lane: CPH_SEALFAIL and a NOTICE record naming the lane, the purpose and the instance
(Table TR-7). The spec does not say which sealed lane serves an unwrap: the first that is not fenced (log entry 17). -/
def sealFail (purpose inst : Nat) (s : State) : State :=
  let wraps := s.cph.sealfail = 0xFFFFFFFF
  let s := { s with cph := { s.cph with sealfail := (s.cph.sealfail + 1) % 2 ^ 32, ovfSeal := s.cph.ovfSeal || wraps } }
  let s := if wraps then wrapEvent 0x00A00024 s else s
  let lane := ((List.range 192).find? fun n => 184 ≤ n && !s.cph.fenced.testBit n).getD 184
  tally noInst 0x0106 3 1 (event kCrypto sevNotice lane inst [lane, purpose, inst] s)

/-- A failed GCM tag in an open lane: CPH_TAGFAIL (Table TR-7). -/
def tagFail (s : State) : State :=
  let wraps := s.cph.tagfail = 0xFFFFFFFF
  let s := { s with cph := { s.cph with tagfail := (s.cph.tagfail + 1) % 2 ^ 32, ovfTag := s.cph.ovfTag || wraps } }
  let s := if wraps then wrapEvent 0x00A00020 s else s
  tally noInst 0x0106 2 1 s

/-! ### Key slots (R306) -/

/-- The key slots are reloaded from their wrapped copies; a slot that no created instance is assigned is zeroed (R308,
R400, Table SU-14). -/
def reloadKeys (s : State) : State := { s with cph := { s.cph with testKeys := [] } }

/-- Slots that an instance takes: one command slot, and its data slots behind it. -/
def slotsOf (x : Inst) : Nat := 1 + x.params.keyCount

/-- First key slot of an instance: the slots are assigned in ascending instance number (log entry 16). -/
def slotBase (s : State) (i : Nat) : Nat := sumNat ((s.insts.filter fun p => p.1 < i).map fun p => slotsOf p.2)

/-- Key slots assigned to created instances. -/
def slotsAssigned (s : State) : Nat := sumNat (s.insts.map fun p => slotsOf p.2)

/-- The key slot is assigned to a created instance. -/
def slotAssigned (s : State) (n : Nat) : Bool := n < slotsAssigned s

/-- The key slot holds a key (CPH_KSTAT). -/
def slotOccupied (s : State) (n : Nat) : Bool :=
  if slotAssigned s n then
    s.insts.any fun p =>
      let b := slotBase s p.1
      (b = n && p.2.cmd.isSome) || (b < n && n ≤ b + p.2.params.keyCount && (amGet? p.2.keys (n - b - 1)).isSome)
  else (amGet? s.cph.testKeys n).isSome

end Sys2Proof.Machine
end

