-- ==== Sys2Proof/Machine/Slate.lean ====
section
/-! DEFINITION. Slate's staged batch: its records (Tables IN-7, IN-8), the parameter block (Tables IN-1, IN-2), the
configuration that a batch makes (R285), the formation of die sets (R272) and the check rules of Table IN-9 (R286). -/

namespace Sys2Proof.Machine

open Sys2Proof

/-! ### The staged bytes -/

/-- Word n of the staging window (SLT_STAGE); a word never written reads 0. -/
def stageWord (s : State) (n : Nat) : Nat := match amGet? s.slt.stage n with
  | some w => w.toNat
  | none => 0

/-- The number that `n` words from word `w` spell, lowest first. -/
def stageWords (s : State) (w : Nat) : Nat → Nat
  | 0 => 0
  | n + 1 => stageWord s w + 2 ^ 32 * stageWords s (w + 1) n

/-- The number of `size` bytes at byte offset `off`. -/
def stageAt (s : State) (off size : Nat) : Nat :=
  bits (stageWords s (off / 4) ((off % 4 + size + 3) / 4)) (8 * (off % 4)) (8 * size)

/-- `size` bytes at a byte offset. -/
def stageBytes (s : State) (off size : Nat) : List Byte := leBytes size (stageAt s off size)

/-- A change record: where it lies, its kind, target and value length (Table IN-7). -/
structure Chg where
  off : Nat
  kind : Nat
  len : Nat
  inst : Nat
deriving DecidableEq, Repr

/-- Where the value of a record lies. -/
def Chg.val (c : Chg) : Nat := c.off + 8

/-- Instance kinds: CREATE to SET_CMDKEY. -/
def Chg.ofInst (c : Chg) : Bool := c.kind ≤ 5

/-- LEN of a kind (Table IN-8); none for a kind that is not in the table. -/
def chgLen (s : State) (off kind : Nat) : Option Nat :=
  if kind = 1 || kind = 3 then some 208 else if kind = 2 then some 0 else if kind = 4 then some 4
  else if kind = 5 then some (4 + 4 * ceilDiv (stageAt s (off + 8) 2) 4)
  else if kind = 6 then some (8 + 32 + 512) else if kind = 7 then some 4 else if kind = 8 then some 516
  else if kind = 9 then some 512 else if kind = 10 then some 4 else none

/-! ### Parameter blocks -/

/-- Source entry `n` of a parameter block. -/
def sourceAt (raw n : Nat) : SourceEntry :=
  let e := bits raw (8 * (0x70 + 24 * n)) 192
  { kind := bits e 0 8, mac := BitVec.ofNat 48 (ofBeBytes (leBytes 6 (bits e 16 48)))
    addr := if bits e 0 8 = 2 then BitVec.ofNat 128 (ofBeBytes (leBytes 4 (bits e 64 32)))
      else BitVec.ofNat 128 (ofBeBytes (leBytes 16 (bits e 64 128))) }

/-- Reserved bytes of a source entry are 0 (rule 0x01). -/
def sourceRsvOk (raw n : Nat) : Bool :=
  let e := bits raw (8 * (0x70 + 24 * n)) 192
  let k := bits e 0 8
  bits e 8 8 = 0 && (k = 1 || bits e 16 48 = 0) &&
    (if k = 2 then bits e 96 96 = 0 else if k = 3 then true else bits e 64 128 = 0)

/-- Field of a parameter block. -/
def pbField (raw off size : Nat) : Nat := bits raw (8 * off) (8 * size)

/-- Replace a field of a parameter block. -/
def pbSet (raw off size v : Nat) : Nat :=
  raw - pbField raw off size * 2 ^ (8 * off) + v % 2 ^ (8 * size) * 2 ^ (8 * off)

/-- The values that "0 takes" entries of Table IN-1 give; TXN_TIMEOUT_MS 0 only in a CREATE (R182). -/
def pbResolve (raw : Nat) (create : Bool) : Nat :=
  let raw := if create && pbField raw 0x24 4 = 0 then pbSet raw 0x24 4 10000 else raw
  let raw := if pbField raw 0x48 4 = 0xFFFFFFFF then pbSet raw 0x48 4 16 else raw
  let raw := if pbField raw 0x4E 2 = 0 then pbSet raw 0x4E 2 16 else raw
  let raw := if pbField raw 0x50 4 = 0 then pbSet raw 0x50 4 1000 else raw
  if pbField raw 0x54 4 = 0 then pbSet raw 0x54 4 1000 else raw

/-- The parameter block that 208 bytes spell (Table IN-1). -/
def paramsOf (raw : Nat) : Params :=
  { slots := pbField raw 0x00 2, keyCount := pbField raw 0x02 2, metaFmt := bit raw 32, trailerAll := bit raw 33
    zoneSize := pbField raw 0x08 4, zoneCap := pbField raw 0x0C 4, zoneCount := pbField raw 0x10 4
    openLimit := pbField raw 0x14 2, stripeWidth := pbField raw 0x16 1, writeMode := pbField raw 0x17 1
    convBlocks := pbField raw 0x18 8, fill := BitVec.ofNat 32 (pbField raw 0x20 4), txnTimeoutMs := pbField raw 0x24 4
    typeMask := pbField raw 0x28 8, bwRate := pbField raw 0x30 8, bwDepth := pbField raw 0x38 8
    opRate := pbField raw 0x40 4, opDepth := pbField raw 0x44 4, missLimit := pbField raw 0x48 4
    mboxDepth := pbField raw 0x4C 2, violLimit := pbField raw 0x4E 2, missWindowMs := pbField raw 0x50 4
    violWindowUs := pbField raw 0x54 4, links := pbField raw 0x58 2, egressBufs := pbField raw 0x5C 4
    mboxPeers := ((List.range 8).map fun n => pbField raw (0x60 + 2 * n) 2).filter (· != 0xFFFF)
    sources := ((List.range 4).map (sourceAt raw)).filter fun e => e.kind != 0
    raw := raw }

/-- Reserved fields of a parameter block are 0. -/
def pbRsvOk (raw : Nat) : Bool := pbField raw 0x5A 2 = 0 && (List.range 4).all (sourceRsvOk raw)

/-! ### Records of a batch and rule 0x01 -/

/-- Reserved fields of a record's value are 0. -/
def chgRsvOk (s : State) (c : Chg) : Bool :=
  let v := c.val
  if c.kind = 1 || c.kind = 3 then pbRsvOk (stageAt s v 208)
  else if c.kind = 4 then stageAt s v 4 ≤ 1
  else if c.kind = 5 then
    let w := stageAt s v 2
    stageAt s (v + 2) 2 = 0 && stageAt s (v + 4 + w) (c.len - 4 - w) = 0
  else if c.kind = 6 then stageAt s (v + 4) 4 = 0
  else if c.kind = 7 || c.kind = 8 then stageAt s (v + 2) 2 = 0
  else true

/-- The records of a batch from an offset, or the offset of the first that breaks rule 0x01. `n` bounds the records. -/
def parseFrom (s : State) : Nat → Nat → List Chg → Except Nat (List Chg)
  | 0, _, acc => .ok acc.reverse
  | n + 1, off, acc =>
    if s.slt.stageLen ≤ off then .ok acc.reverse
    else if s.slt.stageLen < off + 8 then .error off
    else
      let c : Chg := { off := off, kind := stageAt s off 2, len := stageAt s (off + 2) 2, inst := stageAt s (off + 4) 2 }
      if stageAt s (off + 6) 2 != 0 || chgLen s off c.kind != some c.len || s.slt.stageLen < off + 8 + c.len ||
          !chgRsvOk s c || (!c.ofInst && c.inst != 0) then .error off
      else parseFrom s n (off + 8 + c.len) (c :: acc)

/-- The batch, or the offset that rule 0x01 gives. -/
def parseBatch (s : State) : Except Nat (List Chg) :=
  if s.slt.stageLen < 8 || s.slt.stageLen % 4 != 0 then .error 0xFFFFFFFF
  else parseFrom s (s.slt.stageLen / 8 + 1) 0 []

/-! ### The configuration that a batch makes (R285) -/

/-- An instance as a batch leaves it. -/
structure CfgInst where
  params : Params
  held : Bool
  made : Bool                 -- created by the batch
  cmdKey : Option Nat         -- offset of the SET_CMDKEY record that stands
deriving DecidableEq, Repr

structure Cfg where
  insts : List (Nat × CfgInst)
  pools : List (Nat × PoolDef)
  spares : List Nat
  dirty : Nat
  named : List Nat            -- pools that a POOL record of the batch names (R272)
deriving DecidableEq, Repr

/-- The epoch in force. -/
def cfgNow (s : State) : Cfg :=
  { insts := s.insts.map fun p => (p.1, { params := p.2.params, held := p.2.held, made := false, cmdKey := none })
    pools := s.slt.pools, spares := s.slt.spares, dirty := s.slt.dirtyMib, named := [] }

/-- Set bits of a bitmap of 4096 dies. -/
def diesOf (bm : Nat) : List Nat := (List.range 4096).filter bm.testBit

/-- The pool of a POOL record. Dies of the pool that were draining no longer are. -/
def poolOfRec (s : State) (c : Chg) : Nat × PoolDef :=
  let v := c.val
  (stageAt s v 2,
    { w := stageAt s (v + 2) 1
      owners := ((List.range 16).map fun n => stageAt s (v + 8 + 2 * n) 2).filter (· != 0xFFFF)
      dies := diesOf (stageAt s (v + 40) 512), draining := [] })

/-- Apply one record to a configuration. -/
def cfgStep (s : State) (g : Cfg) (c : Chg) : Cfg :=
  let v := c.val
  if c.kind = 1 then
    { g with insts := amSet g.insts c.inst { params := paramsOf (pbResolve (stageAt s v 208) true), held := false
                                             made := true, cmdKey := none } }
  else if c.kind = 2 then { g with insts := amErase g.insts c.inst }
  else if c.kind = 3 then
    { g with insts := amModify g.insts c.inst fun x => { x with params := paramsOf (pbResolve (stageAt s v 208) false) } }
  else if c.kind = 4 then { g with insts := amModify g.insts c.inst fun x => { x with held := stageAt s v 4 = 1 } }
  else if c.kind = 5 then { g with insts := amModify g.insts c.inst fun x => { x with cmdKey := some c.off } }
  else if c.kind = 6 then
    let (n, p) := poolOfRec s c
    let keep := match amGet? g.pools n with
      | some o => o.draining.filter p.dies.contains
      | none => []
    { g with pools := amSet g.pools n { p with draining := keep }, named := g.named ++ [n] }
  else if c.kind = 7 then { g with pools := amErase g.pools (stageAt s v 2) }
  else if c.kind = 8 then
    { g with pools := amModify g.pools (stageAt s v 2) fun p =>
        { p with draining := (diesOf (stageAt s (v + 4) 512)).filter p.dies.contains } }
  else if c.kind = 9 then { g with spares := diesOf (stageAt s v 512) }
  else { g with dirty := stageAt s v 4 }

/-- The configuration after a batch. -/
def cfgAfter (s : State) (b : List Chg) : Cfg := b.foldl (cfgStep s) (cfgNow s)

/-- The pool that an instance owns in a configuration; 0 for none. -/
def cfgPoolOf (g : Cfg) (i : Nat) : Nat := match g.pools.find? fun p => p.2.owners.contains i with
  | some p => p.1
  | none => 0

/-! ### Formation of die sets (R272) -/

/-- A die set holds an open or full block. -/
def setInUse (s : State) (ds : DieSet) : Bool :=
  s.med.sbs.any fun p => p.2.set = ds.num && match inst? s p.2.inst with
    | some x => x.pool = ds.pool && (p.2.members.map Prod.fst).any ds.dies.contains
    | none => (p.2.members.map Prod.fst).any ds.dies.contains

/-- Lowest die-set number not in use. -/
def lowestNum (used : List Nat) : Nat := ((List.range (used.length + 1)).find? fun n => !used.contains n).getD 0

/-- Die sets of one die index from its channels. -/
def formIndex (pool w d : Nat) (chans : List Nat) (sets : List DieSet) : List DieSet :=
  let g := if w = 0 then 0 else chans.length / w
  (List.range g).foldl (fun sets r =>
    sets ++ [{ pool := pool, num := lowestNum (sets.map (·.num))
               dies := (List.range w).map fun j => 64 * (chans.getD (r + j * g) 0) + d
               lent := [], draining := false, blocked := false, lostMember := false, gc := false
               rebuilds := [] }]) sets

/-- The die sets of a pool from the kept ones and its dies (R272); draining sets are marked (R275). -/
def formSets (pool : Nat) (p : PoolDef) (kept : List DieSet) : List DieSet :=
  let left := p.dies.filter fun d => !(kept.any fun k => k.dies.contains d && !k.lent.contains d)
  let sets := (List.range 64).foldl (fun sets d =>
    formIndex pool p.w d ((List.range 64).filter fun c => left.contains (64 * c + d)) sets) kept
  sets.map fun ds => { ds with draining := ds.dies.any p.draining.contains }

/-- Die sets of a pool after the switch to a configuration: formed anew where a POOL record of the batch names the pool, and else
as they were (R272, Table IN-8). -/
def setsAfter (s : State) (g : Cfg) (pool : Nat) (p : PoolDef) : List DieSet :=
  let old := s.med.sets.filter fun d => d.pool = pool
  if g.named.contains pool then formSets pool p (old.filter (setInUse s))
  else old.map fun ds => { ds with draining := ds.dies.any p.draining.contains }

/-- Capacity of a pool in blocks (Table IN-3); draining sets add nothing. -/
def capacityOf (s : State) (g : Cfg) (pool : Nat) (p : PoolDef) : Nat :=
  let m := s.img.profile
  let u := m.blocks - m.spareBlocks - slcShare m - 12
  ((setsAfter s g pool p).filter fun d => !d.draining).length * u * sbBlocks m p.w false

/-! ### The rules of Table IN-9 -/

/-- Ranges of a parameter block (rule 0x04; R269 exempts the zone, conventional and key fields of instance 0). -/
def pbRangeOk (raw : Nat) (create : Bool) (i : Nat) : Bool :=
  let p := paramsOf raw
  let tenant := p.keyCount ≤ 256 && 65536 ≤ p.zoneSize && p.zoneSize ≤ 1048576 && 2 ^ Nat.log2 p.zoneSize = p.zoneSize &&
    p.zoneCap % 4 = 0 && 4 ≤ p.zoneCap && p.zoneCap ≤ p.zoneSize && p.zoneCount ≤ 8388608 &&
    1 ≤ p.openLimit && p.openLimit ≤ 1024 && 4 ≤ p.stripeWidth && p.stripeWidth ≤ 32 && p.writeMode ≤ 2 &&
    p.convBlocks ≤ 2 ^ 34 && ((1 ≤ p.txnTimeoutMs && p.txnTimeoutMs ≤ 60000) || (create && p.txnTimeoutMs = 0)) &&
    1 ≤ p.mboxDepth && p.mboxDepth ≤ 64
  (if i = 0 then 1 ≤ p.mboxDepth && p.mboxDepth ≤ 1024 else tenant) && p.links != 0 &&
    8 ≤ p.slots && p.slots ≤ 256 && pbField raw 4 4 < 4 && p.typeMask % 2 = 0 && p.typeMask < 2 ^ 21 &&
    10 ^ 6 ≤ p.bwRate && p.bwRate ≤ 38 * 10 ^ 10 && 1048576 ≤ p.bwDepth && p.bwDepth ≤ 2 ^ 36 &&
    1000 ≤ p.opRate && p.opRate ≤ 4 * 10 ^ 7 && 1 ≤ p.opDepth && p.opDepth ≤ 65536 &&
    (p.missLimit ≤ 65535 || p.missLimit = 0xFFFFFFFF) &&
    (p.missWindowMs = 0 || (16 ≤ p.missWindowMs && p.missWindowMs ≤ 60000)) &&
    (p.violWindowUs = 0 || (100 ≤ p.violWindowUs && p.violWindowUs ≤ 1000000)) &&
    64 ≤ p.egressBufs && p.egressBufs ≤ 16384 && p.mboxPeers.all (fun n => n < 1024) &&
    (p.sources.all fun e => e.kind ≤ 3)

/-- Fixed fields (rule 0x05). -/
def pbFixedOk (a b : Params) : Bool :=
  a.metaFmt = b.metaFmt && a.zoneSize = b.zoneSize && a.zoneCap = b.zoneCap && a.stripeWidth = b.stripeWidth

/-- Rule 0x06 for instance 0. -/
def pbManagerOk (p : Params) : Bool :=
  p.typeMask &&& managerMask = p.typeMask && p.zoneSize = 0 && p.zoneCap = 0 && p.zoneCount = 0 && p.openLimit = 0 &&
    p.stripeWidth = 0 && p.writeMode = 0 && p.fill = 0 && p.convBlocks = 0 && p.txnTimeoutMs = 0 && p.keyCount = 0

/-- Capacity per DRAM channel in GiB (R321). -/
def dramGib (d : DramEntry) : Nat := d.ranks * (if d.org = 2 then 2 else 1) * d.dieGbit / 8

/-- Rule 0x07: the device totals of Table IN-1, with the conventional total of R324. -/
def totalsOk (s : State) (g : Cfg) : Bool :=
  let ps := g.insts.map fun p => p.2.params
  let sv := (g.insts.filter fun p => !p.2.held).map fun p => p.2.params
  sumNat (ps.map (·.slots)) ≤ Config.deviceSlots && sumNat (ps.map (·.keyCount)) + ps.length ≤ Config.keySlots &&
    sumNat (ps.map (·.openLimit)) ≤ 16384 &&
    sumNat (ps.map (·.convBlocks)) ≤ 2 ^ 34 * (21 * dramGib s.img.dram - 80) / 256 &&
    sumNat (ps.map (·.egressBufs)) ≤ 2097152 && sumNat (sv.map (·.bwRate)) ≤ 38 * 10 ^ 10 &&
    sumNat (sv.map (·.opRate)) ≤ 44 * 10 ^ 6

/-- Links that exist in the modes in force (R84). -/
def linksNow (s : State) : Nat := sumNat ((List.range 16).map fun n => flag (linkExists s n) n)

/-- Rule 0x08 for one instance. -/
def linksOk (s : State) (g : Cfg) (i : Nat) (p : Params) : Bool :=
  let mgr := match amGet? g.insts 0 with
    | some m => m.params.sources
    | none => []
  p.links &&& linksNow s = p.links &&
    (i = 0 || (p.links != 0 && !p.sources.isEmpty && p.sources.all fun e => !mgr.contains e))

/-- Rule 0x09 for one instance. -/
def peersOk (g : Cfg) (i : Nat) (p : Params) : Bool := p.mboxPeers.all fun n => n != i && (amGet? g.insts n).isSome

/-- Rule 0x0A for one instance: its pool (R271). -/
def ownsOk (g : Cfg) (i : Nat) (p : Params) : Bool :=
  let own := g.pools.filter fun q => q.2.owners.contains i
  if i = 0 then own.isEmpty
  else own.length ≤ 1 && (p.zoneCount = 0 && p.convBlocks = 0 || own.length = 1) && own.all fun q => q.2.w = p.stripeWidth

/-- A die is identified, on a channel that is neither fenced nor lost, and not lost. -/
def dieUsable (s : State) (d : Nat) : Bool :=
  !isLost s d && match s.nfc[chanOf d]? with
    | some c => !c.fenced && !c.lost
    | none => false

/-- Rule 0x0A for one pool of the resulting configuration, whether or not a record names it (log entry 137). -/
def poolOk (s : State) (g : Cfg) (n : Nat) (p : PoolDef) : Bool :=
  1 ≤ n && n ≤ 1023 && 4 ≤ p.w && p.w ≤ 32 && 1 ≤ p.owners.length && p.owners.length ≤ 16 && decide p.owners.Nodup &&
    p.owners.all (fun i => (amGet? g.insts i).isSome) && p.dies.all (fun d => !g.spares.contains d) &&
    (g.pools.all fun q => q.1 = n || p.dies.all fun d => !q.2.dies.contains d) && p.dies.all (dieUsable s) &&
    !(setsAfter s g n p).isEmpty

/-- Superblocks of an instance. -/
def instSbs (s : State) (i : Nat) : Bool := s.med.sbs.any fun p => p.2.inst = i

/-- Rule 0x0B for one pool of the epoch in force: removed dies, leaving owners, deletion (R274). -/
def removalOk (s : State) (g : Cfg) (n : Nat) (o : PoolDef) : Bool :=
  match amGet? g.pools n with
  | none => o.owners.all fun i => !instSbs s i
  | some p =>
    (o.owners.all fun i => p.owners.contains i || !instSbs s i) &&
      (o.dies.filter fun d => !p.dies.contains d).all fun d =>
        s.med.sets.all fun ds => ds.pool != n || !ds.dies.contains d || !(s.med.sbs.any fun q =>
          q.2.set = ds.num && (q.2.members.any fun m => ds.dies.contains m.1) && !(liveOf s q.1).isEmpty)

/-- Reservations of a pool's owners fit its capacity (rule 0x0C). -/
def fitsOk (s : State) (g : Cfg) (n : Nat) (p : PoolDef) : Bool :=
  let need := sumNat (p.owners.map fun i => match amGet? g.insts i with
    | none => 0
    | some x => x.params.zoneCount * x.params.zoneCap + ceilDiv (x.params.convBlocks * 9) 8 +
        x.params.openLimit * sbBlocks s.img.profile p.w false)
  need ≤ capacityOf s g n p

/-- Rule 0x0D for one instance, against the accepted state. -/
def stateOk (s : State) (i : Nat) (p : Params) : Bool := match inst? s i with
  | none => true
  | some x =>
    (x.zones.all fun z => z.1 < p.zoneCount || z.2.state = .empty) && openCount x ≤ (if i = 0 then 1024 else p.openLimit) &&
      x.keys.all fun k => k.1 < p.keyCount

/-- Rule 0x0E (R174). -/
def dirtyOk (s : State) (mib : Nat) : Bool := mib % 64 = 0 && 64 ≤ mib && mib ≤ 2048 && mib ≤ holdupMib s

/-- An epoch's limit obeys R174: it is one that the image could hold, and not above the image's. -/
def epochDirtyOk (s : State) (mib : Nat) : Bool := dirtyOk s mib && mib ≤ s.img.dirtyMib

/-- The wrapped key of a SET_CMDKEY record. -/
def wrappedOf (s : State) (off : Nat) : List Byte := stageBytes s (off + 12) (stageAt s (off + 8) 2)

/-- The command key that a SET_CMDKEY record unwraps to, under instance 0's key in force before the batch (Table TR-6). -/
def cmdKeyOf (s : State) (i off : Nat) : Unwrap :=
  let mgr := (inst? s 0).bind (·.cmd)
  let gen := match inst? s i with
    | some x => nextGen x
    | none => 1
  unwrapUnder mgr (if i = 0 then 4 else 3) gen i 0 (wrappedOf s off)

/-- The first record that names an instance by an instance kind, or the whole batch. -/
def firstFor (b : List Chg) (i : Nat) : Nat := match b.find? fun c => c.ofInst && c.inst = i with
  | some c => c.off
  | none => 0xFFFFFFFF

/-- The first record that names a pool, or the whole batch. -/
def firstPool (s : State) (b : List Chg) (n : Nat) : Nat :=
  match b.find? fun c => 6 ≤ c.kind && c.kind ≤ 8 && stageAt s c.val 2 = n with
  | some c => c.off
  | none => 0xFFFFFFFF

/-- The first record of a list that fails a test. -/
def failAt (b : List Chg) (ok : Chg → Bool) : Option Nat := (b.find? fun c => !ok c).map (·.off)

/-- Records after the one at an offset. -/
def laterThan (b : List Chg) (c : Chg) : List Chg := b.filter fun d => c.off < d.off

/-- Rule 0x02: which instances the records may name. -/
def namesOk (s : State) (b : List Chg) (c : Chg) : Bool :=
  let before := b.filter fun d => d.off < c.off
  let made := before.any fun d => d.kind = 1 && d.inst = c.inst
  let exists' := (inst? s c.inst).isSome || made
  if !c.ofInst then true
  else if c.kind = 1 then
    0 < c.inst && c.inst < 1024 && !exists' && (laterThan b c).any fun d => d.kind = 5 && d.inst = c.inst
  else if c.inst = 0 then (c.kind = 3 || c.kind = 5) && exists'
  else exists' && !(c.kind = 2 && b.any fun d => d.kind = 1 && d.inst = c.inst)

/-- Rule 0x03: deletions. -/
def deleteOk (s : State) (b : List Chg) (c : Chg) : Bool :=
  c.kind != 2 || ((match inst? s c.inst with
    | some x => x.held
    | none => false) && (laterThan b c).all fun d => !(d.ofInst && d.inst = c.inst))

/-- Rule 0x04: ranges of a record. OWNERS_N of a POOL record is the number of the OWNERS that are used (log entry 132). -/
def rangeOk (s : State) (c : Chg) : Bool :=
  if c.kind = 1 || c.kind = 3 then pbRangeOk (stageAt s c.val 208) (c.kind = 1) c.inst
  else if c.kind = 5 then 40 ≤ stageAt s c.val 2 && stageAt s c.val 2 ≤ 512
  else if c.kind = 6 then stageAt s (c.val + 3) 1 = (poolOfRec s c).2.owners.length
  else true

/-- Rule 0x05: a SET_PARAMS leaves the fixed fields of the block before it. -/
def fixedOk (s : State) (b : List Chg) (c : Chg) : Bool :=
  c.kind != 3 || match amGet? (cfgAfter s (b.filter fun d => d.off < c.off)).insts c.inst with
    | some x => pbFixedOk x.params (paramsOf (stageAt s c.val 208))
    | none => true

/-- Rule 0x06. -/
def managerOk (s : State) (c : Chg) : Bool :=
  !(c.kind = 3 && c.inst = 0) || pbManagerOk (paramsOf (stageAt s c.val 208))

/-- The first instance of a configuration that fails a test, at the first record that names it. -/
def failInst (b : List Chg) (g : Cfg) (ok : Nat → Params → Bool) : Option Nat :=
  let bad := g.insts.filter fun p => !ok p.1 p.2.params
  if bad.isEmpty then none else some (bad.foldl (fun a p => min a (firstFor b p.1)) 0xFFFFFFFF)

/-- The first pool that fails a test, at the first record that names it. -/
def failPool (s : State) (b : List Chg) (l : List (Nat × PoolDef)) (ok : Nat → PoolDef → Bool) : Option Nat :=
  let bad := l.filter fun p => !ok p.1 p.2
  if bad.isEmpty then none else some (bad.foldl (fun a p => min a (firstPool s b p.1)) 0xFFFFFFFF)

/-- Lower of two offsets of one rule. -/
def orElseMin : Option Nat → Option Nat → Option Nat
  | none, b => b
  | some a, none => some a
  | some a, some b => some (min a b)

/-- The record that sets the dirty limit of the resulting configuration (R285), or the whole batch. -/
def lastDirty (b : List Chg) : Nat := match b.reverse.find? fun c => c.kind = 10 with
  | some c => c.off
  | none => 0xFFFFFFFF

/-- The first rule of 0x02 to 0x0F that the configuration resulting from a batch fails, with its offset (R286). What the batch
leaves as it was is judged with the rest: a die that was lost since fails rule 0x0A of its pool (log entry 137). -/
def judgeRules (s : State) (b : List Chg) : Option (Nat × Nat) :=
  let g := cfgAfter s b
  let at' := fun (r : Nat) (o : Option Nat) => o.map fun x => (r, x)
  let dies := fun (c : Chg) =>
    if c.kind = 9 then (diesOf (stageAt s c.val 512)).all fun d => (die? s d).isSome
    else if c.kind = 7 then (amGet? s.slt.pools (stageAt s c.val 2)).isSome || b.any fun d =>
      d.off < c.off && d.kind = 6 && stageAt s d.val 2 = stageAt s c.val 2
    else if c.kind = 8 then (amGet? s.slt.pools (stageAt s c.val 2)).isSome || b.any fun d =>
      d.off < c.off && d.kind = 6 && stageAt s d.val 2 = stageAt s c.val 2
    else true
  (at' 0x02 (failAt b (namesOk s b))) <|> (at' 0x03 (failAt b (deleteOk s b))) <|>
  (at' 0x04 (failAt b (rangeOk s))) <|> (at' 0x05 (failAt b (fixedOk s b))) <|>
  (at' 0x06 (failAt b (managerOk s))) <|>
  (if totalsOk s g then none else some (0x07, 0xFFFFFFFF)) <|>
  (at' 0x08 (failInst b g (linksOk s g))) <|> (at' 0x09 (failInst b g (peersOk g))) <|>
  (at' 0x0A (orElseMin (failAt b dies) (orElseMin (failInst b g (ownsOk g)) (failPool s b g.pools (poolOk s g))))) <|>
  (at' 0x0B (failPool s b s.slt.pools (removalOk s g))) <|>
  (at' 0x0C (failPool s b g.pools (fitsOk s g))) <|>
  (at' 0x0D (failInst b g (stateOk s))) <|>
  (if g.dirty = 0 && !(b.any fun c => c.kind = 10) || epochDirtyOk s g.dirty then none else some (0x0E, lastDirty b)) <|>
  (at' 0x0F (failAt b fun c => c.kind != 5 || match cmdKeyOf s c.inst c.off with
    | .ok _ => true
    | _ => false))

/-- The first rule that the staged batch fails, or none (R286). -/
def judgeBatch (s : State) : Option (Nat × Nat) := match parseBatch s with
  | .error off => some (0x01, off)
  | .ok b => judgeRules s b

/-- The records of the staged batch; none of them where it does not parse. -/
def batchOf (s : State) : List Chg := match parseBatch s with
  | .ok b => b
  | .error _ => []

/-! ### What an apply under way refuses (R288, R294) -/

/-- An apply lies between step 2 of Table IN-10 and its end. -/
def applying (s : State) : Bool := s.slt.state = 4

/-- Parameters of an instance as the batch being applied will have them, where the batch names it. -/
def batchParams (s : State) (i : Nat) : Option Params :=
  if applying s && (batchOf s).any (fun c => c.kind = 3 && c.inst = i) then
    (amGet? (cfgAfter s (batchOf s)).insts i).map (·.params)
  else none

/-- SLOTS that a task is judged against: the lower of the epoch's and, from step 3, of the batch's. -/
def slotsNow (s : State) (i : Nat) (x : Inst) : Nat := match batchParams s i with
  | some p => if 3 ≤ s.slt.step then min x.params.slots p.slots else x.params.slots
  | none => x.params.slots

def zoneCountNow (s : State) (i : Nat) (x : Inst) : Nat := match batchParams s i with
  | some p => min x.params.zoneCount p.zoneCount
  | none => x.params.zoneCount

def openLimitNow (s : State) (i : Nat) (x : Inst) : Nat := match batchParams s i with
  | some p => min x.params.openLimit p.openLimit
  | none => x.params.openLimit

def keyCountNow (s : State) (i : Nat) (x : Inst) : Nat := match batchParams s i with
  | some p => min x.params.keyCount p.keyCount
  | none => x.params.keyCount

/-- KEY_ROTATE is refused: instance 0, or a tenant for which the batch holds a SET_CMDKEY (R151, R294). -/
def rekeying (s : State) (i : Nat) : Bool :=
  applying s && (i = 0 || (batchOf s).any fun c => c.kind = 5 && c.inst = i)

end Sys2Proof.Machine
end

