-- ==== Sys2Proof/Machine/Content.lean ====
section
/-! DEFINITION. What a task record must be (row 2 of Table CM-4: R122, R123, R141) and the content conditions of row 11
(Tables CM-6, CM-8, CM-12, ZN-3; R137–R139, R145, R148, R149, R151, R153, R185, R294), judged against the accepted
state (R128). -/

namespace Sys2Proof.Machine

open Sys2Proof

/-! ### Row 2: the record -/

/-- Codes that FILTER of a ZONE_REPORT may hold (Table ZN-2). -/
def filterOk (f : Nat) : Bool := [0x1, 0x2, 0x3, 0x4, 0xD, 0xE, 0xF, 0xFF].contains f

/-- First byte at or after `off` that is not 0, among `n`. -/
def firstByte (r : BitVec 512) : Nat → Nat → Option Nat
  | 0, _ => none
  | n + 1, off => if recField r off 1 = 0 then firstByte r n (off + 1) else some off

/-- ADDR bits that must be 0: [63:34] of a conventional address, [31:0] of an APPEND (R131, Table CM-7). -/
def addrBad (r : BitVec 512) : Option Nat :=
  let op := recOp r
  if op = 0x03 then firstByte r 4 0x08
  else if (op = 0x01 || op = 0x02) && recConv r then
    (if bits (recField r 0x0C 1) 2 6 != 0 then some 0x0C else firstByte r 3 0x0D)
  else none

/-- Lower of two offsets. -/
def minOff : Option Nat → Option Nat → Option Nat
  | none, b => b
  | some a, none => some a
  | some a, some b => some (min a b)

/-- Ranges of the operand fields of a type, each with its offset. `slot`, `seq`: those of the task's own frame. -/
def rangeBad (slots slot : Nat) (seq : U32) (r : BitVec 512) : Option Nat :=
  let op := recOp r
  let n := recNblk r
  let nblk := (decide (1 ≤ n ∧ n ≤ 256), 0x10)
  let wrap := (decide (40 ≤ recField r 0x0A 2 ∧ recField r 0x0A 2 ≤ 512), 0x0A)
  firstBad (
    if op = 0x01 || op = 0x02 || op = 0x03 then [nblk]
    else if op = 0x08 then [(recField r 0x0C 4 != 0, 0x0C), nblk, (filterOk (recField r 0x12 1), 0x12)]
    else if op = 0x09 then [(decide (recField r 0x08 4 ≤ 60000), 0x08)]
    else if op = 0x0C then
      let t := recField r 0x08 2
      [(decide (t < slots) && t != slot, 0x08),
       (decide (seqDiff (BitVec.ofNat 32 (recField r 0x0C 4)) seq < 0), 0x0C)]
    else if op = 0x0E then [(decide (recField r 0x08 1 ≤ 1), 0x08)]
    else if op = 0x0F then
      [(groupExists' (recField r 0x0A 2), 0x0A), (decide (1 ≤ recField r 0x0C 2 ∧ recField r 0x0C 2 ≤ 16), 0x0C)]
    else if op = 0x10 then [(decide (1 ≤ recField r 0x0A 2 ∧ recField r 0x0A 2 ≤ 4096), 0x0A)]
    else if op = 0x12 || op = 0x14 then [wrap]
    else if op = 0x05 || op = 0x06 || op = 0x07 then
      [(recField r 0x0C 1 = 0, 0x0C), (recField r 0x0E 1 = 0, 0x0E), (recField r 0x0F 1 = 0, 0x0F)]
    else [])
where
  /-- The group stands in Table FE-12. -/
  groupExists' (g : Nat) : Bool := (1 ≤ g && g ≤ 8) || (0x100 ≤ g && g ≤ 0x109) || (0x1000 ≤ g && g ≤ 0x103F)

/-- Flags and TXN_ID (R123): the offset of the first that the type does not permit. -/
def headBad (metaFmt : Bool) (r : BitVec 512) : Option Nat :=
  let op := recOp r
  let addr := op = 0x01 || op = 0x02 || op = 0x03
  let flags := bits (recField r 1 1) 2 6 = 0 && (!recConv r || op = 0x01 || op = 0x02) &&
    (recMeta r == (addr && metaFmt))
  let txn := if op = 0x09 || op = 0x0A || op = 0x0B then recTxn r != 0
    else recTxn r = 0 || (opMember op && !recConv r)
  firstBad [(opKnown op, 0x00), (flags, 0x01), (txn, 0x04)]

/-- Row 2: DETAIL of the BAD_RECORD refusal, the offset of the first bad byte (R122, R123, R141). -/
def badRecord (x : Inst) (slot : Nat) (seq : U32) (r : BitVec 512) : Option Nat :=
  if !opKnown (recOp r) then some 0
  else minOff (headBad x.params.metaFmt r)
    (minOff (badReserved r ([(0, 6)] ++ opFields (recOp r)) 64 0)
      (minOff (addrBad r) (rangeBad x.params.slots slot seq r)))

/-! ### Row 11 -/

/-- What row 11 finds. -/
inductive Verdict where
  | pass
  | refuse (status : Nat)
  | wait (w : Waiting)
deriving DecidableEq, Repr

/-- The status of the first condition that holds, as a verdict. -/
def firstCond : List (Bool × Nat) → Verdict
  | [] => .pass
  | (b, st) :: l => if b then .refuse st else firstCond l

/-- Conventional range of a task lies outside the area (Tables CM-6, CM-8). -/
def convOutside (x : Inst) (r : BitVec 512) : Bool :=
  x.params.convBlocks = 0 || x.params.convBlocks < recConvBlk r + recNblk r

/-- A block at rest that only a part lost beyond repair can give (R29). -/
def blockBeyond (s : State) (k : BlkKey) : Bool :=
  match stored? s k with
  | none => false
  | some st => match st.place with
    | none => false
    | some pl => st.onFlash && st.desc.isNone && placeGone s pl && !othersAlive s pl &&
        !s.med.beyondRepair.isEmpty

/-- Table CM-6. -/
def judgeRead (s : State) (i : Nat) (x : Inst) (r : BitVec 512) : Verdict :=
  let n := recNblk r
  let z := recZone r
  let zone := !recConv r
  firstCond
    [(!zone && convOutside x r, stZoneBoundary),
     (zone && x.params.zoneCount ≤ z, stZoneBoundary),
     (zone && x.params.zoneCap < recOffset r + n, stZoneBoundary),
     (zone && decide ((zoneOf x z).state = .offline), stZoneState),
     (!egressFits s x n, stNoBuffer),
     ((List.range n).any fun b => blockBeyond s (readKeyOf i r b), stDegraded)]

/-- The key conditions of Table CM-8: the index, the slot's content, the binding. -/
def keyBad (x : Inst) (key : Nat) (bound : Option Nat) : Bool :=
  x.params.keyCount ≤ key || (amGet? x.keys key).isNone || bound.any (· != key)

/-- Every die set of an instance has a member lost that nothing replaces: a binding finds no part (R29, R166). -/
def noSet (s : State) (x : Inst) : Bool := (setsOf s x).all fun d => d.lostMember

/-- A binding of an EMPTY zone: refused where every die set has a member lost beyond repair; it waits while no die set has a free
superblock (R29, R166). -/
def judgeBind (s : State) (x : Inst) (zn : Zone) (hint : Byte) : Verdict :=
  if zn.state != .empty then .pass
  else if noSet s x then .refuse stDegraded
  else if (chooseSet s x (targetSlc x hint) (hintStream hint)).isNone then .wait .set else .pass

/-- A move into an open state passes the limit (R158, R294). -/
def opensTooMany (s : State) (i : Nat) (x : Inst) (zn : Zone) : Bool :=
  (zn.state = .empty || zn.state = .closed) && openLimitNow s i x ≤ openCount x

/-- The transaction conditions of Table CM-8 for a member that names a zone, in the table's order. -/
def judgeMember (s : State) (i : Nat) (x : Inst) (txn z : Nat) : Verdict :=
  if txn = 0 then .pass
  else match findTxn s i txn with
    | none => .refuse stTxnUnknown
    | some (n, d) => firstCond
        [(decide (d.state = .devAborted), stTxnAborted),
         (64 ≤ d.members.length || (!(txnZones d).contains z && 16 ≤ (txnZones d).length), stTxnLimit),
         ((zoneOf x z).txn.any (· != n), stTxnConflict),
         (d.members.any fun m => m.zone = z && (m.op = 0x06 || m.op = 0x07), stZoneState)]

/-- The first of two verdicts that does not pass. -/
def Verdict.orElse (a b : Verdict) : Verdict := match a with
  | .pass => b
  | v => v

/-- Write counts that a conventional WRITE needs (R180). -/
def countsSpent (x : Inst) (key n : Nat) : Bool := 2 ^ 56 - 1 < amGetD x.wcounts key 0 + n

/-- Table CM-8. -/
def judgeWrite (s : State) (i : Nat) (x : Inst) (r : BitVec 512) : Verdict :=
  let n := recNblk r
  let key := recKey r
  if loadingKey x key then .wait .key
  else if recConv r then firstCond
    [(s.med.preserve, stExhausted), (convOutside x r, stZoneBoundary), (keyBad x key none, stPermission),
     (countsSpent x key n, stPermission), (noSet s x, stDegraded)]
  else
    let z := recZone r
    let zn := zoneOf x z
    let bound := if zn.state = .empty then none else some zn.key
    ((firstCond
      [(s.med.preserve, stExhausted),
       (zoneCountNow s i x ≤ z, stZoneBoundary),
       (decide (zn.state = .full), stZoneFull),
       (zn.state = .readOnly || zn.state = .offline, stZoneState),
       (recOp r = 0x02 && recOffset r != zn.wp, stWritePointer),
       (x.params.zoneCap < zn.wp + n, stZoneBoundary),
       (opensTooMany s i x zn, stOpenLimit),
       (keyBad x key bound, stPermission)]).orElse (judgeMember s i x (recTxn r) z)).orElse
      (judgeBind s x zn (recHint r))

/-- ZONE_OPEN, ZONE_CLOSE, ZONE_FINISH, ZONE_RESET (R137, Table ZN-3). KEY is checked where the zone is empty, since only
there is it bound; on a bound zone it is ignored (DESIGN CHOICE: R137 can be read to refuse it there too; log entry 121). -/
def judgeZoneOp (s : State) (i : Nat) (x : Inst) (r : BitVec 512) : Verdict :=
  let op := recOp r
  let z := recZoneIdx r
  let zn := zoneOf x z
  let opening := op = 0x04
  let bad := match zn.state with
    | .empty => op = 0x05
    | .full => op = 0x04 || op = 0x05
    | .readOnly => op != 0x07
    | .offline => op != 0x07 || zn.genExhausted
    | _ => false
  if opening && loadingKey x (recZoneKey r) then .wait .key
  else ((firstCond
    [(opening && s.med.preserve, stExhausted),
     ((if opening then zoneCountNow s i x else x.params.zoneCount) ≤ z, stZoneBoundary),
     (bad, stZoneState),
     (opening && opensTooMany s i x zn, stOpenLimit),
     (opening && zn.state = .empty && keyBad x (recZoneKey r) none, stPermission)]).orElse
      (judgeMember s i x (recTxn r) z)).orElse
      (if opening then judgeBind s x zn (recZoneHint r) else .pass)

/-- Table CM-12 and the wait of R185. -/
def judgeTxn (s : State) (i : Nat) (r : BitVec 512) : Verdict :=
  match findTxn s i (recTxn r) with
  | none =>
    if recOp r = 0x09 then firstCond [(8 ≤ instTxns s i || Config.openTxnLimit ≤ devTxns s, stTxnLimit)]
    else .refuse stTxnUnknown
  | some (_, d) =>
    if recOp r = 0x09 then .refuse stTxnConflict
    else if recOp r = 0x0A && d.state = .devAborted then .refuse stTxnAborted
    else if Config.closingTxnLimit ≤ closingTxns s then .wait .desc else .pass

/-- COUNTERS (R148, R388): a tenant reads its own groups that TAL_CTRL opens; instance 0 any group of a target that
exists. A device group named with another TARGET than 0xFFFF is refused with INSTANCE_STATE (DESIGN CHOICE: the spec gives no
refusal for a created instance there; log entry 120). -/
def judgeCounters (s : State) (i : Nat) (r : BitVec 512) : Verdict :=
  let t := recField r 0x08 2
  let g := recField r 0x0A 2
  let mine := 1 ≤ g && g ≤ 8
  if i = 0 then firstCond [((if mine then (inst? s t).isNone else t != noInst), stInstState)]
  else firstCond [(t != i || !mine || !s.tal.tenant.testBit (g - 1), stPermission)]

/-- An instance may address another one's mailbox (R280). -/
def mayAddress (s : State) (i : Nat) (x : Inst) (to' : Nat) : Bool :=
  to' != i && (if i = 0 then (inst? s to').isSome
    else to' = 0 || (x.params.mboxPeers.contains to' && (inst? s to').isSome))

/-- A key slot still protects data of a non-empty zone or a written conventional block (R151). -/
def keyInUse (x : Inst) (key : Nat) : Bool :=
  (x.zones.any fun z => z.2.state != .empty && z.2.key = key && z.2.set != 0xFFFF) || x.conv.any fun b => b.2.box.key = key

/-- Key tasks (R151, R153). -/
def judgeKeys (s : State) (i : Nat) (x : Inst) (r : BitVec 512) : Verdict :=
  let key := recField r 0x08 2
  if recOp r = 0x14 then firstCond
    [(rekeying s i, stSlotBusy), (recField r 0x08 1 != (genInForce x + 1) % 256, stReplay)]
  else if loadingKey x key then .wait .key
  else if recOp r = 0x12 then firstCond
    [(keyCountNow s i x ≤ key, stPermission), ((amGet? x.keys key).isSome, stSlotBusy)]
  else firstCond [(x.params.keyCount ≤ key, stPermission), (keyInUse x key, stSlotBusy)]

/-- Row 11 for a task of any type. -/
def judgeContent (s : State) (i : Nat) (x : Inst) (r : BitVec 512) : Verdict :=
  let op := recOp r
  if op = 0x01 then judgeRead s i x r
  else if op = 0x02 || op = 0x03 then judgeWrite s i x r
  else if op = 0x04 || op = 0x05 || op = 0x06 || op = 0x07 then judgeZoneOp s i x r
  else if op = 0x08 then firstCond [(x.params.zoneCount ≤ recZoneIdx r, stZoneBoundary)]
  else if op = 0x09 || op = 0x0A || op = 0x0B then judgeTxn s i r
  else if op = 0x0D then
    firstCond [(recZoneIdx r != 0xFFFFFFFF && x.params.zoneCount ≤ recZoneIdx r, stZoneBoundary)]
  else if op = 0x0F then judgeCounters s i r
  else if op = 0x10 then firstCond [(!mayAddress s i x (recField r 0x08 2), stPermission)]
  else if op = 0x12 || op = 0x13 || op = 0x14 then judgeKeys s i x r
  else .pass

end Sys2Proof.Machine
end

