-- ==== Sys2Proof/Machine/Links.lean ====
section
/-! DEFINITION. Links and ports: loss and return of a link and of a port (R87, R110, R111, Table AR-9), priority flow
control (R88), address resolution (R82, R91) and the ETH registers. -/

namespace Sys2Proof.Machine

open Sys2Proof

/-! ### Links -/

/-- An event of a link is told to every instance that may use it (R111). -/
def notifyLink (ev l : Nat) (s : State) : State :=
  forInsts (fun i s => match inst? s i with
    | some x => if linkAllowed x l then notify i ev l 0 0 s else s
    | none => s) s

/-- A port with no link up. -/
def portDark (s : State) (p : Nat) : Bool := (portLinks p).all fun n => !linkUp s n

/-- Sources under which a port is a part of Table AR-9: its MAC and PCS, and its reference clock. -/
def portSource (p : Nat) (clock : Bool) : Nat := if clock then 0x172 + p else 0x12C + p

/-- A link loses its lock (R87, R111): LINK_DOWN to the instances allowed on it, and every unacknowledged frame last sent
on it goes out on a surviving link. -/
def loseLink (l : Nat) (s : State) : State :=
  if !linkUp s l then s
  else
    let s := { s with eth := { s.eth with up := setBit s.eth.up l false, wentDown := setBit s.eth.wentDown l true } }
    if !s.sys.transport then s
    else forInsts (fun i s => resendWhere i (fun d => d.link = l) s) (notifyLink 0x0001 l s)

/-- Every link of a port goes down. -/
def darkenPort (p : Nat) (s : State) : State := (portLinks p).foldl (fun s l => loseLink l s) s

/-- A host port fails: its part of Table AR-9 holds its class until the port returns (R29). -/
def portFails (p : Nat) (clock : Bool) (s : State) : State := unrestore (portSource p clock) (darkenPort p s)

/-- LINK_DOWN. A port whose last link goes down in RUN fails as a host port, a DEGRADE fault (Table AR-9; log entry 31). -/
def linkDown (l : Nat) (s : State) : State :=
  if !linkUp s l then s
  else
    let p := l / 8
    let s := loseLink l s
    if s.sys.boot = .run && portDark s p && !s.fcl.unrestored.contains (portSource p true) then
      unrestore (portSource p false)
        (raise (portSource p false) (lineFault (portSource p false) 10 0x13 l) s)
    else s

def execLinkDown (l : Fin 16) (s : State) : Host.Outcome State Fault Refusal := .next (linkDown l.val s)

/-- A port returns: RESTORED (R29). -/
def portReturns (p : Nat) (s : State) : State :=
  [portSource p false, portSource p true].foldl (fun s src =>
    if s.fcl.unrestored.contains src then restored src src s else s) s

/-- LINK_UP: a link that exists in the mode in force trains; LINK_UP goes to the instances allowed on it, and a port that
had failed has returned (R29, R111). -/
def linkReturns (l : Nat) (s : State) : State :=
  if linkUp s l || !linkExists s l || s.sys.boot = .halt then s
  else
    let s := { s with eth := { s.eth with up := setBit s.eth.up l true }
                      pins := { s.pins with portClk := setNth s.pins.portClk (l / 8) true } }
    portReturns (l / 8) (if s.sys.transport then notifyLink 0x0002 l s else s)

def execLinkUp (l : Fin 16) (s : State) : Host.Outcome State Fault Refusal := .next (linkReturns l.val s)

/-- PORT_REFCLK_LOSS: the port fails as a host port, a DEGRADE fault of its clock's source (Table PK-7, R111). -/
def execPortRefclkLoss (port : Fin 2) (s : State) : Host.Outcome State Fault Refusal :=
  let p := port.val
  .next (if s.pins.portClk.getD p true then
      let s := { s with pins := { s.pins with portClk := setNth s.pins.portClk p false } }
      portFails p true (raise (portSource p true) (lineFault (portSource p true) 10 0xFF p) s)
    else s)

/-- The links that train when the ports come up: those that exist in the mode in force, on a port whose clock runs. -/
def trainPorts (s : State) : State :=
  { s with eth := { s.eth with
      up := (List.range 16).foldl (fun a n =>
        if linkExists s n && s.pins.portClk.getD (n / 8) true then setBit a n true else a) 0 } }

/-! ### Priority flow control (R88) -/

/-- Quanta of an XOFF and of an XON. -/
def pauseQuanta (xoff : Bool) : Nat := if xoff then 0xFFFF else 0

/-- A pause frame leaves on every link of a port that is up; no pause stops it. -/
def sendPause (p : Nat) (xoff : Bool) (s : State) : State :=
  ((portLinks p).filter (linkUp s)).foldl (fun s l =>
    let d : Down := { link := l, flags := 0, inst := 0, slot := 0, seq := 0, ack := 0, block := 0, time := now32 s
                      echo := 0, incarn := s.sys.incarn, body := .pause (pauseQuanta xoff) (pfcPriority s)
                      trailer := none, dst := none, buf := none, out := none }
    transmit d s) s

/-- Landing buffers free for the ingress of a half: the pool's, or those of the hold list in DOZE and STOW (R399). -/
def landingFree (s : State) (half : Nat) : Nat :=
  if 2 ≤ s.pwr.state then (s.pwr.holdLists.getD half []).length else poolFree s half

/-- Too few landing buffers are left for the ingress of a half (R88, R399). -/
def landingShort (s : State) (half : Nat) : Bool := landingFree s half < (if 2 ≤ s.pwr.state then 128 else 1024)

/-- XOFF goes out below 1024 free landing buffers, in DOZE and STOW below 128; XON above 2048, and at the exit where XOFF
was sent (R88, R399). -/
def flowControl (p : Nat) (s : State) : State :=
  if !pfcOn s || s.sys.boot = .halt then s
  else
    let free := landingFree s p
    let on := s.pins.xoff.getD p false
    if !on && landingShort s p then
      sendPause p true { s with pins := { s.pins with xoff := setNth s.pins.xoff p true } }
    else if on && s.pwr.state < 2 && 2048 < free then
      sendPause p false { s with pins := { s.pins with xoff := setNth s.pins.xoff p false } }
    else s

/-- XOFF_REFRESH: every 20 µs while too few landing buffers are free (R88). -/
def execXoffRefresh (port : Fin 2) (s : State) : Host.Outcome State Fault Refusal :=
  .next (if pfcOn s && s.sys.boot != .halt && s.pins.xoff.getD port.val false && landingShort s port.val then
      sendPause port.val true s
    else s)

/-- Frames that waited for a link leave, oldest first. -/
def flushPaused (l : Nat) (s : State) : State :=
  let go := s.pins.pauseQ.filter fun d => d.link = l
  let s := { s with pins := { s.pins with pauseQ := s.pins.pauseQ.filter (fun d => d.link != l)
                                          paused := s.pins.paused.filter fun p => p.1 != l } }
  go.foldl (fun s d => emit d s) s

/-- Time of a pause in ns: a quantum is the time of 512 bits on the link. -/
def pauseNs (s : State) (l quanta : Nat) : Nat := ceilDiv (quanta * 512) (linkGbps (portMode s (l / 8)))

/-- PAUSE_FRAME: honoured for the configured priority only; 0 quanta resumes the link (R88). Without the option the frame
is of another EtherType and is dropped silently (R89). -/
def pauseFrame (l : Nat) (priority quanta : Nat) (s : State) : State :=
  if !linkUp s l then s
  else
    let s := countIn l 64 s
    if !pfcOn s then silentDrop l s
    else if priority != pfcPriority s then s
    else if quanta = 0 then flushPaused l s
    else { s with pins := { s.pins with paused := amSet s.pins.paused l (s.quartz + pauseNs s l quanta) } }

def execPauseFrame (l : Fin 16) (priority : BitVec 3) (quanta : U16) (s : State) : Host.Outcome State Fault Refusal :=
  .next (pauseFrame l.val priority.toNat quanta.toNat s)

/-! ### Address resolution (R82, R89, R91) -/

/-- An answer outside the sequence spaces, on the link the request came from. -/
def answer (l : Nat) (body : Body) (dst : Source) (s : State) : State :=
  emit { link := l, flags := 0, inst := 0, slot := 0, seq := 0, ack := 0, block := 0, time := now32 s, echo := 0,
         incarn := s.sys.incarn, body := body, trailer := none, dst := some dst, buf := none, out := none } s

/-- An ARP request is answered for the link's IPv4 address under the VLAN rule; every other request is dropped silently
(R89, R91). In LODESTONE no ARP request is answered (R82). -/
def arpRequest (l : Nat) (target : BitVec 32) (vlan : Option U16) (src : Source) (s : State) : State :=
  if s.sys.boot != .lodestone && vlanOk s vlan && linkIp4 s l = some target && target != 0 then
    answer l (.arp target) src s
  else silentDrop l s

/-- An ICMPv6 Neighbor Solicitation is answered for the link's IPv6 address under the VLAN rule (R91); in LODESTONE with
DIAG_UDP = 1 for the link-local address of the factory MAC, with or without one tag (R82). -/
def neighborSolicitation (l : Nat) (target : BitVec 128) (vlan : Option U16) (src : Source) (s : State) : State :=
  let ok := if s.sys.boot = .lodestone then
      s.sys.straps.getLsbD 3 && target = linkLocal (factoryMac s l)
    else vlanOk s vlan && linkIp6 s l = some target && target != 0
  if ok then answer l (.neighbor target) src s else silentDrop l s

/-- SILENTLY_DROPPED_FRAME, with the uncorrectable FEC codewords that it holds (R85, R86, R89, R92, R115). -/
def execSilentlyDroppedFrame (l : Fin 16) (f : Dropped) (s : State) : Host.Outcome State Fault Refusal :=
  .next (if linkUp s l.val then
      silentDrop l.val (tally noInst 0x0100 (8 * l.val + 6) f.badCodewords (countIn l.val f.bytes.toNat s))
    else s)

/-! ### ETH registers -/

/-- ETH registers by offset in the block, but for the counters whose read clears. -/
def ethRead (off : Nat) (s : State) : Option Nat :=
  if off = 0x00 then some (s.eth.p0mode + s.eth.p1mode * 8 + flag s.eth.pfc 6 + s.eth.encap * 128)
  else if off = 0x04 then some (s.eth.up + s.eth.wentDown * 2 ^ 16)
  else if off = 0x08 then some (s.eth.rtoUs + s.eth.gapHoldUs * 2 ^ 12 + s.eth.ackDelayUs * 2 ^ 24)
  else if off = 0x18 then some (flag s.eth.ovfSilent 0 + flag s.eth.ovfRej 1)
  else none

/-- A write of ETH_TIMERS: a field out of range leaves the register unchanged. -/
def ethTimers (v : Nat) (s : State) : State :=
  let rto := bits v 0 12
  let gap := bits v 12 12
  let ack := bits v 24 4
  if 10 ≤ rto && rto ≤ 4000 && 50 ≤ gap && gap ≤ 4000 && 1 ≤ ack then
    { s with eth := { s.eth with rtoUs := rto, gapHoldUs := gap, ackDelayUs := ack } }
  else regRefused 0x00F00008 v s

/-- Writes of ETH registers; none where the register takes no write. -/
def ethWrite (off v : Nat) (s : State) : Option State :=
  if off = 0x04 then
    some { s with eth := { s.eth with
      wentDown := (List.range 16).foldl (fun a n => if bit v (16 + n) then setBit a n false else a) s.eth.wentDown } }
  else if off = 0x08 then some (ethTimers v s)
  else if off = 0x18 then
    some { s with eth := { s.eth with ovfSilent := s.eth.ovfSilent && !bit v 0, ovfRej := s.eth.ovfRej && !bit v 1 } }
  else none

end Sys2Proof.Machine
end

