-- ==== Sys2Proof/Machine/Trust.lean ====
section
/-! DEFINITION. Lanes and Keccak units (R309–R313), the random source (R314, R315), identity and attestation (R316–R320),
test keys and lane tests, and the CPH and KEC registers. -/

namespace Sys2Proof.Machine

open Sys2Proof

/-! ### Fences -/

/-- A lane is lost: its block is reissued to another, so its redundancy is restored in the same update (R29, R311). -/
def fenceLane (n : Nat) (s : State) : State :=
  if s.cph.fenced.testBit n then s
  else restoredOrHeld n { s with cph := { s.cph with fenced := setBit s.cph.fenced n true } }

/-- A Keccak unit is fenced; its messages run on another (R313). -/
def fenceKeccak (u : Nat) (s : State) : State :=
  { s with kec := { s.kec with fenced := setBit s.kec.fenced u true } }

/-- A lane serves: it is not fenced. -/
def laneUp (s : State) (n : Nat) : Bool := !s.cph.fenced.testBit n

/-! ### Test keys and lane tests -/

/-- A write of CPH_KCMD: it takes effect with KEY, in test mode, on a slot that no created instance is assigned; every
write zeroes CPH_KDATA. -/
def cphKcmd (v : Nat) (s : State) : State :=
  let cmd := bits v 0 2
  let n := s.cph.ksel
  let key := s.cph.kdata
  let ok := bits v 16 16 = 0x4B59 && s.kec.testen && !slotAssigned s n && (cmd = 1 || cmd = 2)
  let s := { s with cph := { s.cph with kdata := 0 } }
  if !ok then regRefused 0x00A00060 v s
  else if cmd = 1 then { s with cph := { s.cph with testKeys := amSet s.cph.testKeys n key } }
  else { s with cph := { s.cph with testKeys := amErase s.cph.testKeys n } }

/-- GCM of CPH_TVEC under a key: nonce in bytes 0–11, length in bytes 12–15, then the input, which the ciphertext and its
tag replace. -/
def tvecSeal (key : BitVec 256) (tv : BitVec 8192) : BitVec 8192 :=
  let b := bytesOf 1024 tv
  let n := ofLeBytes ((b.drop 12).take 4)
  let c := gcmSeal (bytesOf 32 key) (b.take 12) ((b.drop 16).take n)
  BitVec.ofNat 8192 (ofLeBytes (b.take 16 ++ c.1 ++ c.2 ++ b.drop (32 + n)))

/-- A write of CPH_LANETEST. GO runs a test in test mode; a test of a lane, length or key that does not exist is ignored
(log entry 29). -/
def cphLaneTest (v : Nat) (pass : Bool) (s : State) : State :=
  let lane := bits v 0 8
  let mode := bit v 8
  let s := { s with cph := { s.cph with lane := lane, mode := mode } }
  if !bit v 9 then s
  else if !s.kec.testen || 192 ≤ lane then regRefused 0x00A00064 v s
  else if !mode then { s with cph := { s.cph with pass := pass } }
  else
    let n := bits s.cph.tvec.toNat 96 32
    match amGet? s.cph.testKeys s.cph.ksel with
    | none => regRefused 0x00A00064 v s
    | some k =>
      if 992 < n || 184 ≤ lane || slotAssigned s s.cph.ksel then regRefused 0x00A00064 v s
      else { s with cph := { s.cph with tvec := tvecSeal k s.cph.tvec } }

/-! ### The random source -/

/-- A health window fails: counted in KEC_TRNGFAIL; a repetition failure, or a second failure within 1 s, makes the source
FAILED, a DEGRADE fault (R315). -/
def trngFail (repetition : Bool) (s : State) : State :=
  let wraps := s.kec.trngfail = 0xFFFFFFFF
  let second := s.kec.lastFail.any fun t => s.quartz < t + 1000000000
  let fails := (repetition || second) && !s.kec.trngFailed
  let s := { s with kec := { s.kec with trngfail := (s.kec.trngfail + 1) % 2 ^ 32, ovfTrng := s.kec.ovfTrng || wraps
                                        lastFail := some s.quartz, trngFailed := s.kec.trngFailed || fails } }
  let s := if wraps then wrapEvent 0x00B0000C s else s
  let s := tally noInst 0x0106 7 1 s
  if fails then raise noSource (ruleFault kFault sevDegrade noSource noInst []) s else s

/-- The start-up test of the source passes: a FAILED source is OK again, with a NOTICE record (R315). -/
def trngPass (s : State) : State :=
  if s.kec.trngFailed then notice kCrypto [] { s with kec := { s.kec with trngFailed := false } } else s

/-! ### Identity -/

def dikPublic : List Byte := Config.mldsaPublic (kmac256 Config.dus [] 32 "ETZ-DIK")
def dakSeed (s : State) : List Byte := kmac256 Config.dus (bytesOf 64 s.sys.fwMeas) 32 "ETZ-DAK"
def dakPublic (s : State) : List Byte := Config.mldsaPublic (dakSeed s)

/-- Fit bytes to a size. -/
def fit (n : Nat) (b : List Byte) : List Byte := b.take n ++ List.replicate (n - b.length) 0

/-- Bytes 0x000–0x87F of the DAK certificate (Table TR-9). -/
def dakBody (s : State) : List Byte :=
  leBytes 4 0x495A5445 ++ leBytes 2 1 ++ leBytes 2 4 ++ bytesOf 8 s.sys.serial ++ shake256 (fit 1952 dikPublic) 32 ++
    leBytes 16 0 ++ fit 1952 (dakPublic s) ++ bytesOf 64 s.sys.fwMeas ++ bytesOf 64 s.sys.cfgMeas ++
    bytesOf 4 Config.sysIdent ++ leBytes 4 (fwVersion s s.cfl.running) ++ leBytes 4 s.img.version ++
    bytesOf 4 s.img.operatorId ++ fit 8 s.sys.bootId ++ leBytes 8 0

/-- R317: BOOT_ID is drawn, and the DAK certificate formed where the DIK matches its certificate; else a DEGRADE record. -/
def formIdentity (dikOk : Bool) (s : State) : State :=
  let (b, s) := drawBytes 8 s
  let s := { s with sys := { s.sys with bootId := b } }
  if dikOk then
    let (rnd, s) := drawBytes 32 s
    let body := dakBody s
    let seed := kmac256 Config.dus [] 32 "ETZ-DIK"
    let cert := body ++ fit 3309 (Config.mldsaSign seed "ETZ-CRT" body rnd) ++ leBytes 3 0
    { s with kec := { s.kec with identity := true, dakCert := cert } }
  else
    event kCrypto sevDegrade noSource noInst [] { s with kec := { s.kec with identity := false, dakCert := [] } }

/-- The chain that CERT_READ returns (R318). -/
def certChain (s : State) : List Byte := fit 10976 Config.identityChain ++ s.kec.dakCert

/-! ### Attestation -/

/-- Instance part of a report, bytes 0x0EA–0x12F (Table TR-11). -/
def reportInst (s : State) (i : Nat) (x : Inst) : List Byte :=
  let key := match x.cmd with
    | some k => kmac256 (bytesOf 32 k.key) (leBytes 2 i ++ leBytes 1 k.gen) 32 "ETZ-KID"
    | none => leBytes 32 0
  let owners := ((amGet? s.slt.pools x.pool).map (·.owners.length)).getD 0
  leBytes 1 (genInForce x) ++ leBytes 1 owners ++ leBytes 2 x.keys.length ++ leBytes 2 x.pool ++ key ++
    shake256 (leBytes 208 x.params.raw) 32

/-- Bytes 0x000–0x13F of a report, captured in the update of the GO write (R319). -/
def reportHead (s : State) (i : Nat) : List Byte :=
  let x := if i = noInst then none else inst? s i
  leBytes 4 0x415A5445 ++ leBytes 2 1 ++
    leBytes 2 (flag x.isSome 0 + flag (degraded s) 1 + flag s.med.preserve 2 + flag s.sys.replayHeld 3) ++
    bytesOf 32 s.kec.nonce ++ bytesOf 8 s.sys.serial ++ fit 8 s.sys.bootId ++ leBytes 8 s.quartz ++
    leBytes 8 s.slt.epoch ++ bytesOf 64 s.sys.fwMeas ++ bytesOf 64 s.sys.cfgMeas ++
    shake256 (fit 1952 (dakPublic s)) 32 ++ leBytes 2 i ++
    (match x with
      | some y => reportInst s i y
      | none => leBytes 70 0) ++ leBytes 16 0

/-- A write of KEC_ATTREQ (R319). -/
def kecAttReq (v : Nat) (s : State) : State :=
  if bit v 16 && s.kec.busy then regRefused 0x00B00018 v s
  else
    let s := { s with kec := { s.kec with attInst := bits v 0 16 } }
    if !bit v 16 then s
    else if s.kec.trngFailed then { s with kec := { s.kec with done := false, error := 1 } }
    else if !s.kec.identity then { s with kec := { s.kec with done := false, error := 2 } }
    else keccakMsg true
      { s with kec := { s.kec with done := false, error := 0, busy := true, capture := reportHead s (bits v 0 16) } }

/-- The DAK signature completes and the report is whole (R319, Table TR-12). -/
def attDone (s : State) : State :=
  if !s.kec.busy then s
  else
    let (rnd, s) := drawBytes 32 s
    let sig := fit 3309 (Config.mldsaSign (dakSeed s) "ETZ-ATT" s.kec.capture rnd)
    tally noInst 0x0106 8 1 { s with kec := { s.kec with
      busy := false, done := true, report := s.kec.capture ++ sig ++ leBytes 3 0 } }

/-! ### Registers -/

/-- CPH registers by offset in the block, but for the counters whose read clears. -/
def cphRead (off : Nat) (s : State) : Option Nat :=
  if off < 0x18 && off % 4 = 0 then some (bits s.cph.fenced (8 * off) 32)
  else if off = 0x28 then some (flag s.cph.ovfTag 0 + flag s.cph.ovfSeal 1)
  else if off = 0x30 then some s.cph.ksel
  else if 0x40 ≤ off && off < 0x60 && off % 4 = 0 then some 0
  else if off = 0x60 then some 0
  else if off = 0x64 then some (s.cph.lane + flag s.cph.mode 8 + flag s.cph.pass 10)
  else if 0x100 ≤ off && off < 0x200 && off % 4 = 0 then
    let w := (off - 0x100) / 4
    some (sumNat ((List.range 32).map fun b => flag (slotOccupied s (32 * w + b)) b))
  else if 0x400 ≤ off && off < 0x800 && off % 4 = 0 then some (bits s.cph.tvec.toNat (8 * (off - 0x400)) 32)
  else none

/-- Writes of CPH registers; none where the register takes no write. A KAT by REG_WRITE draws its outcome (log entry 22). -/
def cphWrite (off v : Nat) (s : State) : Option State :=
  if off = 0x28 then
    some { s with cph := { s.cph with ovfTag := s.cph.ovfTag && !bit v 0, ovfSeal := s.cph.ovfSeal && !bit v 1 } }
  else if off = 0x30 then some { s with cph := { s.cph with ksel := bits v 0 11 } }
  else if 0x40 ≤ off && off < 0x60 && off % 4 = 0 then
    some { s with cph := { s.cph with kdata := setWord s.cph.kdata ((off - 0x40) / 4) v } }
  else if off = 0x60 then some (cphKcmd v s)
  else if off = 0x64 then
    let (b, s') := drawBit s
    some (if bit v 9 && !bit v 8 then cphLaneTest v b s' else cphLaneTest v false s)
  else if 0x400 ≤ off && off < 0x800 && off % 4 = 0 then
    some { s with cph := { s.cph with tvec := setWord s.cph.tvec ((off - 0x400) / 4) v } }
  else none

/-- KEC registers by offset in the block, but for the counters whose read clears. -/
def kecRead (off : Nat) (s : State) : Option Nat :=
  if off = 0x00 then some (s.kec.fenced + s.kec.suspended * 16)
  else if off = 0x04 then some s.kec.grace
  else if off = 0x08 then some (flag s.kec.trngFailed 0 + flag s.kec.identity 1)
  else if off = 0x14 then some (flag s.kec.ovfTrng 0 + flag s.kec.ovfAuth 1)
  else if off = 0x18 then some 0
  else if off = 0x1C then some (flag s.kec.busy 0 + flag s.kec.done 1 + s.kec.error * 4)
  else if off = 0x20 then some (flag s.kec.testen 0)
  else if 0x40 ≤ off && off < 0x60 && off % 4 = 0 then some (bits s.kec.nonce.toNat (8 * (off - 0x40)) 32)
  else if 0x1000 ≤ off && off < 0x2000 && off % 4 = 0 then some (ofLeBytes ((s.kec.report.drop (off - 0x1000)).take 4))
  else none

/-- Writes of KEC registers; none where the register takes no write. -/
def kecWrite (off v : Nat) (s : State) : Option State :=
  if off = 0x04 then
    some (if bits v 0 14 ≤ 10000 then { s with kec := { s.kec with grace := bits v 0 14 } } else regRefused 0x00B00004 v s)
  else if off = 0x14 then
    some { s with kec := { s.kec with ovfTrng := s.kec.ovfTrng && !bit v 0, ovfAuth := s.kec.ovfAuth && !bit v 1 } }
  else if off = 0x18 then some (kecAttReq v s)
  else if off = 0x20 then
    some (if bits v 16 16 = 0x7E5C then { s with kec := { s.kec with testen := bit v 0 } } else regRefused 0x00B00020 v s)
  else if 0x40 ≤ off && off < 0x60 && off % 4 = 0 then
    some { s with kec := { s.kec with nonce := setWord s.kec.nonce ((off - 0x40) / 4) v } }
  else none

/-! ### Commands -/

/-- TRNG_HEALTH_WINDOW (R315). -/
def execTrngHealthWindow (repetitionOk proportionOk : Bool) (s : State) : Host.Outcome State Fault Refusal :=
  .next (if repetitionOk && proportionOk then s else trngFail (!repetitionOk) s)

/-- TRNG_RETEST: a FAILED source whose start-up test passes becomes OK, with a NOTICE record (R315). -/
def execTrngRetest (pass : Bool) (s : State) : Host.Outcome State Fault Refusal :=
  .next (if pass then trngPass s else s)

/-- MASK_RESEED: the mask generator of a half takes fresh seed, unless the source is FAILED (R314, R315). -/
def execMaskReseed (half : Fin 2) (s : State) : Host.Outcome State Fault Refusal :=
  .next (if s.kec.trngFailed then s
    else { s with kec := { s.kec with seeds := modNth s.kec.seeds half.val (· + 1) }, free := s.free + 1 })

/-- GRACE_PERIOD_END: the previous generation is no longer accepted (R302). -/
def execGracePeriodEnd (i : Fin 1024) (s : State) : Host.Outcome State Fault Refusal :=
  .next (modInst i.val (fun x => { x with graceEnd := none }) s)

/-- ATTESTATION_REQUEST: a write of KEC_ATTREQ (R319). -/
def execAttestationRequest (v : U32) (s : State) : Host.Outcome State Fault Refusal := .next (kecAttReq v.toNat s)

/-- ATTESTATION_DONE (R319). -/
def execAttestationDone (s : State) : Host.Outcome State Fault Refusal := .next (attDone s)

/-- INSTALL_TEST_KEY: CPH_KCMD command 1. -/
def execInstallTestKey (v : U32) (s : State) : Host.Outcome State Fault Refusal := .next (cphKcmd v.toNat s)

/-- ZERO_SLOT: CPH_KCMD command 2. -/
def execZeroSlot (v : U32) (s : State) : Host.Outcome State Fault Refusal := .next (cphKcmd v.toNat s)

/-- LANE_TEST: a write of CPH_LANETEST, with the outcome of the known-answer test. -/
def execLaneTest (v : U32) (katPass : Bool) (s : State) : Host.Outcome State Fault Refusal :=
  .next (cphLaneTest v.toNat katPass s)

end Sys2Proof.Machine
end

