-- ==== Sys2Proof/Machine/Power.lean ====
section
/-! DEFINITION. The operating point (R230, R231, R360), temperatures and the thermal step (R405–R408), the derate step
(R233), the power states' entries, refusals and wakes (R392–R404), and the PWR, THM and QTZ registers. -/

namespace Sys2Proof.Machine

open Sys2Proof

/-! ### Derate step -/

/-- The step that thermal manager, FORCE and the handshake cycle give together (R231, R233). -/
def wantedStep (s : State) : Nat := max (max s.qtz.thermal s.qtz.force) (if s.sys.cycleDerate then 1 else 0)

/-- NOTIFY DERATE to every instance in service. -/
def notifyDerate (arg1 : Nat) (s : State) : State :=
  forInsts (fun i s => match inst? s i with
    | some x => if inService x then notify i 0x0009 s.qtz.step arg1 0 s else s
    | none => s) s

/-- Every bucket's base moves to now: credit before a change of factor is computed at the old factor (R233). -/
def rebaseAll (s : State) : State := { s with insts := s.insts.map fun p => (p.1, rebase s p.2) }

/-- First cause of an exit or refusal, in PWR_LASTWAKE, PWR_WAKETIME and a POWER record (R404). -/
def recordWake (src detail from' : Nat) (s : State) : State :=
  notice kPower [src, detail] { s with pwr := { s.pwr with
    wakeSource := src, wakeDetail := detail % 256, wakeFrom := from', wakeTime := s.quartz } }

/-- A wake in DOZE or STOW starts the exit; of several causes at one time the lowest code is recorded (R404). -/
def wake (src detail : Nat) (s : State) : State :=
  if s.pwr.state < 2 then s
  else if s.pwr.phase = 5 then
    (if s.pwr.wakeTime = s.quartz && src < s.pwr.wakeSource then
      { s with pwr := { s.pwr with wakeSource := src, wakeDetail := detail % 256 } } else s)
  else
    tally noInst 0x0109 5 1 (recordWake src detail s.pwr.state
      { s with pwr := { s.pwr with phase := 5, exitCause := some src } })

/-- A change of derate step: step, floors and token factor in one update; NOTIFY DERATE at once, or when acceptance opens
(R233). -/
def setDerate (s : State) : State :=
  let n := wantedStep s
  if n = s.qtz.step then s
  else
    let s' := rebaseAll s
    let s' := tally noInst 0x0101 6 1 { s' with qtz := { s'.qtz with step := n } }
    let s' := notice kThermal [] s'
    let s' := if s.qtz.step < n then turnAll .other .derate s' else turnAll .derate .other s'
    if s'.sys.open' then notifyDerate 0 s' else { s' with qtz := { s'.qtz with unsent := true } }

/-! ### Operating point -/

/-- TBAND of a junction temperature in quarter °C: a band's lower bound belongs to the band below it (Table LT-8). -/
def tbandOf (j : Int) : Nat :=
  if j ≤ 0 then 0 else if j ≤ 200 then 1 else if j ≤ 340 then 2 else if j ≤ 420 then 3 else if j ≤ 500 then 4
  else if j ≤ 540 then 5 else if j ≤ 580 then 6 else if j ≤ 600 then 7 else 8

/-- Lowest request of a band in mV (Table LT-8). -/
def lowestMv (band : Nat) : Nat := nthNat [740, 720, 720, 730, 750, 780, 780, 800, 800] band

/-- Access-delay units of a band and a voltage (Table CF-3). -/
def adelayOf (band mv : Nat) : Nat :=
  if mv < 720 then nthNat [10, 9, 9, 10, 11, 12, 13, 14, 16] band
  else if mv < 780 then nthNat [8, 7, 7, 8, 9, 10, 11, 12, 14] band
  else nthNat [7, 6, 6, 7, 8, 9, 10, 11, 12] band

/-- Firmware raises UNITS before a lower request (R360). -/
def raiseAdelay (s : State) : State :=
  { s with cfl := { s.cfl with adelay := max s.cfl.adelay (adelayOf s.sys.tband (min s.sys.vreq s.sys.vack)) } }

/-- Cycle above which the request rises, in ps: 900, and 1400 in TRIM (R230, R394). -/
def cycleHigh (s : State) : Nat := if s.pwr.state = 1 then 1400 else 900

/-- Cycle below which ten readings lower the request: 800, and in TRIM one the spec does not state (R230; log entry 30). -/
def cycleLow (s : State) : Nat := if s.pwr.state = 1 then Config.trimLowPs else 800

/-- Lowest request that the power state and the temperature band in force allow: 0.72 V and the band's minimum, in TRIM
0.68 V (R21, R230, R394). -/
def floorMv (s : State) : Nat := if s.pwr.state = 1 then 680 else max 720 (lowestMv s.sys.tband)

/-- The voltage that a reading asks for (R230): 5 mV up for each 10 ps above, 5 mV down after 10 low readings; within
0.72–0.85 V, in TRIM from 0.68 V, and never below the band's minimum. A rise by the cycle is at most 25 mV a reading; a
rise to the floor takes as many requests as its 25 mV steps need (R45; DESIGN CHOICE: R230 does not say how a rise of the floor
by more than one step is requested; log entry 134). -/
def nextVreq (s : State) (cycle low : Nat) : Nat :=
  let v := if cycleHigh s < cycle then s.sys.vreq + min 25 ((cycle - cycleHigh s) / 10 * 5)
    else if 10 ≤ low then s.sys.vreq - 5 else s.sys.vreq
  if v < floorMv s then floorMv s else min 850 v

/-- The AVSBus requests that lead from one voltage to another, none a step of more than 25 mV (R45). `n` bounds them. -/
def vPath : Nat → Nat → Nat → List Nat
  | 0, _, _ => []
  | n + 1, v, goal =>
    if v = goal then []
    else
      let w := if v < goal then min goal (v + 25) else max goal (v - 25)
      w :: vPath n w goal

/-- The request goes to a voltage, step by step, and the access delay rises first (R45, R360). None leaves once AVSBus has
failed (R46), nor in a dump before its end marker (R415). -/
def requestTo (mv : Nat) (s : State) : State :=
  if s.sys.avsStopped || (s.sys.boot = .dump && !s.sys.dumpMarker) || mv = s.sys.vreq then s
  else raiseAdelay { s with sys := { s.sys with vreq := mv, vsteps := vPath 64 s.sys.vreq mv } }

/-- A DEGRADE fault and derate step 1 while the cycle passes 0.96 ns at 0.85 V and 125 °C or less; the step ends once the
cycle has been at or below 0.96 ns for 1 s (R231). -/
def cycleCheck (cycle : Nat) (s : State) : State :=
  if 960 < cycle then
    let s := { s with sys := { s.sys with cycleOkSince := none } }
    if s.sys.vreq = 850 && s.thm.junction ≤ 500 && !s.sys.cycleDerate then
      setDerate (raise noSource (ruleFault kFault sevDegrade noSource noInst [cycle])
        { s with sys := { s.sys with cycleDerate := true } })
    else s
  else
    let since := s.sys.cycleOkSince.getD s.quartz
    if s.sys.cycleDerate && since + 1000000000 ≤ s.quartz then
      setDerate { s with sys := { s.sys with cycleDerate := false, cycleOkSince := some since } }
    else { s with sys := { s.sys with cycleOkSince := some since } }

/-- OPERATING_POINT_ADJUST: a reading of SYS_HSCYCLE (R230, R231). No request leaves once AVSBus has failed (R46), nor
outside RUN: a dump makes none (R415) and LODESTONE holds 0.80 V (Table SU-10). -/
def execOperatingPointAdjust (cyclePs : U16) (s : State) : Host.Outcome State Fault Refusal :=
  let c := cyclePs.toNat
  let low := if c < cycleLow s then s.sys.lowReadings + 1 else 0
  let v := if s.sys.avsStopped || 2 ≤ s.pwr.state || s.sys.boot != .run then s.sys.vreq else nextVreq s c low
  .next (cycleCheck c (raiseAdelay (requestTo v { s with sys := { s.sys with
    cyclePs := c, lowReadings := if 10 ≤ low then 0 else low } })))

/-- AVSBUS_ACKNOWLEDGE: VACK_MV is updated, and firmware may lower the access delay (R360). -/
def execAvsbusAcknowledge (mv : Nat) (s : State) : Host.Outcome State Fault Refusal :=
  .next { s with sys := { s.sys with vack := mv % 1024, avsFails := 0 }
                 cfl := { s.cfl with adelay := adelayOf s.sys.tband (min s.sys.vreq (mv % 1024)) } }

/-- AVSBUS_TRANSACTION_FAIL: the third failure in a row is a DEGRADE fault; no further request leaves (R46). -/
def execAvsbusTransactionFail (s : State) : Host.Outcome State Fault Refusal :=
  let n := s.sys.avsFails + 1
  let s := { s with sys := { s.sys with avsFails := n } }
  .next (if n = 3 && !s.sys.avsStopped then
      raise 0x174 (lineFault 0x174 10 0x1B 0) { s with sys := { s.sys with avsStopped := true, vreq := s.sys.vack } }
    else s)

/-- PMB_ALERT: a DEGRADE fault whose record carries the status word (R46). -/
def execPmbAlert (status : U16) (s : State) : Host.Outcome State Fault Refusal :=
  .next (raise 0x175 { (lineFault 0x175 10 0x1B 0) with payload := status.toNat } s)

/-! ### Temperatures -/

/-- Group of an input in Table PK-11: 0 NAND, 1 DRAM, 2 supply. -/
def thmGroup (n : Nat) : Nat := if n < 16 then 0 else if n < 22 then 1 else 2

/-- A limit of an input's group in quarter °C: 0 WARN, 1 THR1, 2 THR2, 3 CRIT; none before an image gives limits. -/
def groupLimit (s : State) (n k : Nat) : Option Int :=
  (s.img.sensors.limits[4 * thmGroup n + k]?).map fun c => 4 * (c : Int)

/-- Junction limits in quarter °C (Table PW-8). -/
def junctionLimit (k : Nat) : Option Int := ([500, 540, 580, 600][k]?).map fun c => (c : Int)

/-- Step of a reading: the highest limit it lies above (Table PW-8). -/
def stepOf (limit : Nat → Option Int) (t : Int) : Nat :=
  (List.range 4).foldl (fun a k => match limit k with
    | some l => if l < t then k + 1 else a
    | none => a) 0

def sensor (s : State) (n : Nat) : Sensor := s.thm.sensors.getD n coldSensor

def modSensor (n : Nat) (f : Sensor → Sensor) (s : State) : State :=
  { s with thm := { s.thm with sensors := modNth s.thm.sensors n f } }

/-- Readings that count: the junction (31) and the inputs in use, with their limits. -/
def readings (s : State) : List (Nat × Int × Nat) :=
  (31, s.thm.junction, stepOf junctionLimit s.thm.junction) ::
    ((List.range 24).filter fun n => (sensor s n).st != 0).map fun n =>
      (n, (sensor s n).temp, stepOf (groupLimit s n) (sensor s n).temp)

/-- The thermal step rises at the measurement whose reading exceeds a limit; it wakes the device (R404, R407). -/
def thermalRise (s : State) : State :=
  let best := (readings s).foldl (fun (a : Nat × Nat) r => if a.2 < r.2.2 then (r.1, r.2.2) else a) (31, 0)
  if s.thm.step < best.2 then
    wake 6 best.2 (setDerate { s with thm := { s.thm with step := best.2, by' := best.1 },
                                      qtz := { s.qtz with thermal := best.2 } })
  else s

/-- Every reading that could hold the step is at least 3 °C below its limit (R407). -/
def stepCool (s : State) : Bool :=
  let k := s.thm.step - 1
  let low := fun (l : Option Int) (t : Int) => match l with
    | some l => t ≤ l - 12
    | none => true
  low (junctionLimit k) s.thm.junction &&
    (List.range 24).all fun n => (sensor s n).st = 0 || low (groupLimit s n k) (sensor s n).temp

/-- The input that sets a step: the first whose reading gives it, else the one that set the step before (THM_STEP.BY). -/
def stepBy (s : State) (step : Nat) : Nat := (((readings s).find? fun r => step ≤ r.2.2).map (·.1)).getD s.thm.by'

/-- THERMAL_STEP_FALL: the readings have stayed 3 °C below the limit for 500 ms; the step falls by one (R407). -/
def execThermalStepFall (s : State) : Host.Outcome State Fault Refusal :=
  let k := s.thm.step - 1
  .next (if 0 < s.thm.step && stepCool s then
      wake 6 k (setDerate { s with thm := { s.thm with step := k, by' := stepBy s k }, qtz := { s.qtz with thermal := k } })
    else s)

/-- The highest reading since PEAK was read, with one more. -/
def peakWith (t : Int) (s : State) : Option Int := some (match s.thm.peak with
  | none => t
  | some p => max p t)

/-- Shutdown at a junction reading: HALT of source 0x176 whose record carries the reading; every domain but AON is gated
and the core regulator commanded off (R408). -/
def shutdownAt (reading : Int) (s : State) : State :=
  raise 0x176 { (lineFault 0x176 10 0x1B 0) with payload := (reading % 2 ^ 64).toNat }
    { s with pins := { s.pins with coreOff := true }
             thm := { s.thm with junction := reading, peak := peakWith reading s } }

/-- A junction reading above 158 °C shuts the device down at any step of a start and after it (R58, R408, Table PW-8). -/
def shutdownCheck (s : State) : State :=
  if 632 < s.thm.junction && !s.pins.coreOff then shutdownAt s.thm.junction s else s

/-- A junction site reads the higher of its two diodes; a difference above 5 °C is recorded (R405). Firmware raises the access
delay for a new band (R360). -/
def measureSite (n : Nat) (d0 d1 : Int) (s : State) : State :=
  let s := if 20 < (d0 - d1).natAbs then notice kThermal [] s else s
  let sites := setNth s.thm.sites n (max d0 d1)
  let top := sites.foldl max (sites.headD 0)
  let hot := (sites.findIdx? fun t => t = top).getD 0
  shutdownCheck (thermalRise (raiseAdelay { s with
    thm := { s.thm with sites := sites, junction := top, site := hot, peak := peakWith top s }
    sys := { s.sys with tband := tbandOf top } }))

/-- Highest valid reading of the neighbours in number within the group (R406). -/
def neighbourReading (s : State) (n : Nat) : Option Int :=
  ([n - 1, n + 1].filter fun m => m != n && m < 24 && thmGroup m = thmGroup n && (sensor s m).st = 1).foldl
    (fun a m => some (match a with
      | some t => max t (sensor s m).temp
      | none => (sensor s m).temp)) none

/-- The substitute for a broken input (R406). -/
def substitute (s : State) (n : Nat) : Int :=
  let hot := (groupLimit s n 1).getD 0
  if s.img.sensors.policy = 1 then match neighbourReading s n with
    | some t => t + 4 * (s.img.sensors.margin : Int)
    | none => hot
  else hot

/-- The interval shortens to 5 ms while the reading lies within 10 °C below the next limit above it (R405). -/
def isFast (s : State) (n : Nat) (t : Int) : Bool :=
  (List.range 4).any fun k => match groupLimit s n k with
    | some l => t ≤ l && l - 40 ≤ t
    | none => false

/-- One measurement of a remote input. `bad`: 0 valid, 2 open, 3 short. An input declared unused is never measured. -/
def measureInput (n type bad : Nat) (t : Int) (s : State) : State :=
  match s.img.sensors.inputs[n]? with
  | none => s
  | some inp =>
    if inp.type != type then s
    else
      let t := t + inp.offset
      let x := sensor s n
      if bad != 0 then
        let v := substitute s n
        let s := modSensor n (fun x => { x with st := bad, subst := true, temp := v, validRun := 0, fast := isFast s n v }) s
        let s := if x.st = 2 || x.st = 3 then s
          else unrestore (0x130 + n) (raise (0x130 + n) (lineFault (0x130 + n) 10 0xFF n) s)
        thermalRise s
      else if x.st = 2 || x.st = 3 then
        if 9 ≤ x.validRun then
          thermalRise (restored (0x130 + n) (0x130 + n)
            (modSensor n (fun x => { x with st := 1, subst := false, temp := t, validRun := 0, fast := isFast s n t }) s))
        else
          let v := substitute s n
          thermalRise (modSensor n (fun x => { x with validRun := x.validRun + 1, temp := v, fast := isFast s n v }) s)
      else thermalRise (modSensor n (fun x => { x with st := 1, subst := false, temp := t, fast := isFast s n t }) s)

/-- THERMAL_MEASUREMENT (R405–R407). An input held at either limit of its range counts as broken (R426). -/
def execThermalMeasurement (m : Measure) (s : State) : Host.Outcome State Fault Refusal :=
  .next (match m with
    | .site n d0 d1 => measureSite n.val d0 d1 s
    | .diode n mv t => measureInput n.val 1 (if 1000 ≤ mv then 2 else if mv ≤ 100 then 3 else 0) t s
    | .thermistor n ohms t => measureInput n.val 2 (if 500000 ≤ ohms then 2 else if ohms ≤ 50 then 3 else 0) t s)

/-- SHUTDOWN (R408). -/
def execShutdown (reading : Int) (s : State) : Host.Outcome State Fault Refusal := .next (shutdownAt reading s)

/-! ### Power states -/

/-- An entry is under way: WAIT, DRAIN, PREPARE or COMMIT. -/
def inEntry (s : State) : Bool := 1 ≤ s.pwr.phase && s.pwr.phase ≤ 4

/-- A power state that the POWER entry permits. -/
def permitted (s : State) (st : Nat) : Bool := st = 0 || s.img.permit.testBit (st - 1)

/-- Some task of some instance is HELD. -/
def anyHeld (s : State) (p : Task → Bool) : Bool :=
  s.insts.any fun q => q.2.slots.any fun r => match r.2 with
    | .held t => p t
    | .done .. => false

/-- The floors return to their value before the entry; NOTIFY DERATE where that changes them (R395). -/
def dropFloors (st : Nat) (s : State) : State :=
  let before := floorHold s
  let s := { s with pwr := { s.pwr with dozeFloor := false, stowFloor := false } }
  if floorHold s = before then s else notifyDerate st s

/-- TRIM begins or ends in one update: the factors of R394 and DRAM's set point change with it. -/
def setTrim (on : Bool) (s : State) : State :=
  let s := rebaseAll s
  let s := setPoint (if on then 0 else 1) { s with pwr := { s.pwr with state := if on then 1 else 0 } }
  notifyDerate (if on then 1 else 0) s

/-- Leave TRIM at a request for RUN: in RUN the request is at least 0.72 V and the band's minimum (R21, R230). -/
def exitTrim (s : State) : State :=
  let s := setTrim false s
  tally noInst 0x0109 5 1 (recordWake 9 0 1 (requestTo (max s.sys.vreq (floorMv s)) s))

/-- An erase that still runs at the end of DRAIN is suspended and abandoned; its block is erased again (R254, R397). -/
def abandonErases (s : State) : State :=
  { s with med := { s.med with dies := s.med.dies.map fun p => match p.2.op with
    | .erase b => (p.1, { p.2 with op := .idle, phase := .running, eraseQ := b :: p.2.eraseQ })
    | _ => p } }

/-- An entry begins: the floors rise for DOZE and STOW, and STOW starts its DRAIN (R395, R397). -/
def enter (st : Nat) (s : State) : State :=
  let before := floorHold s
  let s := { s with pwr := { s.pwr with
    target := st, fromState := s.pwr.state, phase := if st = 3 then 2 else 1, agreed := 0, reqAt := s.quartz
    pendingReq := none, dozeFloor := decide (st = 2), stowFloor := decide (st = 3)
    dirtyCap := if st = 3 then some 64 else none } }
  let s := if floorHold s = before then s else notifyDerate st s
  if st = 3 then forInsts padInst s else s

/-- A request for RUN that waited takes effect (R401). -/
def takePending (s : State) : State :=
  if s.pwr.pendingReq.isSome then
    let s := { s with pwr := { s.pwr with pendingReq := none } }
    if s.pwr.state = 1 then exitTrim s else s
  else s

/-- What the end of an entry without the state changes in the power manager: floors return, and a request that waited takes
effect (R400, R401). -/
def closeEntry (src detail : Nat) (s : State) : State :=
  let st := s.pwr.target
  let s := recordWake src detail st { s with pwr := { s.pwr with phase := 0, target := 0, agreed := 0, dirtyCap := none } }
  takePending (dropFloors s.pwr.state s)

/-- The entry ends without the state, and the participants resume (R400). -/
def endEntry (src detail : Nat) (s : State) : State := kickAll (closeEntry src detail s)

/-- A write of PWR_REQ (R393, R401). -/
def pwrReq (v : Nat) (s : State) : State :=
  let st := bits v 0 2
  let bad := regRefused 0x00100004 v s
  if bits v 16 16 != 0x50E5 then bad
  else if inEntry s || s.pwr.phase = 5 then
    if st = 0 then { s with pwr := { s.pwr with pendingReq := some 0 } } else bad
  else if st = s.pwr.state || !permitted s st then bad
  else if st = 0 then (if s.pwr.state = 1 then exitTrim s else wake 9 0 s)
  else if 2 ≤ s.pwr.state then bad
  else enter st s

/-- A write of PWR_POLICY (R395). -/
def pwrPolicy (v : Nat) (s : State) : State :=
  let en := bit v 0
  let ms := bits v 1 15
  let t := bits v 16 10
  if ms < 1 || 30000 < ms || t < 1 || 1000 < t || (en && !permitted s 2) then regRefused 0x00100008 v s
  else
    let before := floorHold s
    let s := { s with pwr := { s.pwr with idleEn := en, idleMs := ms, timerS := t } }
    if floorHold s = before then s else notifyDerate 2 s

/-- IDLE_TIMEOUT: the idle policy starts a DOZE entry when nothing is HELD and no apply runs (R396). -/
def execIdleTimeout (s : State) : Host.Outcome State Fault Refusal :=
  .next (if s.sys.boot = .run && s.pwr.idleEn && s.pwr.state < 2 && s.pwr.phase = 0 && s.slt.state != 4 && permitted s 2 &&
      !anyHeld s fun _ => true then enter 2 s else s)

/-- TIMER_WAKE: the power manager wakes the device from DOZE (R396). -/
def execTimerWake (s : State) : Host.Outcome State Fault Refusal :=
  .next (if s.pwr.state = 2 then wake 10 0 s else s)

/-- POWER_POLICY_WRITE: a write of PWR_POLICY (R395). -/
def execPowerPolicyWrite (v : U32) (s : State) : Host.Outcome State Fault Refusal := .next (pwrPolicy v.toNat s)

/-- Order of a domain in Table PW-3. -/
def prepareOrder (d : Nat) : Nat :=
  if d = 14 then 1 else if d = 3 || d = 4 then 2 else if d = 10 then 3 else if d = 8 || d = 9 then 4 else if d = 7 then 5
  else if d = 13 then 6 else if d = 2 then 7 else if d = 11 then 8 else if d = 12 then 9 else 10

/-- A domain is asked in an entry to a state (Table PW-3). -/
def isAsked (st d : Nat) : Bool :=
  let o := prepareOrder d
  o ≤ 9 && (st = 3 || (st = 2 && o != 5) || (st = 1 && (o = 2 || o = 3 || o = 4 || o = 8 || o = 9)))

/-- The domain that refuses by what the state holds, or by its answer, first in PREPARE order (Table PW-3). -/
def refuser (s : State) (o : PrepareOutcome) : Option Nat :=
  let st := s.pwr.target
  let own := [(14, s.cfl.unit0.op.isSome || s.cfl.unit1.op.isSome), (10, !s.med.rebuild.isEmpty),
              (2, s.slt.state = 4 || s.sys.warmDeferred.isSome)]
  let said := match o with
    | .allAgree => []
    | .refusedBy d => [d.val]
  let all := ((own.filter Prod.snd).map Prod.fst ++ said).filter (isAsked st)
  all.foldl (fun a d => match a with
    | none => some d
    | some e => if prepareOrder d < prepareOrder e then some d else a) none

/-- A die runs no program: DRAIN waits for those. -/
def programEnded (d : Die) : Bool := match d.op with
  | .program .. => false
  | .erase _ => d.nested.isNone
  | .idle => true

/-- PREPARE may begin: every task accepted before the request has completed; for STOW, the twin data above 64 MiB and every running
program have ended (R395, R397). -/
def prepareReady (s : State) : Bool :=
  inEntry s && !anyHeld s (fun t => t.acceptTime ≤ s.pwr.reqAt) &&
    (s.pwr.target != 3 || (dirtyBlocks s ≤ 64 * 256 && s.med.dies.all fun p => programEnded p.2))

/-- Buffers of a landing pool for its hold list. -/
def takeHolds (p : Nat) : Nat → State → List Nat × State
  | 0, s => ([], s)
  | n + 1, s => match allocBuf p p false s with
    | (none, s) => ([], s)
    | (some b, s) =>
      let r := takeHolds p n s
      (b :: r.1, r.2)

/-- Hold lists at COMMIT: up to 512 free buffers from pools 0 and 1 (R399). -/
def takeHoldLists (s : State) : State :=
  let a := takeHolds 0 (min 512 (poolFree s 0 - (poolAt s 0).min)) s
  let b := takeHolds 1 (min 512 (poolFree a.2 1 - (poolAt a.2 1).min)) a.2
  { b.2 with pwr := { b.2.pwr with holdLists := [a.1, b.1] } }

/-- Buffers left in the hold lists return to their pools at the exit. -/
def dropHoldLists (s : State) : State :=
  let l := ((s.pwr.holdLists.getD 0 []).map fun b => (0, b)) ++ (s.pwr.holdLists.getD 1 []).map fun b => (1, b)
  freeBufs 0 l { s with pwr := { s.pwr with holdLists := [[], []] } }

/-- COMMIT of DOZE or STOW: pads latched, DRAM in self-refresh, hold lists handed to PORTS; work accepted meanwhile starts
the exit at once (R397–R399, R402, R403). -/
def commitDeep (s : State) : State :=
  let st := s.pwr.target
  let s := takeHoldLists s
  let s := notice kPower [] { s with
    pwr := { s.pwr with state := st, target := 0, phase := 0, agreed := 0
                        retained := decide (st = 3), vreqKept := s.sys.vreq, exitCause := none }
    pins := { s.pins with media := if st = 3 then .latchedStow else .latchedDoze }
    dmc := { s.dmc with chs := s.dmc.chs.map fun c => if c.state = 1 then { c with state := 2 } else c } }
  let s := if st = 3 then requestTo 680 { s with
      mch := { s.mch with enable := false, invDone := false, lines := [], fills := [], locked := 0 } } else s
  if anyHeld s fun _ => true then wake 7 0 s
  else if s.pwr.pendingReq.isSome then wake 9 0 { s with pwr := { s.pwr with pendingReq := none } } else s

/-- COMMIT of TRIM. -/
def commitTrim (s : State) : State :=
  let s := setTrim true (notice kPower [] { s with pwr := { s.pwr with target := 0, phase := 0, agreed := 0 } })
  if s.pwr.pendingReq.isSome then exitTrim { s with pwr := { s.pwr with pendingReq := none } } else s

/-- PREPARE: the participants are asked in order and COMMIT switches the domains, or the first refusal ends the entry
(R397, R400). -/
def prepareEffect (o : PrepareOutcome) (s : State) : State :=
  (if !prepareReady s then s
    else
      let s := if s.pwr.target = 3 then abandonErases s else s
      match refuser s o with
      | some d => tally noInst 0x0109 4 1 (endEntry 4 d s)
      | none => if s.pwr.target = 1 then commitTrim s else commitDeep s)

/-- What the exit of DOZE or STOW restores: domains, pads, floors, and what each domain kept (R395, R400). -/
def restoreDomains (s : State) : State :=
  let was := s.pwr.state
  let back := s.pwr.fromState
  let s := dropHoldLists s
  let s := { s with
    pwr := { s.pwr with state := back, phase := 0, target := 0, exitCause := none, retained := false, dirtyCap := none }
    pins := { s.pins with media := .active }
    dmc := { s.dmc with chs := s.dmc.chs.map fun c =>
      if c.state = 2 then { c with state := 1, sp := if back = 1 then 0 else 1 } else c } }
  let s := if was = 3 then requestTo s.pwr.vreqKept (reloadKeys { s with
      mch := { s.mch with lines := [], fills := [], invDone := true, enable := true } }) else s
  takePending (dropFloors back s)

/-- The exit of DOZE or STOW, after which the participants resume (R400). -/
def leaveDeep (s : State) : State := kickAll (restoreDomains s)

/-- DRAM_REQUEST_IN_SELF_REFRESH: the request starts the exit, naming its port (R331). -/
def execDramRequestInSelfRefresh (port : Fin 8) (s : State) : Host.Outcome State Fault Refusal :=
  .next (wake 5 port.val (tally noInst 0x0103 (96 + port.val) 1 s))

/-! ### Domains and registers -/

/-- PWR_DOMAIN.ON: in DOZE and STOW only AON, PORTS and the landing SRAM are on (Table PW-1). -/
def domainsOn (s : State) : Nat :=
  if s.pins.coreOff then 1 else if s.pwr.state < 2 then 0x1FFFF else 0x18003

/-- A temperature as 11 bits. -/
def tempBits (t : Int) : Nat := (t % 2 ^ 11).toNat

/-- PWR registers by offset in the block. -/
def pwrRead (off : Nat) (s : State) : Option Nat :=
  if off = 0x00 then some (s.pwr.state + s.pwr.target * 4 + s.pwr.phase * 16 + s.pwr.agreed * 256)
  else if off = 0x04 then some 0
  else if off = 0x08 then some (flag s.pwr.idleEn 0 + s.pwr.idleMs * 2 + s.pwr.timerS * 2 ^ 16)
  else if off = 0x0C then some s.img.permit
  else if off = 0x10 then some (s.pwr.wakeSource + s.pwr.wakeDetail * 256 + s.pwr.wakeFrom * 2 ^ 16)
  else if off = 0x1C then some (domainsOn s)
  else none

/-- Writes of PWR registers; none where the register takes no write. -/
def pwrWrite (off v : Nat) (s : State) : Option State :=
  if off = 0x04 then some (pwrReq v s)
  else if off = 0x08 then some (pwrPolicy v s)
  else none

/-- THM registers by offset in the block, but for THM_JUNCTION, whose read clears PEAK. -/
def thmRead (off : Nat) (s : State) : Option Nat :=
  if off = 0x04 then some (s.thm.step + (if s.thm.step = 0 then 31 else s.thm.by') * 8)
  else if off = 0x08 then
    some (sumNat ((List.range 24).map fun n => flag (2 ≤ (sensor s n).st) n) + s.img.sensors.policy * 2 ^ 24)
  else if 0x40 ≤ off && off < 0xA0 && off % 4 = 0 then
    let x := sensor s ((off - 0x40) / 4)
    some (tempBits x.temp + x.st * 2 ^ 12 + flag x.subst 14 + flag x.fast 15)
  else none

/-- THM_JUNCTION as it reads. -/
def thmJunction (s : State) : Nat := tempBits s.thm.junction + s.thm.site * 2 ^ 12 + tempBits (s.thm.peak.getD 0) * 2 ^ 16

/-- A read of THM_JUNCTION clears PEAK (RC, Table SC-3). -/
def junctionRead (s : State) : Nat × State := (thmJunction s, { s with thm := { s.thm with peak := none } })

/-- QTZ registers by offset in the block, but for QTZ_LATE, whose read clears. -/
def qtzRead (off : Nat) (s : State) : Option Nat :=
  if off = 0x08 then some (s.qtz.step + s.qtz.thermal * 8 + s.qtz.force * 64)
  else if off = 0x0C then
    some (s.qtz.progMax + s.qtz.eraseMax * 16 + s.qtz.progCap * 2 ^ 10 + s.qtz.eraseCap * 2 ^ 20)
  else if off = 0x10 then some (s.qtz.progRunUs + s.qtz.eraseRunUs * 2 ^ 12)
  else if off = 0x14 then some (min 0xFFFF (sumNat s.fcl.missDev) + flag s.fcl.escalated 16)
  else if off = 0x1C then some s.qtz.restartLate
  else if off = 0x20 then some (flag s.qtz.ovf 0)
  else none

/-- A write of QTZ_DERATE (R233). -/
def qtzDerate (v : Nat) (s : State) : State :=
  if 4 < bits v 6 3 then regRefused 0x00E00008 v s
  else setDerate { s with qtz := { s.qtz with force := bits v 6 3 } }

/-- Writes of QTZ registers; none where the register takes no write. -/
def qtzWrite (off v : Nat) (s : State) : Option State :=
  if off = 0x08 then some (qtzDerate v s)
  else if off = 0x0C then
    some (if bits v 10 10 = 0 || bits v 20 10 = 0 then regRefused 0x00E0000C v s
      else { s with qtz := { s.qtz with progMax := bits v 0 4, eraseMax := bits v 4 6, progCap := bits v 10 10
                                        eraseCap := bits v 20 10 } })
  else if off = 0x10 then
    some (if bits v 0 12 < 10 || bits v 12 16 < 10 then regRefused 0x00E00010 v s
      else { s with qtz := { s.qtz with progRunUs := bits v 0 12, eraseRunUs := bits v 12 16 } })
  else if off = 0x20 then some { s with qtz := { s.qtz with ovf := s.qtz.ovf && !bit v 0 } }
  else none

/-- DERATE_FORCE: a write of QTZ_DERATE (R233). -/
def execDerateForce (v : U32) (s : State) : Host.Outcome State Fault Refusal := .next (qtzDerate v.toNat s)

end Sys2Proof.Machine
end

