-- ==== Sys2Proof/Machine/Nand.lean ====
section
/-! DEFINITION. What the flash answers: array reads, programs, erases, suspensions, operations past their limit (R221–R226,
R247–R258), the patrol (R264, R265), channel training and injections (R236–R238), and the NFC and MED registers. -/

namespace Sys2Proof.Machine

open Sys2Proof

/-! ### Housekeeping: fold, GC, wear levelling -/

/-- Fewer than MED_SLC.LOW per cent of a die set's SLC share are free (R251). -/
def slcShort (s : State) (ds : DieSet) : Bool :=
  ds.dies.any fun d =>
    let share := slcShare s.img.profile
    (share - slcInUse s d) * 100 < s.med.slcLow * share

/-- Zones of a die set's owners that a fold takes: the FULL ones in order of their CHANGED time, then, where SLC runs short,
the open ones in order of their binding (R251). A completed native group folds its staging extents at once. -/
def foldOrder (s : State) (ds : DieSet) : List (Nat × Nat × Nat) :=
  let zs := fun (p : Zone → Bool) (key : Zone → Nat) => (s.insts.flatMap fun i => if i.2.pool = ds.pool then
      (i.2.zones.filter fun z => z.2.set = ds.num && p z.2).map fun z => (key z.2, i.1, z.1) else []).mergeSort
        fun a b => a.1 ≤ b.1
  zs (fun z => z.state = .full) (·.changed) ++ (if slcShort s ds then zs isOpen (·.bound) else [])

/-- The live data of a draining die set move to other die sets of the pool by the GC path, a superblock at a time (R275). -/
def drainSet (ds : DieSet) (s : State) : State :=
  if !ds.draining then s
  else match (fullSbs s ds).find? fun p => !(liveOf s p.1).isEmpty with
    | none => s
    | some (n, b) => match inst? s b.inst with
      | none => s
      | some x => match chooseSet s x b.slc b.stream with
        | some (d, slc) => copyTo .gc (liveOf s n) d slc s
        | none => s

/-- Zones of many extents have their fragments rejoined (R244). -/
def rejoinZones (s : State) : State :=
  s.insts.foldl (fun s p => p.2.zones.foldl (fun s z => rejoinZone p.1 z.1 s) s) s

/-- Folds, garbage collection and wear levelling of every die set (R251, R259, R263). While an entry to STOW drains, no new
array operation is issued for them (R397). -/
def housekeep (s : State) : State :=
  if s.pwr.dirtyCap.isSome then s
  else s.med.sets.foldl (fun s ds =>
    let s := (foldOrder s ds).foldl (fun s z => foldZone z.2.1 z.2.2 s) s
    wearSet ds (gcSet ds (drainSet ds s))) (refreshWaiting (rejoinZones s))

/-- Blocks that found no superblock are placed once erases have returned blocks; the groups that a FLUSH, or a task that
waits for twin space, still asks for go to flash (R146, R173, R245). -/
def placeWaiting (s : State) : State :=
  let s := s.insts.foldl (fun s p => (storedOf p.1 p.2).foldl (fun s b =>
    if b.2.place.isNone && b.2.twin.isSome then placeBlock b.1 s else s) s) s
  let s := s.insts.foldl (fun s p => p.2.slots.foldl (fun s q => match q.2 with
    | .held t => if t.op = 0x0D then padFlush p.1 t s else s
    | .done .. => s) s) s
  if s.insts.any fun p => waitsTwin p.2.waiting then forInsts padInst s else s

/-! ### NFC injections -/

def nfcOf (s : State) (ch : Nat) : Nfc := s.nfc.getD ch coldNfc

def modNfc (ch : Nat) (f : Nfc → Nfc) (s : State) : State := { s with nfc := modNth s.nfc ch f }

/-- An armed injection of a mode acts on a die. -/
def injected (s : State) (die mode : Nat) : Bool :=
  let c := nfcOf s (chanOf die)
  s.med.testen && c.injMode = mode && 0 < c.injLeft && c.injDie = dieIn die

/-- An armed injection fails the training of a channel (mode 5; R238). -/
def injectedTraining (s : State) (ch : Nat) : Bool :=
  let c := nfcOf s ch
  s.med.testen && c.injMode = 5 && 0 < c.injLeft

/-- One operation has been affected. -/
def injUsed (ch : Nat) (s : State) : State := modNfc ch (fun c => { c with injLeft := c.injLeft - 1 }) s

/-! ### After a die changes state -/

/-- A nested program may start on a die whose erase is suspended: an SLC program waits, no other die of a die set that
contains it is in one, and the set has no lost member (R223). -/
def nestOk (s : State) (d : Nat) (p : Nat) : Bool :=
  (match amGet? s.med.progs p with
    | some pr => match sb? s pr.sb with
      | some b => b.slc
      | none => false
    | none => false) &&
  (s.med.sets.filter fun ds => ds.dies.contains d).all fun ds =>
    !ds.lostMember && ds.dies.all fun m => match die? s m with
      | some x => !x.lost && x.nested.isNone
      | none => false

/-- What a die does when its reads change: a suspension with no read with a deadline left ends (R224), in a nested program
where R223 allows one or by resuming, each under its cap (R241); else the read at the head is decided anew (R226). -/
def dieNext (d : Nat) (s : State) : State :=
  match die? s d with
  | none => s
  | some x =>
    if x.phase = .suspended && x.nested.isNone && !(x.reads.any fun r => r.due.isSome) then
      match x.op, x.waitProgs with
      | .erase _, p :: l =>
        if nestOk s d p && programsRunning s < s.med.progCap then
          modDie d (fun x => { x with nested := some p, waitProgs := l }) s
        else kickSuspended d s
      | _, _ => kickSuspended d s
    else readAround d (kickDie d s)

/-! ### Array reads -/

/-- A block of a read goes from the array to a lane, by a buffer in the half of its channel (R15). -/
def toLane (r : ReadReq) (s : State) : State :=
  let half := ((readPlace s r).map (halfOfPlace s)).getD 0
  giveBuf r.inst r.slot r.blk half (modBlock r.inst r.slot r.blk (fun rb => { rb with stage := .lane }) s)

/-- The block of a die that a place lies in. -/
def blockAt (s : State) (d : Nat) (pl : Nat × Nat) : Option Nat :=
  (sb? s pl.1).bind fun b => (b.members.find? fun m => m.1 = d).map Prod.snd

/-- A read-level index as the state lists it: 0 is not listed (R248). -/
def setLevel (l : List (Nat × Nat)) (b ix : Nat) : List (Nat × Nat) := if ix = 0 then amErase l b else amSet l b ix

/-- Last stage of Table MD-5 that SOFT_STAGES allows before reconstruction. -/
def lastStage (s : State) : Nat := 2 + min 2 s.img.profile.softStages

/-- The read levels of a read that ended at a stage (R248): stages 1 and 2 read at the block's index, stage 3 at the next
entry, stage 4 at the entry after it, modulo RETRY_STEPS. The die holds the entry read last, and the entry a soft stage
succeeded with becomes the block's index. -/
def readLevels (d : Nat) (pl : Nat × Nat) (stage : Nat) (decoded : Bool) (s : State) : State :=
  match blockAt s d pl with
  | none => s
  | some b =>
    let steps := max 1 (min 16 s.img.profile.retrySteps)
    modDie d (fun x =>
      let ix := (amGetD x.levels b 0 + (stage - 2)) % steps
      { x with levels := if decoded && 3 ≤ stage then setLevel x.levels b ix else x.levels, entry := some ix }) s

/-- Stage at which an outcome leaves the decoders, and whether a stage declared the codeword decoded (R247). -/
def stageOf (s : State) : ReadOutcome → Nat × Bool
  | .decoded st => (max 1 (min (lastStage s) st), true)
  | .failed => (lastStage s, false)

/-- A read has its block: it goes to a lane, or its copy has the item. -/
def readGot (r : ReadReq) (s : State) : State := match r.job with
  | some n => itemRead n r.blk s
  | none => toLane r s

/-- The members of a block's stripe still to be read for its reconstruction. -/
def needOf (s : State) (r : ReadReq) : Nat := match r.job with
  | some n => ((amGet? s.med.progs n).map fun p => amGetD p.needs r.blk 0).getD 0
  | none => (((readTask s r).bind fun t => t.blocks[r.blk]?).map (·.need)).getD 0

/-- One member less is to be read. -/
def lessNeed (r : ReadReq) (n : Nat) (s : State) : State := match r.job with
  | some j => modProg j (fun p => { p with needs := amSet p.needs r.blk (n - 1) }) s
  | none => modTask r.inst r.slot (fun t => { t with
      blocks := modNth t.blocks r.blk fun rb => { rb with need := n - 1 } }) s

/-- A stripe has given a block back. After a failure of its own codeword that is stage 5, and its page is refreshed (R249). -/
def reconDone (r : ReadReq) (s : State) : State :=
  if !r.last then readGot r s
  else
    let key := (readPlace s r).bind (keyAt s)
    let s := readGot r (tally noInst 0x0102 10 1 s)
    match r.job, key with
    | none, some k => refreshPage k s
    | _, _ => s

/-- A member of a stripe that is reconstructed has been read: with the last the block is formed. A member that fails every
stage ends the reconstruction: the block is read at its own die, or it is lost where that die is, or where its own codeword has
failed (R226, R249). -/
def memberDone (r : ReadReq) (o : ReadOutcome) (s : State) : State :=
  match o with
  | .decoded st =>
    let s := tally noInst 0x0102 (5 + max 1 (min (lastStage s) st)) 1 s
    let n := needOf s r
    let s := lessNeed r n s
    if n = 1 then reconDone r s else s
  | .failed => match readPlace s r with
    | none => s
    | some pl => if r.last || placeGone s pl then readLost r s else directRead r pl (dropReads r s)

/-- Every stage has failed on a block's own die: stage 5 reads the slot on the other members of its stripe. A copy's read leaves
a NOTICE record (R247, R249, R265). -/
def stageFive (r : ReadReq) (pl : Nat × Nat) (s : State) : State :=
  if !othersAlive s pl then readLost r s
  else
    let s := match r.job, keyAt s pl with
      | some _, some k => event kMediaData sevNotice noSource k.inst [] s
      | _, _ => s
    reconstruct { r with last := true } pl s

/-- The read at the head of a die's queue ends (R247, R249). -/
def readDone (d : Nat) (r : ReadReq) (o : ReadOutcome) (s : State) : State :=
  let s := if injected s d 1 then injUsed (chanOf d) s else s
  match readPlace s r with
  | none => readGot r s
  | some pl =>
    let s := readLevels d pl (stageOf s o).1 (stageOf s o).2 s
    if r.recon then memberDone r o s
    else match o with
      | .decoded st =>
        let st := max 1 (min (lastStage s) st)
        let s := tally noInst 0x0102 (5 + st) 1 s
        readGot r (if 3 ≤ st && r.job.isNone then
            tally r.inst 0x0006 st 1 (modTask r.inst r.slot (blame .softDecode s.quartz) s)
          else s)
      | .failed => stageFive r pl s

/-- NAND_READ_COMPLETE: of the read at the head of the die's queue, or of a plane's queue where planes are read independently
(R221). -/
def nandReadCompleteEffect (die : Fin 4096) (plane : Fin 4) (o : ReadOutcome) (s : State) : State :=
  (match die? s die.val with
    | none => s
    | some x => match x.reads.find? fun r => r.plane = plane.val with
      | none => s
      | some r =>
        if !servesReads x then s
        else
          let s := modDie die.val (fun x => { x with reads := x.reads.erase r }) s
          kickAll (dieNext die.val (if readLives s r then readDone die.val r o s else s)))

/-! ### Programs -/

/-- Remove the first occurrence of a number. -/
def removeOne (d : Nat) : List Nat → List Nat
  | [] => []
  | x :: l => if x = d then l else x :: removeOne d l

/-- A replacement and the failed block of a die swap places in the superblock, and the failed block becomes RETIRED, in one HWT
(R256). -/
def swapFailed (n d new : Nat) (s : State) : State :=
  match sb? s n with
  | none => s
  | some b =>
    let old := ((b.members.find? fun m => m.1 = d).map Prod.snd).toList
    let s := modDie d (fun x => { x with
      retired := x.retired + 1, bad := x.bad ++ old
      opened := if b.full then x.opened else x.opened - 1
      full := if b.full then x.full - 1 else x.full }) s
    let s := modSb n (fun b => { b with members := b.members.map fun m => if m.1 = d then (d, new) else m }) s
    checkPreserve (tally noInst 0x0102 15 1 s)

/-- Map-cache lines that a program's map update writes (log entry 9). -/
def progLines (pr : Prog) : List Nat := (pr.items.map fun it => keyLine it.1).eraseDups

/-- The data of an item of a copy carry poison in their buffer (R336, R351). -/
def itemPoison (s : State) (pr : Prog) (it : BlkKey × Nat × Nat) : Bool :=
  pr.bufs.any fun b => (pr.items[b.1]?).any (· = it) && bufPoison s b.2.1 b.2.2

/-- The map entry of one item: it points at flash where it still holds what was programmed, and its twin space is released;
a block of a staging extent whose group is now programmed points at the group; a copy counts only while the entry points at its
source (R172, R245, R260). -/
def applyItem (pr : Prog) (slc : Bool) (it : BlkKey × Nat × Nat) (s : State) : State :=
  let (k, pos, ix) := it
  match stored? s k with
  | none => s
  | some st =>
    if st.pos != pos then s
    else if pr.sources.isEmpty then
      if st.place = some (pr.sb, ix) then releaseTwin k (modStored k (fun st => { st with onFlash := true }) s)
      else if st.native = some (pr.sb, ix) then
        releaseTwin k (modStored k (fun st => { st with place := st.native, native := none, slcPage := false, onFlash := true }) s)
      else s
    else if (st.place.map Prod.fst).any pr.sources.contains then
      modStored k (fun st => { st with place := some (pr.sb, ix), onFlash := true, slcPage := slc
                                       native := if slc then st.native else none
                                       harm := if st.harm = .whole && itemPoison s pr it then .poison else st.harm }) s
    else s

/-- The updates of one set of programs: its items, the swaps of R256, and its superblock, which may be FULL now; the buffers of
a copy are let go. -/
def applyProg (n : Nat) (s : State) : State :=
  match amGet? s.med.progs n with
  | none => s
  | some pr =>
    let slc := (sb? s pr.sb).any (·.slc)
    let s := pr.items.foldl (fun s it => applyItem pr slc it s) s
    let s := pr.failed.foldl (fun s f => swapFailed pr.sb f.1 f.2 s) s
    settleSb pr.sb (freeBufs 2 (pr.bufs.map Prod.snd) { s with med := { s.med with progs := amErase s.med.progs n } })

/-- The sets of programs that switch with a set: its bundle, or it alone (R251). -/
def bundleOf (s : State) (n : Nat) (pr : Prog) : List (Nat × Prog) := match pr.bundle with
  | none => [(n, pr)]
  | some b => s.med.progs.filter fun p => p.2.bundle = some b

/-- Every program of a set has ended, and every source of it is read. -/
def ended (pr : Prog) : Bool := pr.left.isEmpty && pr.toRead.isEmpty

/-- Every program of a set and of its bundle has ended: the map update commits in one HWT, or waits at STAGE for a locked line
(R202, R203, R251). -/
def progDone (n : Nat) (s : State) : State :=
  match amGet? s.med.progs n with
  | none => s
  | some pr =>
    let all := bundleOf s n pr
    let lines := (all.flatMap fun p => progLines p.2).eraseDups
    let entries := sumNat (all.map fun p => p.2.items.length + p.2.failed.length)
    if !(all.all fun p => ended p.2) then s
    else if lines.any (hwtLocked s) then
      (if s.jrn.waitingHwt.contains n then s else { s with jrn := { s.jrn with waitingHwt := s.jrn.waitingHwt ++ [n] } })
    else
      let s := all.foldl (fun s p => applyProg p.1 s) s
      let s := if entries = 0 then s else sealHwt 1 entries lines s
      let s := (all.flatMap fun p => p.2.sources).eraseDups.foldl (fun s src => releaseSb src s) s
      housekeep (placeWaiting s)

/-- A program fails: a replacement block of the die takes every unit of the superblock that the failed block held before, then
the one that failed (R256, R262). A die without a replacement is lost. -/
def progFails (n d : Nat) (s : State) : State :=
  match amGet? s.med.progs n, die? s d with
  | some pr, some x => match takeReplacement x with
    | none => loseDie d s
    | some (b, x) =>
      let rest := (pr.left.filter (· = d)).length
      let before := pr.first + pr.groups - rest
      let s := modDie d (fun _ => { x with
        waitProgs := List.replicate (before + rest) n ++ x.waitProgs.filter (· != n) }) s
      modProg n (fun p => { p with redo := p.redo.filter (· != d) ++ List.replicate before d, failed := p.failed ++ [(d, b)] }) s
  | _, _ => s

/-- A program of a set on a die has passed: a unit made again on a replacement block, else the next one. -/
def unitDone (d : Nat) (p : Prog) : Prog :=
  if p.redo.contains d then { p with redo := removeOne d p.redo } else { p with left := removeOne d p.left }

/-- A program on a die ends. -/
def progEnds (n d : Nat) (pass : Bool) (s : State) : State :=
  if pass then progDone n (modProg n (unitDone d) s) else progFails n d s

/-- The array operation of a die leaves it. -/
def clearOp (d : Nat) (s : State) : State :=
  modDie d (fun x => { x with op := .idle, phase := .running, suspendedNs := 0 }) s

/-- NAND_PROGRAM_COMPLETE: of the nested program, else of the running one. -/
def programComplete (d : Nat) (pass : Bool) (s : State) : State :=
  match die? s d with
  | none => s
  | some x =>
    if x.lost || x.phase = .resetting || injected s d 4 then s
    else
      let fail := injected s d 2
      let pass := pass && !fail
      match x.nested, x.op with
      | some n, _ =>
        let s := if fail then injUsed (chanOf d) s else s
        kickAll (dieNext d (progEnds n d pass (modDie d (fun x => { x with nested := none }) s)))
      | none, .program n =>
        if x.phase != .running then s
        else
          let s := if fail then injUsed (chanOf d) s else s
          kickAll (dieNext d (progEnds n d pass (clearOp d s)))
      | _, _ => s

/-- NAND_PROGRAM_COMPLETE. -/
def nandProgramCompleteEffect (die : Fin 4096) (pass : Bool) (s : State) : State :=
  (programComplete die.val pass s)

/-! ### Erases -/

/-- An erase ends with a passing status: UNERASED becomes ERASED, the count rises by 1, sticking at ENDURANCE, and the
read-level index is 0 again (R248, R254, R257). A failing status retires the block; a SPARE block takes its place (R256). -/
def eraseEnds (d b : Nat) (pass : Bool) (s : State) : State :=
  if pass then
    modDie d (fun x => { x with
      erased := x.erased + 1
      erasedList := x.erasedList ++ [b]
      erasesDone := amSet x.erasesDone b (min s.img.profile.endurance (amGetD x.erasesDone b 0 + 1))
      levels := amErase x.levels b }) s
  else
    checkPreserve (tally noInst 0x0102 15 1 (modDie d (fun x =>
      let x := { x with retired := x.retired + 1, bad := x.bad ++ [b] }
      if 0 < x.spare then { x with spare := x.spare - 1, erased := x.erased + 1 } else { x with free := x.free - 1 }) s))

/-- NAND_ERASE_COMPLETE: of the running erase. -/
def eraseComplete (d : Nat) (pass : Bool) (s : State) : State :=
  match die? s d with
  | none => s
  | some x => match x.op with
    | .erase b =>
      if x.lost || x.phase != .running || injected s d 4 then s
      else
        let fail := injected s d 3
        let s := if fail then injUsed (chanOf d) s else s
        kickAll (housekeep (placeWaiting (dieNext d (eraseEnds d b (pass && !fail) (clearOp d s)))))
    | _ => s

/-- NAND_ERASE_COMPLETE. -/
def nandEraseCompleteEffect (die : Fin 4096) (pass : Bool) (s : State) : State :=
  (eraseComplete die.val pass s)

/-! ### Limits and suspensions -/

/-- OPERATION_LIMIT: the die is given RESET; one that passes a limit a second time within 1 s is lost (R255). -/
def operationLimitEffect (die : Fin 4096) (s : State) : State :=
  (match die? s die.val with
    | none => s
    | some x =>
      if x.lost || (x.op = .idle && x.reads.isEmpty) then s
      else
        let s := if injected s die.val 4 then injUsed (chanOf die.val) s else s
        if x.lastLimit.any fun t => s.quartz ≤ t + 1000000000 then loseDie die.val s
        else modDie die.val (fun x => { x with phase := .resetting, lastLimit := some s.quartz }) s)

/-- DIE_RESET_ANSWERED: a NOTICE fault of the channel's source; the operation is handled as a failing status (R255). -/
def dieResetAnsweredEffect (die : Fin 4096) (s : State) : State :=
  let d := die.val
  (match die? s d with
    | none => s
    | some x =>
      if x.phase != .resetting then s
      else
        let s := raise (diePart d) { (lineFault (0xC0 + chanOf d) 5 0x12 d) with severity := sevNotice, payload := d } s
        match x.nested, x.op with
        | some n, _ => kickAll (dieNext d (progEnds n d false (modDie d (fun x => { x with nested := none, phase := .suspended }) s)))
        | none, .program n => kickAll (dieNext d (progEnds n d false (clearOp d s)))
        | none, .erase b => kickAll (dieNext d (eraseEnds d b false (clearOp d s)))
        | none, .idle => dieNext d (modDie d (fun x => { x with phase := .running }) s))

/-- DIE_RESET_TIMEOUT: the die does not answer RESET within 1 ms and is lost (R255). -/
def dieResetTimeoutEffect (die : Fin 4096) (s : State) : State :=
  (match die? s die.val with
    | none => s
    | some x => if x.phase = .resetting then loseDie die.val s else s)

/-- DIE_SUSPENDED: the reads queued behind the suspension are issued (R221, R222). -/
def dieSuspendedEffect (die : Fin 4096) (s : State) : State :=
  (match die? s die.val with
    | none => s
    | some x => if x.phase = .suspending then
        dieNext die.val (modDie die.val (fun x => { x with phase := .suspended, suspendedAt := s.quartz }) s) else s)

/-- SUSPENSION_TIMEOUT: the die has not reported itself suspended within T_SUSP, an internal miss; its reads with a deadline
are reconstructed where that is possible, the others wait (R225, R226). -/
def suspensionTimeoutEffect (die : Fin 4096) (s : State) : State :=
  (match die? s die.val with
    | none => s
    | some x =>
      if x.phase != .suspending then s
      else
        let s := missInternal (raise noSource { (ruleFault kInternalMiss sevNotice noSource noInst []) with access := 9 } s)
        x.reads.foldl (fun s r => match readPlace s r with
          | some pl => if r.due.isSome && !r.recon && othersReadable s pl then reconstruct r pl s else s
          | none => s) s)

/-- SUSPENSION_CAP_REACHED: the time cap of the suspended operation is used up and it resumes, once its cap of R241 allows
(R224). A nested program ends first (R222). -/
def suspensionCapReachedEffect (die : Fin 4096) (s : State) : State :=
  (match die? s die.val with
    | none => s
    | some x => if x.phase = .suspended && x.nested.isNone then
        readAround die.val (kickSuspended die.val
          (modDie die.val (fun x => { x with budget := (x.budget.1, x.budget.2.1, 0) }) s))
      else s)

/-! ### Timers and background work -/

/-- STAGING_EXTENT_TIMEOUT: twin data of an incomplete group of a zone have waited 100 ms and are programmed; 0xFFFF_FFFF stands
for the instance's conventional data (R245; log entry 2). -/
def stagingExtentTimeoutEffect (i : Fin 1024) (zone : U32) (s : State) : State :=
  (if zone.toNat = 0xFFFFFFFF then padConvIf (fun _ => true) i.val s else padZone i.val zone.toNat s)

/-- The block that a patrol address names. -/
def patrolKey (i : Nat) (conv : Bool) (addr : U64) : BlkKey :=
  if conv then { inst := i, conv := true, zone := 0, offset := addr.toNat }
  else { inst := i, conv := false, zone := addr.toNat / 2 ^ 32, offset := addr.toNat % 2 ^ 32 }

/-- The read levels of a patrol read (R248, R264). -/
def scrubRead (k : BlkKey) (o : ScrubOutcome) (s : State) : State :=
  let (stage, decoded) := match o with
    | .decoded st _ => (max 1 (min (lastStage s) st), true)
    | .reconstructed => (lastStage s, false)
    | .lost => (lastStage s, false)
  match (stored? s k).bind (·.place) with
  | none => s
  | some pl => match dieOfPlace s pl with
    | none => s
    | some d => readLevels d pl stage decoded s

/-- Corrected bits of a codeword beyond which its page is refreshed, by the metadata format of its instance (R246, R264). -/
def refreshBits (s : State) (i : Nat) : Nat :=
  let b := s.img.profile.refreshBits
  if (inst? s i).any (·.params.metaFmt) then b * 424 / 488 else b

/-- PATROL_SCRUB: one programmed page (R264, R265). -/
def patrolScrubEffect (i : Fin 1024) (conv : Bool) (addr : U64) (o : ScrubOutcome) (s : State) :
    State :=
  let k := patrolKey i.val conv addr
  (match stored? s k with
    | none => s
    | some st =>
      if !st.onFlash || st.harm != .whole then s
      else
        let s := tally noInst 0x0102 17 1 { s with med := { s.med with patrolled := s.med.patrolled + 1 } }
        let die := ((st.place.bind (dieOfPlace s))).getD 0
        let s := scrubRead k o s
        match o with
        | .decoded st n => if 3 ≤ max 1 (min (lastStage s) st) || refreshBits s i.val < n then refreshPage k s else s
        | .reconstructed => refreshPage k (event kMediaData sevNotice noSource i.val [] s)
        | .lost => poisonBlock k die s)

/-- REBUILD_COMPLETE: a lost die's data are whole again on their replacements; RESTORED (R29, R258). A die lost beyond
repair is not restored. -/
def rebuildCompleteEffect (die : Fin 4096) (s : State) : State :=
  let d := die.val
  (
    if !s.med.rebuild.contains d then s
    else
      let n := sumNat (s.med.sbs.map fun p => if p.2.rebuilding.any fun r => r.1 = d then
        (liveOf s p.1).length / max 1 p.2.members.length else 0)
      let s := { s with med := { s.med with
        rebuild := s.med.rebuild.filter (· != d)
        rebuildPct := 100
        sets := s.med.sets.map fun ds => { ds with rebuilds := ds.rebuilds.filter (· != d) }
        sbs := s.med.sbs.map fun p => (p.1, { p.2 with rebuilding := p.2.rebuilding.filter fun r => r.1 != d }) } }
      let s := tally noInst 0x0102 16 n s
      let s := if s.med.beyondRepair.contains d then s else restored (diePart d) (0xC0 + chanOf d) s
      let ch := chanOf d
      if ((nfcOf s ch).lost || (nfcOf s ch).fenced) && !(s.med.rebuild.any fun e => chanOf e = ch) && !(s.med.beyondRepair.any fun e => chanOf e = ch) &&
          s.fcl.unrestored.contains (0xC0 + ch) then restored (0xC0 + ch) (0xC0 + ch) s
      else s)

/-! ### Channels -/

/-- Rate in force of a channel (NFC_STATUS.RATE): the trained one, at most 2400 MT/s under CAP2400, a derate step of 2 or
more, or TRIM (R233, R236, R394). -/
def rateNow (s : State) (c : Nfc) : Nat :=
  if c.lost || c.fenced then 0
  else if c.cap2400 || 2 ≤ s.qtz.step || s.pwr.state = 1 then min 5 c.rate else c.rate

/-- Reading of the sensor of a channel's group (Table PK-11). -/
def channelTemp (s : State) (ch : Nat) : Int := (sensor s (ch / 4)).temp

/-- A channel fails: a DEGRADE fault of its line, and all of its dies are treated as failed (R238). -/
def failChannel (ch access master addr : Nat) (s : State) : State :=
  if (nfcOf s ch).lost || (nfcOf s ch).fenced then s
  else loseChannel ch (raise (0xC0 + ch) (lineFault (0xC0 + ch) access master addr) s)

/-- The balls of a channel: those of a failed one are held with its enables high and its WP_N low until power is removed
(R238). -/
def channelPins (s : State) (ch : Nat) : MediaPins := if (nfcOf s ch).lost && s.pins.media = .active then .safe else s.pins.media

/-- A retraining of a channel: a failing margin check drops it to the next lower rate with a NOTICE record; at 2400 MT/s, the
rate in force, the channel fails (R237, R238). -/
def retrainCh (ch : Nat) (ok : Bool) (s : State) : State :=
  let inj := injectedTraining s ch
  let s := if inj then injUsed ch s else s
  let c := nfcOf s ch
  if c.lost || c.fenced then s
  else if ok && !inj then modNfc ch (fun c => { c with trainTemp := channelTemp s ch, retrain := false }) s
  else
    let s := modNfc ch (fun c => { c with failStep := 8, retrain := false }) s
    if rateNow s c ≤ 5 then failChannel ch 10 0x12 0 s
    else notice kMediaLink [] (modNfc ch (fun c => { c with rate := c.rate - 1 }) s)

/-- A write of NFC_CTRL, with the outcome of the retraining it may ask for. -/
def nfcCtrl (ch v : Nat) (ok : Bool) (s : State) : State :=
  let s := modNfc ch (fun c => { c with cap2400 := bit v 0 }) s
  if bit v 1 then retrainCh ch ok s else s

/-- A write of NFC_INJ: a mode takes effect only while MED_TESTEN.EN = 1. -/
def nfcInj (ch v : Nat) (s : State) : State :=
  let mode := bits v 0 3
  if mode != 0 && (!s.med.testen || 5 < mode) then regRefused (0x00C00020 + 0x4000 * ch) v s
  else
    let s := modNfc ch (fun c => { c with
      injMode := mode, injDie := bits v 3 6, injBits := bits v 9 10, injCount := bits v 19 8
      injLeft := if mode = 0 then 0 else bits v 19 8 }) s
    if mode = 0 then s else notice kTest [] s

/-- ZQ_CALIBRATION_SHORT: every 100 ms; a channel whose sensor has moved by 10 °C since its last training is retrained
(R237). -/
def execZqCalibrationShort (ch : Fin 64) (retrainOk : Bool) (s : State) : Host.Outcome State Fault Refusal :=
  .next (if 40 ≤ (channelTemp s ch.val - (nfcOf s ch.val).trainTemp).natAbs then retrainCh ch.val retrainOk s else s)

/-- RETRAIN: a write of NFC_CTRL. -/
def execRetrain (ch : Fin 64) (v : U32) (ok : Bool) (s : State) : Host.Outcome State Fault Refusal :=
  .next (nfcCtrl ch.val v.toNat ok s)

/-- FLIP_BITS: an NFC_INJ write of mode 1 (R247). -/
def execFlipBits (ch : Fin 64) (v : U32) (s : State) : Host.Outcome State Fault Refusal := .next (nfcInj ch.val v.toNat s)

/-- FAIL_PROGRAM_STATUS: an NFC_INJ write of mode 2. -/
def execFailProgramStatus (ch : Fin 64) (v : U32) (s : State) : Host.Outcome State Fault Refusal :=
  .next (nfcInj ch.val v.toNat s)

/-- FAIL_ERASE_STATUS: an NFC_INJ write of mode 3. -/
def execFailEraseStatus (ch : Fin 64) (v : U32) (s : State) : Host.Outcome State Fault Refusal :=
  .next (nfcInj ch.val v.toNat s)

/-- HOLD_DIE_BUSY: an NFC_INJ write of mode 4 (R255). -/
def execHoldDieBusy (ch : Fin 64) (v : U32) (s : State) : Host.Outcome State Fault Refusal := .next (nfcInj ch.val v.toNat s)

/-- FAIL_TRAINING: an NFC_INJ write of mode 5 (R238). -/
def execFailTraining (ch : Fin 64) (v : U32) (s : State) : Host.Outcome State Fault Refusal := .next (nfcInj ch.val v.toNat s)

/-! ### Registers -/

/-- NFC registers by offset in the block. -/
def nfcRead (off : Nat) (s : State) : Option Nat :=
  let c := nfcOf s (off / 0x4000)
  let o := off % 0x4000
  if o = 0x00 then some (flag c.cap2400 0 + flag c.retrain 1)
  else if o = 0x04 then
    some (rateNow s c + c.trainedMax * 16 + flag c.fenced 8 + flag c.lost 9 + c.failStep * 2 ^ 16)
  else if o = 0x18 then some (c.readUi + c.writeUi * 256 + c.worstDie * 2 ^ 16)
  else if o = 0x20 then
    some (c.injMode + c.injDie * 8 + c.injBits * 2 ^ 9 + c.injCount * 2 ^ 19 + flag (0 < c.injLeft) 27)
  else none

/-- Writes of NFC registers; none where the register takes no write. A retraining by REG_WRITE draws its outcome (log
entry 22). -/
def nfcWrite (off v : Nat) (s : State) : Option State :=
  let ch := off / 0x4000
  let o := off % 0x4000
  if o = 0x00 then
    if bit v 1 then
      let (ok, s) := drawBit s
      some (nfcCtrl ch v ok s)
    else some (nfcCtrl ch v true s)
  else if o = 0x20 then some (nfcInj ch v s)
  else none

/-- MED registers by offset in the block. -/
def medRead (off : Nat) (s : State) : Option Nat :=
  if off = 0x00 then
    some (flag s.med.preserve 0 + flag (!s.med.rebuild.isEmpty) 1 + flag (s.med.progs.any fun p => p.2.kind = .wear) 2 +
      s.med.rebuildPct * 256)
  else if off = 0x04 then some (s.med.dies.length * s.img.profile.blocks)
  else if off = 0x08 then some (dieSum s (·.free))
  else if off = 0x0C then some (dieSum s (·.opened))
  else if off = 0x10 then some (dieSum s (·.full))
  else if off = 0x14 then some (dieSum s (·.retired))
  else if off = 0x18 then some (dieSum s (·.spare))
  else if off = 0x1C then some (dieSum s (·.erased))
  else if off = 0x20 then some (s.img.profile.slcPct + s.med.slcLow * 16)
  else if off = 0x24 then some (s.med.wlSpread + s.med.wlMax * 2 ^ 10)
  else if off = 0x28 then some (s.med.gcLow + s.med.gcHigh * 256)
  else if off = 0x2C then some s.med.rebuildRate
  else if off = 0x30 then some s.med.scrub
  else if off = 0x34 then some (s.med.progCap + s.med.eraseCap * 2 ^ 10)
  else if off = 0x38 then some s.med.poison
  else if off = 0x3C then some (flag s.med.testen 0)
  else none

/-- Writes of MED registers; none where the register takes no write. A field out of range leaves the register as it is. -/
def medWrite (off v : Nat) (s : State) : Option State :=
  let bad := regRefused (0x00D00000 + off) v s
  let rng := fun (x lo hi : Nat) => lo ≤ x && x ≤ hi
  if off = 0x20 then
    some (if rng (bits v 4 7) 5 90 then { s with med := { s.med with slcLow := bits v 4 7 } } else bad)
  else if off = 0x24 then
    some (if rng (bits v 0 10) 20 1000 && rng (bits v 10 6) 1 32 then
      { s with med := { s.med with wlSpread := bits v 0 10, wlMax := bits v 10 6 } } else bad)
  else if off = 0x28 then
    let lo := bits v 0 8
    some (if rng lo 2 64 && rng (bits v 8 8) (lo + 1) 128 then
      { s with med := { s.med with gcLow := lo, gcHigh := bits v 8 8 } } else bad)
  else if off = 0x2C then
    some (if rng (bits v 0 15) 500 20000 then { s with med := { s.med with rebuildRate := bits v 0 15 } } else bad)
  else if off = 0x30 then
    some (if rng (bits v 0 12) 24 2160 then { s with med := { s.med with scrub := bits v 0 12 } } else bad)
  else if off = 0x34 then
    some (if rng (bits v 0 10) 64 512 && rng (bits v 10 10) 32 256 then
      kickAll { s with med := { s.med with progCap := bits v 0 10, eraseCap := bits v 10 10 } } else bad)
  else if off = 0x3C then
    some (if bits v 16 16 = 0x7E57 then { s with med := { s.med with testen := bit v 0 } } else bad)
  else none

end Sys2Proof.Machine
end

