-- ==== Sys2Proof/Machine/Line.lean ====
section
/-! DEFINITION. The fault collector: lines, watchdogs and injections (R19, R371–R373), what each part's fault does (Table
FE-2), the capture window (R374, R375), HALT (R376), miss windows (R228, R229) and the FCL registers. -/

namespace Sys2Proof.Machine

open Sys2Proof

/-! ### Parts -/

/-- A broken sensor input: its reading is replaced under the configured policy (R406). Whether it reads open or short the
line does not tell: a free bit (log entry 32). -/
def breakSensor (n : Nat) (s : State) : State :=
  if 2 ≤ (sensor s n).st || (sensor s n).st = 0 then s
  else
    let (b, s) := drawBit s
    let v := substitute s n
    thermalRise (unrestore (0x130 + n)
      (modSensor n (fun x => { x with st := if b then 2 else 3, subst := true, temp := v, validRun := 0
                                      fast := isFast s n v }) s))

/-- The part of a source is handled as faulted by its own chapter (Table FE-2, Table AR-9). -/
def handlePart (src : Nat) (s : State) : State :=
  if src ≤ 0xBF then fenceLane src s
  else if src ≤ 0xFF then loseChannel (src - 0xC0) s
  else if src ≤ 0x117 then dropDram (src - 0x100) s
  else if src ≤ 0x127 then restoredOrHeld src s
  else if src ≤ 0x12B then fenceKeccak (src - 0x128) s
  else if src ≤ 0x12D then portFails (src - 0x12C) false s
  else if 0x130 ≤ src && src ≤ 0x147 then breakSensor (src - 0x130) s
  else if src = 0x172 || src = 0x173 then portFails (src - 0x172) true s
  else if src = 0x174 then { s with sys := { s.sys with avsStopped := true, vreq := s.sys.vack } }
  else if 0x150 ≤ src && src ≤ 0x16F then unrestore src s
  else s

/-- An error that a source's line reports: the fault reaches the arbiter, and a part whose default is DEGRADE is handled as
faulted. -/
def lineError (src access master addr : Nat) (s : State) : State :=
  if defaultSev src = 0 then s else handlePart src (raise src (lineFault src access master addr) s)

/-- FAULT_LINE_ERROR: a broken line reports no error (R372). -/
def faultLineErrorEffect (src : Fin 384) (addr : U64) (master : Byte) (access : BitVec 4) (s : State) :
    State :=
  (if s.fcl.halted || s.fcl.broken.contains src.val then s
    else lineError src.val access.toNat master.toNat addr.toNat s)

/-- HANDSHAKE_TIMEOUT: reported on the line of the block that owes the acknowledgement; a missed internal deadline (R19,
R373, Table LT-7). -/
def handshakeTimeoutEffect (src : Fin 384) (stage : U64) (master : Byte) (s : State) : State :=
  (if s.fcl.halted || defaultSev src.val = 0 then s
    else missInternal (lineError src.val 4 master.toNat stage.toNat s))

/-- Insert a source into the broken lines, ascending. -/
def insertNat (n : Nat) : List Nat → List Nat
  | [] => [n]
  | x :: l => if n < x then n :: x :: l else if n = x then x :: l else x :: insertNat n l

/-- A pair at (0, 0) or (1, 1) for more than 20 ns: the line is broken until the next cold start, a LINE_BROKEN record of
severity DEGRADE. A part whose default is DEGRADE is handled as faulted; another stays in use (R372). -/
def lineBroken (src master : Nat) (s : State) : State :=
  if defaultSev src = 0 || s.fcl.broken.contains src then s
  else
    let s := raise src { (lineFault src 8 master 0) with severity := sevDegrade, code := kLineBroken }
      { s with fcl := { s.fcl with broken := insertNat src s.fcl.broken } }
    if defaultSev src = sevDegrade then handlePart src s else s

/-- LINE_BROKEN. -/
def lineBrokenEffect (src : Fin 384) (s : State) : State :=
  (if s.fcl.halted then s else lineBroken src.val 0xFF s)

/-! ### The capture window -/

/-- HALT (R376): acceptance closes, no further frame is sent, the media pins are safe, ALIVE is low. The next start treats
the work of a run that it struck as that of a dump begun and never ended; a dump with its end marker stands. DRST0_N and
DRST1_N go low with the media pins (DESIGN CHOICE: R36 names CE_N and WP_N only; log entry 111). -/
def haltNow (s : State) : State :=
  let struck := s.sys.boot = .run || s.sys.boot = .warm || (s.sys.boot = .dump && !s.sys.dumpMarker)
  { s with
    sys := { s.sys with boot := .halt, open' := false, transport := false
                        dumpBegun := s.sys.dumpBegun || struck
                        dumpMarker := s.sys.dumpMarker && !struck }
    pins := { s.pins with alive := .low, media := .safe, drst := false }
    fcl := { s.fcl with halted := true } }

/-- Order of the arbiter within a window: severity, highest first, then ascending source (R374). -/
def faultBefore (a b : Fault') : Bool := b.severity < a.severity || (a.severity = b.severity && a.source ≤ b.source)

/-- Payload of a fault's record (Table FE-8): ARG0–ARG9 where its kind has the generic layout (R380). -/
def faultRecPayload (f : Fault') (follow : Nat) : Nat :=
  if f.code = kFault || f.code = kLineBroken || f.code = kOffDomain then
    faultPayload f.addr f.access f.master follow f.payload
  else f.payload

/-- NOTICE faults of a source line in the device window (R371). -/
def noticeCount (s : State) (src : Nat) : Nat := sumNat (amGetD s.fcl.noticeCnt src [])

/-- A NOTICE fault of a line counts; the one that passes REPEAT_LIMIT raises one DEGRADE fault of the source (R371). -/
def countNotice (f : Fault') (s : State) : State :=
  if f.severity != sevNotice || f.source = noSource then s
  else
    let l := modNth (amGetD s.fcl.noticeCnt f.source (List.replicate 16 0)) 0 (· + 1)
    let s := { s with fcl := { s.fcl with noticeCnt := amSet s.fcl.noticeCnt f.source l } }
    if noticeCount s f.source = s.img.repeatLimit + 1 then
      raise f.source { f with severity := sevDegrade, code := kFault, payload := 0 } s
    else s

/-- One fault of a window in the arbiter's order: counted, captured or counted as a follower (R375), recorded, and acted on
by its severity (Table FE-1). -/
def takeFault (time : Nat) (simul : Bool) (f : Fault') (s : State) : State :=
  let counts := s.fcl.capmin ≤ f.severity
  let first := counts && !s.fcl.firstValid
  let s := { s with fcl := { s.fcl with
    sevcnt := modNth s.fcl.sevcnt (f.severity - 1) satInc
    follow := if counts && !first then satInc s.fcl.follow else s.fcl.follow } }
  let s := if first then { s with fcl := { s.fcl with
      firstValid := true, fSource := f.source, fSeverity := f.severity, fAccess := f.access, fMaster := f.master
      fSimul := simul, fAddr := f.addr, fTime := time, fSeq := s.obs.seq } } else s
  let s := eventAt time f.code f.severity f.source f.inst simul first (faultRecPayload f s.fcl.follow) s
  let s := if sevDegrade ≤ f.severity && f.severity < sevHalt then wake 3 f.severity s else s
  if f.severity = sevHalt then haltNow s else countNotice f s

/-- CAPTURE_WINDOW_CLOSE (R374). -/
def captureWindowCloseEffect (s : State) : State :=
  let w := s.fcl.window.mergeSort fun a b => faultBefore a b
  let t := s.fcl.windowAt
  let s := { s with fcl := { s.fcl with window := [] } }
  (match w with
    | [] => s
    | f :: l => l.foldl (fun s f => takeFault t true f s) (takeFault t false f s))

/-! ### Misses -/

/-- Severity of a miss, by the row of Table LT-7; that of a handshake is its source's (R19, Table FE-2). -/
def missSeverity (src : Nat) : InternalDeadline → Nat
  | .handshake => defaultSev src
  | .rejectSent => sevNotice
  | .ackSent => sevNotice
  | .abortAttempt => sevNotice
  | .caughtRelease => sevNotice
  | .delivery => sevNotice
  | .deviceAbort => sevNotice
  | .hwtWait => sevDegrade
  | .suspension => sevNotice
  | .startStep => sevDegrade
  | .dumpStep => sevContain

/-- INTERNAL_DEADLINE_MISS: a fault of the severity that its row of Table LT-7 gives, counted in the device window (R20,
R229). -/
def execInternalDeadlineMiss (src : Fin 384) (row : InternalDeadline) (step : Nat) (s : State) :
    Host.Outcome State Fault Refusal :=
  let f := ruleFault kInternalMiss (missSeverity src.val row) src.val noInst [step]
  .next (if s.fcl.halted then s else missInternal (raise src.val { f with access := 9 } s))

/-- A new sub-window: the oldest of 16 drops out. -/
def nextSubwindow (l : List Nat) : List Nat := (0 :: l).take 16

/-- MISS_SUBWINDOW_END, of an instance or of the device: the flag clears where the count of the window that ends is at or
below the limit, with a NOTICE record (R228). The count of R371 runs in the device window too. -/
def execMissSubwindowEnd (i : Option (Fin 1024)) (s : State) : Host.Outcome State Fault Refusal :=
  .next (match i with
    | some i => match inst? s i.val with
      | none => s
      | some x =>
        let n := sumNat x.misses
        let clear := x.escalated && n ≤ x.params.missLimit
        let s := setInst i.val { x with misses := nextSubwindow x.misses, escalated := x.escalated && !clear } s
        if clear then event kEscalated sevNotice 0x162 i.val [] s else s
    | none =>
      let n := sumNat s.fcl.missDev
      let clear := s.fcl.escalated && n ≤ s.img.missLimit
      let s := { s with fcl := { s.fcl with
        missDev := nextSubwindow s.fcl.missDev
        escalated := s.fcl.escalated && !clear
        noticeCnt := s.fcl.noticeCnt.map fun p => (p.1, nextSubwindow p.2) } }
      if clear then event kEscalated sevNotice 0x162 noInst [] s else s)

/-! ### FCL registers -/

/-- FCL_STATUS.ALIVE. -/
def aliveCode : Alive → Nat
  | .low => 0
  | .khz10 => 1
  | .khz1 => 2
  | .hz100 => 3
  | .high => 4

/-- Word of a 64-bit register: 0 low, 1 high. -/
def word64 (x : Nat) (hi : Bool) : Nat := if hi then x / 2 ^ 32 % 2 ^ 32 else x % 2 ^ 32

/-- FCL registers by offset in the block, but for the 64-bit ones. -/
def fclRead (off : Nat) (s : State) : Option Nat :=
  if off = 0x00 then
    some (flag s.fcl.firstValid 0 + flag s.fcl.contained 1 + flag s.fcl.halted 2 + aliveCode s.pins.alive * 8)
  else if off = 0x04 then some (s.fcl.capmin + flag s.fcl.injen 3)
  else if off = 0x08 then
    some (s.fcl.fSource + s.fcl.fSeverity * 2 ^ 9 + s.fcl.fAccess * 2 ^ 12 + s.fcl.fMaster * 2 ^ 16 +
      flag s.fcl.fSimul 24)
  else if off = 0x24 then some s.fcl.follow
  else if 0x28 ≤ off && off ≤ 0x34 && off % 4 = 0 then some (nthNat s.fcl.sevcnt ((off - 0x28) / 4))
  else if off = 0x38 then some (s.fcl.injSource + s.fcl.injPattern * 2 ^ 9)
  else if 0x40 ≤ off && off ≤ 0x6C && off % 4 = 0 then
    let w := (off - 0x40) / 4
    some (sumNat ((s.fcl.broken.filter fun n => n / 32 = w).map fun n => 2 ^ (n % 32)))
  else none

/-- A write of FCL_STATUS: 1 clears FIRST_VALID with FCL_FOLLOW, and CONTAINED (R375). -/
def fclStatus (v : Nat) (s : State) : State :=
  { s with fcl := { s.fcl with
    firstValid := s.fcl.firstValid && !bit v 0
    follow := if bit v 0 then 0 else s.fcl.follow
    contained := s.fcl.contained && !bit v 1 } }

/-- A write of FCL_CTRL: CAPMIN 1–4; INJEN is set with KEY only. -/
def fclCtrl (v : Nat) (s : State) : State :=
  let cap := bits v 0 3
  if cap < 1 || 4 < cap || (bit v 3 && bits v 16 16 != 0x7E51) then regRefused 0x00300004 v s
  else { s with fcl := { s.fcl with capmin := cap, injen := bit v 3 } }

/-- A write of FCL_INJ: with GO and INJEN the pattern is driven on the line and handled as a real one, with MASTER 0x20,
whose address and access type the spec does not give (free values); a TEST record is written (log entry 33). -/
def fclInj (v : Nat) (s : State) : State :=
  let src := bits v 0 9
  let pat := bits v 9 2
  let s := { s with fcl := { s.fcl with injSource := src, injPattern := pat } }
  if !bit v 11 then s
  else if !s.fcl.injen then regRefused 0x00300038 v s
  else
    let s := notice kTest [] s
    if pat = 0 then s
    else if pat = 1 then
      if s.fcl.broken.contains src then s
      else
        let (b, s) := drawBytes 9 s
        lineError src (ofLeBytes (b.take 1) % 12) 0x20 (ofLeBytes (b.drop 1)) s
    else lineBroken src 0x20 s

/-- Writes of FCL registers; none where the register takes no write. -/
def fclWrite (off v : Nat) (s : State) : Option State :=
  if off = 0x00 then some (fclStatus v s)
  else if off = 0x04 then some (fclCtrl v s)
  else if off = 0x38 then some (fclInj v s)
  else none

/-- FIRST_VALID_CLEAR: a write of FCL_STATUS (R375). -/
def execFirstValidClear (v : U32) (s : State) : Host.Outcome State Fault Refusal := .next (fclStatus v.toNat s)

/-- FAULT_INJECTION: a write of FCL_INJ (R372). -/
def faultInjectionEffect (v : U32) (s : State) : State := (fclInj v.toNat s)

/-! ### Rails and clocks -/

/-- Number of a rail. -/
def railNum : Rail → Nat
  | .aon => 0
  | .io18 => 1
  | .ts => 2
  | .pll => 3
  | .core => 4
  | .srd => 5
  | .dphy => 6
  | .nphy => 7
  | .srdh => 8
  | .vccqNand => 9
  | .vddqDram => 10

/-- RAIL_OUT_OF_TOLERANCE: with PFAIL_N high it raises HALT and the media pins are made safe at once, in a dump that
RESET_N began too (R36, R413). In reset the NAND balls are undriven without VCCQ_NAND (R33). DRST0_N and DRST1_N go low with
the media pins (log entry 111). -/
def execRailOutOfTolerance (r : Rail) (s : State) : Host.Outcome State Fault Refusal :=
  let s := { s with pins := { s.pins with rails := amSet s.pins.rails (railNum r) false } }
  .next (if s.pins.pfailN && (s.tck.resetN || s.sys.boot = .dump) && !s.fcl.halted then
      raise 0x170 (lineFault 0x170 10 0x1B (railNum r)) { s with pins := { s.pins with media := .safe, drst := false } }
    else if !s.tck.resetN && s.sys.boot = .start && r = .vccqNand then
      { s with pins := { s.pins with media := .undriven } }
    else s)

/-- SYS_REFCLK_LOSS: a HALT fault, with the media pins made safe (Table PK-7). While RESET_N is low, the device then stays
in reset at its rise (R37). -/
def execSysRefclkLoss (s : State) : Host.Outcome State Fault Refusal :=
  .next (if !s.pins.sysClk then s
    else
      let s := { s with pins := { s.pins with sysClk := false } }
      if s.tck.resetN && !s.fcl.halted && s.sys.hold = .no then
        raise 0x171 (lineFault 0x171 10 0xFF 0) { s with pins := { s.pins with media := .safe, drst := false } }
      else s)

end Sys2Proof.Machine
end

