-- ==== Sys2Proof/Machine/Txn.lean ====
section
/-! DEFINITION. What zone tasks do to zones (R136, R137, R157–R161, R179), what writes store (R136, R169, R178, R180),
the journal's records (R195) and the life of a transaction: members, commit, abort, device abort, apply (R183–R201). -/

namespace Sys2Proof.Machine

open Sys2Proof

/-! ### The journal -/

/-- A record takes the next JSEQ and both copies of the staging (R195). -/
def stageRec (rtype inst txn desc body : Nat) (s : State) : State :=
  { s with jrn := { s.jrn with
      jseq := s.jrn.jseq + 1
      staging := s.jrn.staging ++ [{ rtype := rtype, client := 0, inst := inst, txnId := txn, desc := desc
                                     jseq := s.jrn.jseq, time := s.quartz, bodyNum := body, bad := false }] } }

/-- Bytes 0x00–0x3F of a journal record (Tables TX-3, TX-4), its CHECK among them. -/
def journalBytes (r : JRec) : List Byte :=
  let b := leBytes 1 r.rtype ++ leBytes 1 r.client ++ leBytes 2 r.inst ++ leBytes 2 r.txnId ++ leBytes 2 r.desc ++
    leBytes 8 r.jseq ++ leBytes 8 r.time ++ leBytes 32 r.bodyNum
  b ++ leBytes 8 (crc64 b)

def beginBody (timeout upSeq : Nat) : Nat := timeout + upSeq * 2 ^ 32

def memberBody (m : Member) : Nat :=
  m.op + m.nblk * 2 ^ 16 + m.zone * 2 ^ 32 + m.offset * 2 ^ 64 + m.upSeq.toNat * 2 ^ 96 + m.gen * 2 ^ 128

def commitBody (members zones upSeq counter first : Nat) : Nat :=
  members + zones * 2 ^ 8 + upSeq * 2 ^ 32 + counter * 2 ^ 64 + first * 2 ^ 128

def abortBody (cause upSeq first : Nat) : Nat := cause + upSeq * 2 ^ 32 + first * 2 ^ 64

/-- A record of a zone transaction's descriptor. -/
def ofDesc (desc : Nat) (r : JRec) : Bool := r.client = 0 && r.desc = desc

/-- A descriptor's records leave the staging and the part of the SLC journal that replay reads: its commit is applied, or its
abort (R196, R197). ABORT records of it that wait for a page wait no more. -/
def unstage (desc : Nat) (s : State) : State :=
  let mine := ((s.jrn.staging ++ s.jrn.slc).filter (ofDesc desc)).map (·.jseq)
  { s with jrn := { s.jrn with
      staging := s.jrn.staging.filter fun r => !ofDesc desc r
      slc := s.jrn.slc.filter fun r => !ofDesc desc r
      rides := s.jrn.rides.filter fun n => !mine.contains n } }

/-- Records of a descriptor's commit group or abort (R196). -/
def groupSize (s : State) (desc : Nat) : Nat := match amGet? s.jrn.descs desc with
  | some d => if d.state = .aborting then 1 else max 1 (s.jrn.staging.filter (ofDesc desc)).length
  | none => 1

/-- Groups that fit in a page of 256 records, in order; a group is never split (R196). -/
def pageFill (s : State) : Nat → List Nat → List Nat
  | _, [] => []
  | room, d :: l => if groupSize s d ≤ room then d :: pageFill s (room - groupSize s d) l else []

/-- The writer begins a page while a die of each copy is free: each copy lies on 8 dies, so 8 pages are programmed at a time.
ABORT records of device aborts ride in it beside the first group (R196). -/
def kickPage (s : State) : State :=
  match s.jrn.group with
  | [] => s
  | d :: _ =>
    if 8 ≤ s.jrn.pages.length then s
    else
      let rides := s.jrn.rides.take (256 - groupSize s d)
      let page := pageFill s (256 - rides.length) s.jrn.group
      let (bufs, s) := takePage s
      { s with jrn := { s.jrn with
          pages := s.jrn.pages ++ [{ descs := page, rides := rides, bufs := bufs }]
          group := s.jrn.group.drop page.length, rides := s.jrn.rides.drop rides.length } }

/-- The records that a page holds: commit groups and the ABORT records of the aborts whose descriptors it names, and those
that ride (R196). -/
def inPage (s : State) (p : JPage) (r : JRec) : Bool :=
  r.client = 0 && (p.rides.contains r.jseq || (p.descs.contains r.desc &&
    (r.rtype = 4 || (amGet? s.jrn.descs r.desc).any fun d => d.state = .committing)))

/-- A programmed page's records stand in the SLC journal and leave the staging (R196, R197). -/
def programPage (p : JPage) (s : State) : State :=
  { s with jrn := { s.jrn with
      slc := s.jrn.slc ++ s.jrn.staging.filter (inPage s p)
      staging := s.jrn.staging.filter fun r => !inPage s p r } }

/-! ### Zones -/

def modZone (i z : Nat) (f : Zone → Zone) (s : State) : State :=
  modInst i (fun x => putZone z (f (zoneOf x z)) x) s

/-- The zone's new state; CHANGED is the time of the last change (Table ZN-6). -/
def toState (now : Nat) (st : ZState) (zn : Zone) : Zone :=
  if zn.state = st then zn else { zn with state := st, changed := now }

/-- Bind an EMPTY zone to a key, a hint and a die set (R136, R165, R166). -/
def bindZone (i z key : Nat) (hint : Byte) (s : State) : State :=
  match inst? s i with
  | none => s
  | some x =>
    let want := targetSlc x hint
    match chooseSet s x want (hintStream hint) with
    | none => s
    | some (d, slc) =>
      let s := if want && !slc then tally i 0x0006 0 1 s else s
      let n := s.med.binds
      modInst i (fun x => { putZone z { zoneOf x z with key := key, hint := hint, set := d.num, slcTarget := slc, bound := n } x with
        lastSet := d.num }) { s with med := { s.med with binds := n + 1 } }

/-- Places kept in a superblock's incomplete native group are given up: its blocks in staging extents are folded as other SLC data
are (R245, R251). -/
def dropNatives (i n : Nat) (s : State) : State :=
  let f := fun (st : Stored) => if (st.native.map Prod.fst) = some n then { st with native := none } else st
  modInst i (fun x => { x with
    zones := x.zones.map fun z => (z.1, { z.2 with blocks := z.2.blocks.map fun b => (b.1, f b.2) })
    conv := x.conv.map fun b => (b.1, f b.2) }) s

/-- Close the superblock that a zone fills, if any, unless another zone's data continue in it (R167); no further block goes into
it. -/
def closeZoneSb (i z : Nat) (s : State) : State :=
  match inst? s i with
  | none => s
  | some x => match (zoneOf x z).sb with
    | none => s
    | some n =>
      let shared := x.zones.any fun q => q.1 != z && q.2.sb = some n
      modZone i z (fun zn => { zn with sb := none }) (if shared then s else dropNatives i n (closeSb n s))

/-- A zone enters EMPTY: it gives up its key, hint, die set, write pointer and WASTE; its folds end (R159, R252). -/
def emptyZone (i z : Nat) (s : State) : State :=
  let s := endFold i z (holdFlash i z s)
  modZone i z (fun zn => { toState s.quartz .empty zn with
    wp := 0, waste := 0, pending := 0, key := 0, hint := 0, set := 0xFFFF, slcTarget := false, blocks := [] })
    (closeZoneSb i z s)

/-- ZONE_FINISH (R159): the write pointer goes to ZONE_CAP and the blocks passed over to WASTE. -/
def finishZone (i z : Nat) (s : State) : State :=
  match inst? s i with
  | none => s
  | some x =>
    let cap := x.params.zoneCap
    modZone i z (fun zn =>
      if zn.state = .full then zn
      else { toState s.quartz .full zn with waste := zn.waste + (cap - zn.wp), wp := cap }) s

/-- Change every zone of an instance that a descriptor holds. -/
def modHeld (desc i : Nat) (f : Zone → Zone) (s : State) : State :=
  modInst i (fun x =>
    let zs := x.zones.map fun z => if z.2.txn = some desc then (z.1, f z.2) else z
    { x with zones := zs }) s

/-- The zones of a descriptor are no longer held by it (R186). -/
def freeZones (desc i : Nat) (s : State) : State := modHeld desc i (fun z => { z with txn := none }) s

/-- Blocks of an instance that an uncommitted transaction has written. -/
def pendingOf (s : State) (desc i : Nat) : List (Nat × Stored) :=
  ((inst? s i).map fun x => x.zones.flatMap fun z => z.2.blocks.filter fun b => b.2.desc = some desc).getD []

/-- An abort moves the members' PENDING into WASTE in one update; their blocks are unwritten, and their twin entries are
discarded (R191, R171). -/
def wastePending (desc i : Nat) (s : State) : State :=
  modHeld desc i (fun z => { z with
    waste := z.waste + z.pending, pending := 0, blocks := z.blocks.filter fun b => b.2.desc != some desc })
    (dropTwins i (pendingOf s desc i) s)

/-- A commit clears PENDING, makes the members' blocks readable and releases the zone (R161, R186, R189). -/
def commitZone (desc : Nat) (z : Zone) : Zone :=
  { z with pending := 0, txn := none
           blocks := z.blocks.map fun b => (b.1, if b.2.desc = some desc then { b.2 with desc := none } else b.2) }

/-- A device abort (R140, R192): the record of severity NOTICE and the journal record with its cause. -/
def deviceAbort (desc cause : Nat) (s : State) : State :=
  match amGet? s.jrn.descs desc with
  | none => s
  | some d =>
    if d.state != .opened then s
    else
      let s := { s with jrn := { s.jrn with
        rides := s.jrn.rides ++ [s.jrn.jseq]
        descs := amModify s.jrn.descs desc fun d => { d with state := .devAborted } } }
      let s := stageRec 0x04 d.inst d.txnId desc (abortBody cause 0 d.firstJseq) s
      event kTxn sevNotice noSource d.inst [d.inst, d.txnId, cause] (wastePending desc d.inst s)

/-- A zone moves to OFFLINE, which aborts the open transaction that holds it as a member (Table ZN-4, R193). -/
def offlineZone (i z : Nat) (s : State) : State :=
  match inst? s i with
  | none => s
  | some x =>
    let s := moveZone i z .offline (closeZoneSb i z s)
    match (zoneOf x z).txn with
    | some n => deviceAbort n 3 s
    | none => s

/-- ZONE_RESET (R159, R179): from any state but EMPTY the generation advances; at its largest value the zone goes OFFLINE
with GEN_EXHAUSTED instead. Its twin entries are for the caller to discard. -/
def clearZone (i z : Nat) (s : State) : State :=
  match inst? s i with
  | none => s
  | some x =>
    let zn := zoneOf x z
    if zn.state = .empty then s
    else if zn.gen = 2 ^ 42 - 1 then
      if zn.genExhausted then s
      else offlineZone i z (modZone i z (fun zn => { zn with genExhausted := true }) s)
    else modZone i z (fun zn => { zn with gen := zn.gen + 1 }) (emptyZone i z s)

/-- ZONE_RESET outside a transaction: the twin entries of the zone are discarded (R159, R177). -/
def resetZone (i z : Nat) (s : State) : State :=
  if (inst? s i).any fun x => (zoneOf x z).gen = 2 ^ 42 - 1 then clearZone i z s else clearZone i z (dropZone i z s)

/-- ZONE_OPEN (R137). -/
def openZone (i z key : Nat) (hint : Byte) (s : State) : State :=
  match inst? s i with
  | none => s
  | some x =>
    let s := if (zoneOf x z).state = .empty then bindZone i z key hint s else s
    modZone i z (toState s.quartz .explicitOpen) s

/-- ZONE_CLOSE (Table ZN-3): an EXPLICIT_OPEN zone with write pointer 0 returns to EMPTY. -/
def closeZone (i z : Nat) (s : State) : State :=
  match inst? s i with
  | none => s
  | some x =>
    let zn := zoneOf x z
    if zn.state = .explicitOpen && zn.wp = 0 then emptyZone i z s
    else modZone i z (toState s.quartz .closed) s

/-- A zone operation by its OPCODE. -/
def zoneOp (i op z key : Nat) (hint : Byte) (s : State) : State :=
  if op = 0x04 then openZone i z key hint s
  else if op = 0x05 then closeZone i z s
  else if op = 0x06 then finishZone i z s
  else resetZone i z s

/-- RESULT of a zone operation: write pointer and state code after it (R137). -/
def zoneResult (s : State) (i z : Nat) : Nat := match inst? s i with
  | none => 0
  | some x => (zoneOf x z).wp + zcode (zoneOf x z).state * 2 ^ 32

/-- Zones whose map entry is poisoned in both copies, or lies on two lost channels, move to OFFLINE (R336, Table ZN-4). -/
def zonesUnmapped (s : State) : State :=
  if s.dmc.bad.isEmpty && s.dmc.rebuilding.length < 2 then s
  else s.insts.foldl (fun s p => (List.range p.2.params.zoneCount).foldl (fun s z =>
    if (zoneOf p.2 z).state != .offline && deadBoth s (mapLine p.1 z) 128 then offlineZone p.1 z s else s) s) s

/-- Zones of which more than 1 % of the written blocks cannot be recovered move to OFFLINE (Table ZN-4). -/
def zonesSpent (s : State) : State :=
  s.insts.foldl (fun s p => p.2.zones.foldl (fun s z =>
    let gone := (z.2.blocks.filter fun b => b.2.harm != .whole || match b.2.place with
      | some pl => b.2.onFlash && placeGone s pl && !othersAlive s pl
      | none => false).length
    if z.2.state != .empty && z.2.state != .offline && z.2.wp - z.2.waste < gone * 100 then offlineZone p.1 z.1 s else s) s) s

/-- Zones that have lost their map entry or too much of their data move to OFFLINE (R160, Table ZN-4). -/
def zonesOffline (s : State) : State := zonesSpent (zonesUnmapped s)

/-! ### Writes -/

/-- A block sealed under a data key slot of an instance (R178). -/
def sealFor (x : Inst) (key : Nat) (nonce : BitVec 96) (dm : U64) (f : DataFrame) : Sealed :=
  let r := sealData x.params.metaFmt (amGetD x.keys key 0) nonce f.data f.md
  { c := r.1, mc := r.2.1, tag := r.2.2, key := key, dm := dm }

/-- An accepted block of a zone, with its twin buffers (R172, R178). Its device metadata are 0 (log entry 128). -/
def zoneBlock (i z off pos : Nat) (x : Inst) (zn : Zone) (desc : Option Nat) (f : DataFrame) (twin : Option (Nat × Nat)) :
    Stored :=
  { box := sealFor x zn.key (zoneNonce i z off zn.gen) 0 f, hint := zn.hint, pos := pos, twin := twin, place := none
    onFlash := false, slcPage := false, native := none, desc := desc, harm := .whole }

/-- Device metadata of a conventional block: its write count in bytes 0–6, the hint in byte 7 (R180). -/
def convMeta (count : Nat) (hint : Byte) : U64 := BitVec.ofNat 64 (count % 2 ^ 56 + hint.toNat * 2 ^ 56)

/-- An accepted conventional block, with its twin buffers (R170, R172, R180). -/
def convBlock (i key count pos : Nat) (hint : Byte) (x : Inst) (f : DataFrame) (twin : Option (Nat × Nat)) : Stored :=
  { box := sealFor x key (convNonce i count) (convMeta count hint) f, hint := hint, pos := pos, twin := twin, place := none
    onFlash := false, slcPage := false, native := none, desc := none, harm := .whole }

/-- Blocks paired with their indexes from `n` on. -/
def indexed (n : Nat) (l : List DataFrame) : List (Nat × DataFrame) := ((List.range l.length).map (n + ·)).zip l

/-- Twin buffers that row 13 reserved for a task's `n`-th block. -/
def stagedAt (x : Inst) (n : Nat) : Option (Nat × Nat) := x.stagedBufs[n]?

/-- Store the blocks of a zone write at the write pointer, which advances; an EMPTY zone is bound first (R136, R157). -/
def storeZone (i z key pos : Nat) (hint : Byte) (desc : Option Nat) (l : List DataFrame) (s : State) : State :=
  match inst? s i with
  | none => s
  | some x =>
    let s := if (zoneOf x z).state = .empty then bindZone i z key hint s else s
    let wp := (zoneOf x z).wp
    let s := modInst i (fun x =>
      let zn : Zone := zoneOf x z
      let zn : Zone := { zn with
        wp := wp + l.length
        pending := if desc.isSome then zn.pending + l.length else zn.pending
        txn := if desc.isSome then desc else zn.txn
        blocks := (indexed wp l).foldl (fun m p =>
          amSet m p.1 (zoneBlock i z p.1 pos x zn desc p.2 (stagedAt x (p.1 - wp)))) zn.blocks }
      let st : ZState := if x.params.zoneCap ≤ zn.wp then .full
        else if zn.state = .explicitOpen then .explicitOpen else .implicitOpen
      { putZone z (toState s.quartz st zn) x with stagedBufs := [] }) s
    (indexed wp l).foldl (fun s p => placeBlock { inst := i, conv := false, zone := z, offset := p.1 } s) s

/-- Store the blocks of a conventional write; each takes the next value of its key slot's write count, and supersedes the entry
that it replaces (R169, R177, R180). A write that was meant for SLC and finds no superblock there counts as a redirection (R165). -/
def storeConv (i blk key pos : Nat) (hint : Byte) (l : List DataFrame) (s : State) : State :=
  match inst? s i with
  | none => s
  | some x =>
    let c := amGetD x.wcounts key 0
    let s := dropTwins i (x.conv.filter fun b => blk ≤ b.1 && b.1 < blk + l.length) s
    let s := modInst i (fun x => { x with
      wcounts := amSet x.wcounts key (c + l.length), stagedBufs := []
      conv := (indexed 0 l).foldl (fun m p =>
        amSet m (blk + p.1) (convBlock i key (c + p.1) pos hint x p.2 (stagedAt x p.1))) x.conv }) s
    let s := (indexed 0 l).foldl (fun s p => placeBlock { inst := i, conv := true, zone := 0, offset := blk + p.1 } s) s
    if targetSlc x hint && (indexed 0 l).any fun p =>
        (stored? s { inst := i, conv := true, zone := 0, offset := blk + p.1 }).any fun st => st.place.isSome && !st.slcPage then
      tally i 0x0006 0 1 s
    else s

/-! ### Transactions -/

/-- TXN_BEGIN: a descriptor opens (R183); the timeout is the task's or the instance's default (Table TX-1). -/
def beginTxn (i txn timeout : Nat) (seq : U32) (s : State) : State :=
  match inst? s i with
  | none => s
  | some x =>
    let n := freeDesc s
    let ms := if timeout = 0 then x.params.txnTimeoutMs else timeout
    let d : Desc := { inst := i, txnId := txn, state := .opened, members := [], timeoutMs := ms, began := s.quartz
                      firstJseq := s.jrn.jseq, slot := 0, counter := 0, closePos := 0, undo := [] }
    stageRec 0x01 i txn n (beginBody ms seq.toNat) { s with jrn := { s.jrn with descs := amSet s.jrn.descs n d } }

/-- A member joins its transaction and its zone is held (R183, R186, R195). -/
def addMember (i desc : Nat) (m : Member) (s : State) : State :=
  match amGet? s.jrn.descs desc with
  | none => s
  | some d =>
    let s := { s with jrn := { s.jrn with
      descs := amModify s.jrn.descs desc fun d => { d with members := d.members ++ [m] } } }
    modZone i m.zone (fun zn => { zn with txn := some desc }) (stageRec 0x02 i d.txnId desc (memberBody m) s)

/-- A member finish or reset takes effect at the commit, unless a reset has made it void or Table ZN-3 does not allow it
from the zone's state at that instant (R188, R190). -/
def applyMember (i : Nat) (m : Member) (s : State) : State :=
  match inst? s i with
  | none => s
  | some x =>
    let zn := zoneOf x m.zone
    if zn.gen != m.gen then s
    else if m.op = 0x06 && zn.state != .readOnly && zn.state != .offline then finishZone i m.zone s
    else if m.op = 0x07 && !(zn.state = .offline && zn.genExhausted) then clearZone i m.zone s
    else s

/-- The zones of a commit as they stand before it, each with the state, write pointer and generation that it leaves (R201). -/
def undoOf (before after : State) (i : Nat) (zs : List Nat) : List (Nat × Zone × ZState × Nat × Nat) :=
  match inst? before i, inst? after i with
  | some x, some y => zs.map fun z =>
      let zn := zoneOf y z
      (z, zoneOf x z, zn.state, zn.wp, zn.gen)
  | _, _ => []

/-- The acceptance update of a TXN_COMMIT (R183, R186, R189, R190): PENDING clears, the members take effect in their
order, the zones are released, and the commit's group waits for the SLC journal. -/
def commitTxn (i desc slot pos : Nat) (seq : U32) (counter : Nat) (s : State) : State :=
  match amGet? s.jrn.descs desc with
  | none => s
  | some d =>
    let s := stageRec 0x03 i d.txnId desc
      (commitBody d.members.length (txnZones d).length seq.toNat counter d.firstJseq) s
    let s := { s with jrn := { s.jrn with
      descs := amModify s.jrn.descs desc fun d => { d with
        state := .committing, slot := slot, counter := counter, closePos := pos }
      group := s.jrn.group ++ [desc] } }
    let t := d.members.foldl (fun s m => applyMember i m s) (kickPage (modHeld desc i (commitZone desc) s))
    { t with jrn := { t.jrn with
        descs := amModify t.jrn.descs desc fun e => { e with undo := undoOf s t i (txnZones d) } } }

/-- RESULT of a TXN_COMMIT: members and zones (R139). -/
def commitResult (d : Desc) : Nat := d.members.length + (txnZones d).length * 2 ^ 8

/-- The acceptance update of a TXN_ABORT (R183, R191). -/
def abortTxn (i desc : Nat) (seq : U32) (s : State) : State :=
  match amGet? s.jrn.descs desc with
  | none => s
  | some d =>
    let s := stageRec 0x04 i d.txnId desc (abortBody 1 seq.toNat d.firstJseq) s
    let s := if d.state = .opened then wastePending desc i s else s
    kickPage (freeZones desc i { s with jrn := { s.jrn with
      descs := amModify s.jrn.descs desc fun d => { d with state := .aborting }
      group := s.jrn.group ++ [desc] } })

/-- Twin entries of the zones that a commit has reset are discarded with its apply: until then the reset may be undone (R177,
R201). -/
def dropUndo (desc : Nat) (s : State) : State :=
  match amGet? s.jrn.descs desc with
  | none => s
  | some d => (d.undo.filter fun u => u.2.1.gen != u.2.2.2.2).foldl (fun s u => dropTwins d.inst u.2.1.blocks s) s

/-- A descriptor is freed with its records; no page names it any more (R183). -/
def freeDescriptor (desc : Nat) (s : State) : State :=
  let s := dropUndo desc (unstage desc s)
  { s with jrn := { s.jrn with
      descs := amErase s.jrn.descs desc, group := s.jrn.group.filter (· != desc)
      pages := s.jrn.pages.map fun p => { p with descs := p.descs.filter (· != desc) }
      waitingApply := s.jrn.waitingApply.filter (· != desc) } }

/-- Map-cache lines of a transaction's zones. -/
def txnLines (d : Desc) : List Nat := ((txnZones d).map fun z => mapLine d.inst z).eraseDups

/-- Reads and reports that a commit's apply held go on (R190). -/
def dropHold (desc : Nat) (s : State) : State :=
  { s with insts := s.insts.map fun p => (p.1, { p.2 with slots := p.2.slots.map fun q => match q.2 with
    | .held t => (q.1, .held { t with holds := t.holds.filter (· != desc) })
    | .done .. => q }) }

end Sys2Proof.Machine
end

