-- ==== Sys2Proof/Machine/Accept.lean ====
section
/-! DEFINITION. The acceptance instant (R130) and what each task type does from it on: reads and their blocks (R133, R171,
R175, R189), writes (R136), zone operations (R137), reports (R138, R147, R148), transactions (R139, R140), ABORT (R141–
R144), FLUSH (R146), mailboxes (R149, R150, R279–R281) and keys (R152). -/

namespace Sys2Proof.Machine

open Sys2Proof

/-! ### The accepted task -/

/-- The task record of an accepted TASK frame. -/
def newTask (s : State) (x : Inst) (f : TaskFrame) (payload : Block) (ready : Nat) : Task :=
  let op := recOp f.record
  let t : Task :=
    { op := op, seq := f.env.hdr.seq, record := f.record, link := f.env.link.val
      trailer := if hasTrailer f.env.hdr then some f.trailer else none, payload := payload, acceptTime := s.quartz
      ready := ready, pos := x.pos, latch := if opAbortable op then .running else .committed, blocks := []
      looked := false, heldBack := none, failedFirst := 0xFFFF, failedCount := 0, fillCount := 0, lost := false, poison := false
      authFail := false, desc := none, holds := [], result := 0, cause := x.waited, since := x.waitedSince
      spent := x.waitedSpent, reply := [] }
  turn .other s.quartz t

/-- Descriptors in COMMITTING that hold a read or a report of some zones (R190). -/
def holdersOf (s : State) (i : Nat) (zones : Nat → Bool) : List Nat :=
  (s.jrn.descs.filter fun p => p.2.inst = i && p.2.state = .committing && (txnZones p.2).any zones).map Prod.fst

/-! ### READ -/

/-- Nonce of a stored block: by its place and the zone's generation, or by the write count in its device metadata (R178–R180). -/
def nonceAt (x : Inst) (k : BlkKey) (b : Sealed) : BitVec 96 :=
  if k.conv then convNonce k.inst (b.dm.toNat % 2 ^ 56) else zoneNonce k.inst k.zone k.offset (zoneOf x k.zone).gen

/-- A block of a READ as it stands at its place in the order: unwritten (R171, R189), lost, in the twin buffer, or on
flash (R175). -/
def readBlock (s : State) (x : Inst) (k : BlkKey) : ReadBlock :=
  let fill : ReadBlock :=
    { stage := .fill, box := none, nonce := 0, harm := .whole, data := fillBlock x.params.fill, md := fillMeta x.params.fill
      twin := none, ref := false, out := none, place := none, need := 0 }
  match stored? s k with
  | none => fill
  | some st =>
    if st.desc.isSome then fill
    else
      let rb := { fill with box := some st.box, nonce := nonceAt x k st.box, harm := st.harm, data := 0, md := 0 }
      if st.harm != .whole then { rb with stage := .failed, place := st.place }
      else if !st.onFlash then { rb with stage := .lane, twin := st.twin }
      else { rb with stage := .array 0, place := st.place }

/-- Blocks at a stage. -/
def countStage (l : List ReadBlock) (p : ReadStage → Bool) : Nat := (l.filter fun b => p b.stage).length

def isFill : ReadStage → Bool
  | .fill => true
  | _ => false

def isFailed : ReadStage → Bool
  | .failed => true
  | _ => false

def isLane : ReadStage → Bool
  | .lane => true
  | _ => false

/-- Lines of the map entries that a task on blocks looks up. -/
def blockLines (i : Nat) (r : BitVec 512) : List Nat :=
  if recConv r then ((List.range (recNblk r)).map fun b => convLine i (recConvBlk r + b)).eraseDups else [mapLine i (recZone r)]

/-- A READ that no commit holds looks its blocks up; where an HWT has its line locked it waits for the unlock (R203). -/
def lookupRead (i slot : Nat) (s : State) : State :=
  match heldTask s i slot with
  | none => s
  | some t =>
    if (blockLines i t.record).any (hwtLocked s) then
      { s with jrn := { s.jrn with waitingReads := s.jrn.waitingReads ++ [(i, slot, t.seq)] } }
    else startRead i slot s

/-- Effect of an accepted READ (R133). -/
def acceptRead (i slot : Nat) (s : State) : State :=
  match heldTask s i slot, inst? s i with
  | some t, some x =>
    let bs := (List.range (recNblk t.record)).map fun b => readBlock s x (readKeyOf i t.record b)
    let holds := if recConv t.record then [] else holdersOf s i (· = recZone t.record)
    let failed := countStage bs isFailed
    let lost := (bs.filter fun b => b.harm = .lost).length
    let s := modTask i slot (fun t => { (if holds.isEmpty then t else turn .commitHold s.quartz t) with
      blocks := bs, holds := holds, fillCount := countStage bs isFill
      failedFirst := if failed = 0 then 0xFFFF else bs.findIdx fun b => isFailed b.stage
      failedCount := failed, lost := lost != 0, poison := lost < failed }) s
    let s := tally i 0x0006 7 (countStage bs isLane) (tally i 0x0006 8 (countStage bs isFill) s)
    let s := if lost = 0 then s else tally i 0x0006 5 lost s
    let s := if lost < failed then tally i 0x0006 6 (failed - lost) s else s
    if holds.isEmpty then lookupRead i slot s else s
  | _, _ => s

/-! ### Reports -/

/-- The status of a report, lateness apart: the order of R134. -/
def reportStatus (t : Task) : Nat :=
  if t.lost then stUnrecovered else if t.poison then stPoisoned else if t.authFail then stDataAuth else stOk

/-- The data of an accepted report, or its message, wait to be delivered (R142, log entry 118). -/
def queueDue (i slot : Nat) (s : State) : State :=
  match heldTask s i slot with
  | none => s
  | some t => { s with sys := { s.sys with due := s.sys.due ++ [(i, slot, t.seq)] } }

/-- Send the DATA blocks of a report, the last with LAST, and complete it (R133, R138). Data that carry poison, or that are
lost, are not sent (R134, R336). -/
def sendReport (i slot : Nat) (s : State) : State :=
  match heldTask s i slot with
  | none => s
  | some t =>
    let st := reportStatus t
    let l := if st = stOk then t.reply else []
    let s := modTask i slot (fun t => { t with
      latch := if t.latch = .running then .committed else t.latch
      blocks := l.map fun d => { stage := .lane, box := none, nonce := 0, harm := .whole, data := d, md := 0, twin := none
                                 ref := false, out := none, place := none, need := 0 }
      reply := [] }) s
    let s := (List.range l.length).foldl (fun s b =>
      sendBlock i slot b (b + 1 = l.length) (giveBuf i slot b (t.link / 8) s)) s
    completeTask i slot st t.result false s

/-- A report's blocks and RESULT are fixed; it is sent unless a commit holds it (R138, R190). Until its first DATA frame an
ABORT can catch it (R142). -/
def report (i slot : Nat) (blocks : List Block) (result : Nat) (holds : List Nat) (s : State) : State :=
  let s := modTask i slot (fun t => { (if holds.isEmpty then t else turn .commitHold s.quartz t) with
    reply := blocks, result := result, holds := holds }) s
  if holds.isEmpty then queueDue i slot s else s

/-- Zones that a ZONE_REPORT reports, from zone `z` on, and where it resumes (R138). `n`: zones left, `room`: descriptors
that fit, `want`: descriptors wanted. -/
def reportFrom (x : Inst) (filter : Nat) : Nat → Nat → Nat → Nat → List Nat × Nat
  | 0, _, _, _ => ([], 0xFFFFFFFF)
  | n + 1, z, room, want =>
    if want = 0 then ([], z)
    else if filter != 0xFF && zcode (zoneOf x z).state != filter then reportFrom x filter n (z + 1) room want
    else if room = 0 then ([], z)
    else
      let (l, e) := reportFrom x filter n (z + 1) (room - 1) (want - 1)
      (z :: l, e)

/-- Effect of an accepted ZONE_REPORT. -/
def acceptZoneReport (i slot : Nat) (s : State) : State :=
  match heldTask s i slot, inst? s i with
  | some t, some x =>
    let r := t.record
    let z := recField r 0x08 4
    let (l, e) := reportFrom x (recField r 0x12 1) (x.params.zoneCount - z) z (64 * recNblk r) (recField r 0x0C 4)
    let bytes := l.flatMap fun z => leBytes 64 (zoneDesc s x z (zoneOf x z))
    report i slot (blocksOf 256 bytes) (l.length + e * 2 ^ 32) (holdersOf s i l.contains) s
  | _, _ => s

/-- IDENTIFY page 0 (Table CM-19). -/
def identifyInst (s : State) (i : Nat) (x : Inst) : List Byte :=
  let p := x.params
  leBytes 2 i ++ leBytes 2 p.slots ++ leBytes 4 (flag p.metaFmt 0 + flag p.trailerAll 1) ++ leBytes 4 p.zoneSize ++
    leBytes 4 p.zoneCap ++ leBytes 4 p.zoneCount ++ leBytes 2 p.openLimit ++ leBytes 2 p.keyCount ++
    leBytes 8 p.convBlocks ++ leBytes 4 p.fill.toNat ++ leBytes 4 p.txnTimeoutMs ++ leBytes 8 p.typeMask ++
    leBytes 1 (genInForce x) ++ leBytes 15 0 ++ (List.range 32).flatMap (fun n => leBytes 2 (floorEntry s x n)) ++
    leBytes 8 p.bwRate ++ leBytes 8 p.bwDepth ++ leBytes 4 p.opRate ++ leBytes 4 p.opDepth ++ leBytes 2 p.mboxDepth

/-- IDENTIFY page 1 (Table CM-20). -/
def identifyDevice (s : State) : List Byte :=
  bytesOf 4 Config.sysIdent ++ leBytes 4 0 ++ bytesOf 8 s.sys.serial ++ leBytes 4 (fwVersion s s.cfl.running) ++
    leBytes 4 s.img.version ++ leBytes 1 s.sys.incarn ++ leBytes 1 s.qtz.step ++
    leBytes 1 (flag s.med.preserve 0) ++ leBytes 1 (flag (degraded s) 0)

/-- Effect of an accepted IDENTIFY (R147). -/
def acceptIdentify (i slot : Nat) (s : State) : State :=
  match heldTask s i slot, inst? s i with
  | some t, some x =>
    let bs := if recField t.record 0x08 1 = 0 then identifyInst s i x else identifyDevice s
    report i slot [blockOf bs] s.slt.epoch [] s
  | _, _ => s

/-- Effect of an accepted COUNTERS (R148): one snapshot, in as many blocks as it fills, up to NBLK. With the tally unit
faulted it completes with INTERNAL, and a CONTAIN record names the error (Table FE-2, source 0x16D; Table CM-24). -/
def acceptCounters (i slot : Nat) (s : State) : State :=
  match heldTask s i slot with
  | none => s
  | some t =>
    let r := t.record
    if s.fcl.unrestored.contains 0x16D then
      completeTask i slot stInternal 0 false (event kFault sevContain 0x16D i [slot, t.seq.toNat] s)
    else
    let bytes := snapshotBytes s (recField r 0x0A 2) (recField r 0x08 2)
    let n := s.tal.snapSeq
    report i slot (blocksOf (recField r 0x0C 2) bytes) n [] { s with tal := { s.tal with snapSeq := n + 1 } }

/-! ### Mailboxes -/

/-- Place a message in a mailbox and tell the recipient (R281). -/
def placeMessage (from' to' : Nat) (bytes : List Byte) (s : State) : State :=
  let s := modInst to' (fun x => { x with mbox := x.mbox ++ [{ sender := from', bytes := bytes, num := x.mboxCount, harm := .whole }]
                                          mboxCount := x.mboxCount + 1 }) s
  notify to' 0x000A 1 from' (((inst? s to').map (·.mbox.length)).getD 0) s

/-- Delivery of an accepted MAILBOX_SEND (R149): the message is placed, the task's point of no return (R142), or the send
completes with INSTANCE_STATE or SLOT_BUSY. -/
def deliverMessage (i slot : Nat) (s : State) : State :=
  match heldTask s i slot with
  | none => s
  | some t =>
    let to' := recField t.record 0x08 2
    match inst? s to' with
    | none => completeTask i slot stInstState 0 false s
    | some y =>
      if !inService y then completeTask i slot stInstState 0 false s
      else if y.params.mboxDepth ≤ y.mbox.length then completeTask i slot stSlotBusy 0 false s
      else
        let bytes := (bytesOf 4096 t.payload).take (recField t.record 0x0A 2)
        completeTask i slot stOk (Config.messageNumber to' y.mboxCount).toNat false (placeMessage i to' bytes
          (modTask i slot (fun t => { t with latch := .committed }) s))

/-- A MAILBOX_READ returns the oldest message and removes it (R150). A caught one leaves it at the head (R142). -/
def readMailbox (i slot : Nat) (s : State) : State :=
  match inst? s i with
  | none => s
  | some x => match x.mbox with
    | [] => completeTask i slot stOk 0 false s
    | m :: rest =>
      let res := m.sender + m.bytes.length * 2 ^ 16 + rest.length * 2 ^ 32
      sendReport i slot (modTask i slot (fun t => { t with
        reply := [blockOf m.bytes], result := res, poison := m.harm = .poison, lost := m.harm = .lost })
        (modInst i (fun x => { x with mbox := rest }) s))

/-- Effect of an accepted MAILBOX_SEND: its delivery follows at the next idle tick (R149; DESIGN CHOICE: the moment within the
20 µs; log entry 118). -/
def acceptMailboxSend (i slot : Nat) (s : State) : State := queueDue i slot s

/-- Effect of an accepted MAILBOX_READ: its answer follows (R150). -/
def acceptMailboxRead (i slot : Nat) (s : State) : State := queueDue i slot s

/-- A ZONE_REPORT reads a zone whose line an HWT has locked (R203). -/
def reportLocked (s : State) (i : Nat) (t : Task) : Bool :=
  t.op = 0x08 && match inst? s i with
  | none => false
  | some x =>
    let z := recField t.record 0x08 4
    ((reportFrom x (recField t.record 0x12 1) (x.params.zoneCount - z) z (64 * recNblk t.record)
      (recField t.record 0x0C 4)).1).any fun z => hwtLocked s (mapLine i z)

/-- A report or message that waited is delivered, unless its task has been caught or waits for a commit or a locked line (R142,
R190, R203). -/
def deliverOne (i slot : Nat) (seq : U32) (s : State) : State :=
  match heldTask s i slot with
  | none => s
  | some t =>
    if t.seq != seq || t.latch != .running || !t.holds.isEmpty then s
    else if reportLocked s i t then queueDue i slot s
    else if t.op = 0x10 then deliverMessage i slot s
    else if t.op = 0x11 then readMailbox i slot s
    else sendReport i slot s

/-- Every report and message that waits is delivered, in acceptance order, while acceptance is open (R149, log entry 118). -/
def deliverDue (s : State) : State :=
  if s.sys.open' then
    s.sys.due.foldl (fun s p => deliverOne p.1 p.2.1 p.2.2 s) { s with sys := { s.sys with due := [] } }
  else s

/-! ### Writes, zones, transactions -/

/-- The descriptor that a task's TXN_ID names; none for TXN_ID 0. -/
def txnOf (s : State) (i txn : Nat) : Option Nat := if txn = 0 then none else (findTxn s i txn).map Prod.fst

/-- The generation of a zone. -/
def genOf (s : State) (i z : Nat) : Nat := match inst? s i with
  | some x => (zoneOf x z).gen
  | none => 0

/-- The write pointer of a zone. -/
def wpOf (s : State) (i z : Nat) : Nat := match inst? s i with
  | some x => (zoneOf x z).wp
  | none => 0

/-- Effect of an accepted WRITE or APPEND (R136): the blocks are stored, a member joins its transaction, and the task
completes at once (R16). -/
def acceptWrite (i slot : Nat) (l : List DataFrame) (s : State) : State :=
  match heldTask s i slot with
  | none => s
  | some t =>
    let r := t.record
    let s := tally i 0x0001 47 l.length (tally noInst 0x0106 (t.link / 8) l.length s)
    if recConv r then
      completeTask i slot stOk 0 false (storeConv i (recConvBlk r) (recKey r) t.pos (recHint r) l s)
    else
      let z := recZone r
      let wp := wpOf s i z
      let d := txnOf s i (recTxn r)
      let s := storeZone i z (recKey r) t.pos (recHint r) d l s
      let s := match d with
        | some n => addMember i n { op := t.op, nblk := l.length, zone := z, offset := wp, upSeq := t.seq
                                    gen := genOf s i z } s
        | none => s
      completeTask i slot stOk (if t.op = 0x02 then wpOf s i z else wp) false s

/-- Effect of an accepted zone operation (R137). -/
def acceptZoneOp (i slot : Nat) (s : State) : State :=
  match heldTask s i slot with
  | none => s
  | some t =>
    let r := t.record
    let z := recZoneIdx r
    match txnOf s i (recTxn r) with
    | some n => completeTask i slot stOk 0 false
        (addMember i n { op := t.op, nblk := 0, zone := z, offset := 0, upSeq := t.seq, gen := genOf s i z } s)
    | none =>
      let s := zoneOp i t.op z (recZoneKey r) (recZoneHint r) s
      completeTask i slot stOk (zoneResult s i z) false s

/-- Effect of an accepted TXN_BEGIN (R183). RESULT is 0 (R155). -/
def acceptTxnBegin (i slot : Nat) (s : State) : State :=
  match heldTask s i slot with
  | none => s
  | some t => completeTask i slot stOk 0 false (beginTxn i (recTxn t.record) (recField t.record 0x08 4) t.seq s)

/-- Effect of an accepted TXN_COMMIT: its descriptor is COMMITTING until its page is programmed (R183, R197). -/
def acceptTxnCommit (i slot : Nat) (s : State) : State :=
  match heldTask s i slot with
  | none => s
  | some t => match findTxn s i (recTxn t.record) with
    | none => s
    | some (n, d) =>
      commitTxn i n slot t.pos t.seq ((t.trailer.map fun x => x.counter.toNat).getD 0)
        (modTask i slot (fun t => { t with desc := some n, result := commitResult d }) s)

/-- Effect of an accepted TXN_ABORT (R140): RESULT 1 where the device had aborted the transaction. -/
def acceptTxnAbort (i slot : Nat) (s : State) : State :=
  match heldTask s i slot with
  | none => s
  | some t => match findTxn s i (recTxn t.record) with
    | none => s
    | some (n, d) =>
      completeTask i slot stOk (if d.state = .devAborted then 1 else 0) false (abortTxn i n t.seq s)

/-! ### ABORT and FLUSH -/

/-- Whether an ABORT catches its target, and RESULT of the ABORT (R143). -/
def abortOutcome (x : Inst) (target : Nat) (seq : U32) : Bool × Nat :=
  match slotOf x target with
  | some (.held t) =>
    if t.seq != seq then (false, 0x40)
    else if !opAbortable t.op then (false, 0x20)
    else if t.latch = .running then (true, 1) else (false, 0x10)
  | some (.done c _ _ _) => (false, if c.taskSeq = seq then 0x30 else 0x40)
  | none => (false, 0x40)

/-- Effect of an accepted ABORT: a caught target completes with ABORTED, with the lower down number (R142, R143). -/
def acceptAbort (i slot : Nat) (s : State) : State :=
  match heldTask s i slot, inst? s i with
  | some t, some x =>
    let target := recField t.record 0x08 2
    let (caught, res) := abortOutcome x target (BitVec.ofNat 32 (recField t.record 0x0C 4))
    let s := if caught then
        completeTask i target stAborted 0 false (modTask i target (fun t => { t with latch := .caught }) s) else s
    completeTask i slot stOk res false s
  | _, _ => s

/-- A block lies in a FLUSH's scope and was accepted before it (R146). -/
def covers (t : Task) (k : BlkKey) (st : Stored) : Bool :=
  let z := recZoneIdx t.record
  st.pos < t.pos && (z = 0xFFFFFFFF || (!k.conv && k.zone = z))

/-- A covered block that can no longer be programmed: no program carries it, and every die set has a lost member (R146). -/
def cannotProgram (s : State) (x : Inst) (k : BlkKey) (st : Stored) : Bool :=
  st.twin.isSome && noSet s x && !(s.med.progs.any fun p => p.2.items.any fun it => it.1 = k)

/-- The outcome of a FLUSH now: none while its condition is not met (R146). -/
def flushOutcome (s : State) (i : Nat) (x : Inst) (t : Task) : Option Nat :=
  let bs := (storedOf i x).filter fun p => covers t p.1 p.2
  let z := recZoneIdx t.record
  let commits := s.jrn.descs.any fun p => p.2.inst = i && p.2.state = .committing && p.2.closePos < t.pos &&
    (z = 0xFFFFFFFF || (txnZones p.2).contains z)
  if bs.any fun p => cannotProgram s x p.1 p.2 then some stDegraded
  else if commits || bs.any (fun p => !p.2.onFlash) then none
  else some stOk

/-- Complete a FLUSH whose condition is met; RESULT is the time (R146). -/
def tryFlush (i slot : Nat) (s : State) : State :=
  match heldTask s i slot, inst? s i with
  | some t, some x => match flushOutcome s i x t with
    | some st => completeTask i slot st s.quartz false (modTask i slot (fun t => { t with latch := .committed }) s)
    | none => s
  | _, _ => s

/-- HELD tasks of an OPCODE, by instance and slot. -/
def heldOf (s : State) (op : Nat) : List (Nat × Nat) :=
  s.insts.flatMap fun p => p.2.slots.filterMap fun q => match q.2 with
    | .held t => if t.op = op then some (p.1, q.1) else none
    | .done .. => none

/-- Complete every FLUSH whose condition is met. -/
def flushAll (s : State) : State := (heldOf s 0x0D).foldl (fun s p => tryFlush p.1 p.2 s) s

/-- Effect of an accepted FLUSH: incomplete groups that it covers are programmed (R245). -/
def acceptFlush (i slot : Nat) (s : State) : State :=
  match heldTask s i slot with
  | none => s
  | some t => tryFlush i slot (padFlush i t s)

/-- Effect of an accepted KEY_ERASE: the slot is zeroed with its stored copy (R308). RESULT is 0 (R155). -/
def acceptKeyErase (i slot : Nat) (s : State) : State :=
  match heldTask s i slot with
  | none => s
  | some t => completeTask i slot stOk 0 false
      (modInst i (fun x => { x with keys := amErase x.keys (recField t.record 0x08 2) }) s)

/-! ### The acceptance update -/

/-- Effect of a type from its acceptance instant on. KEY_LOAD and KEY_ROTATE wait for their sealed lane (R152). -/
def taskEffect (op i slot : Nat) (l : List DataFrame) (s : State) : State :=
  if op = 0x01 then acceptRead i slot s
  else if op = 0x02 || op = 0x03 then acceptWrite i slot l s
  else if op = 0x04 || op = 0x05 || op = 0x06 || op = 0x07 then acceptZoneOp i slot s
  else if op = 0x08 then acceptZoneReport i slot s
  else if op = 0x09 then acceptTxnBegin i slot s
  else if op = 0x0A then acceptTxnCommit i slot s
  else if op = 0x0B then acceptTxnAbort i slot s
  else if op = 0x0C then acceptAbort i slot s
  else if op = 0x0D then acceptFlush i slot s
  else if op = 0x0E then acceptIdentify i slot s
  else if op = 0x0F then acceptCounters i slot s
  else if op = 0x10 then acceptMailboxSend i slot s
  else if op = 0x11 then acceptMailboxRead i slot s
  else if op = 0x13 then acceptKeyErase i slot s
  else s

/-- The map lines that a task's work touches (R341, R344). -/
def taskLines (i : Nat) (r : BitVec 512) : List Nat :=
  let op := recOp r
  if op = 0x01 || op = 0x02 || op = 0x03 then blockLines i r
  else if op = 0x04 || op = 0x05 || op = 0x06 || op = 0x07 then [mapLine i (recZoneIdx r)]
  else []

/-- The acceptance instant, in one update (R130): the slot becomes HELD with the acceptance record, the counter is
recorded, the reserved tokens are consumed, and the frames leave the order. -/
def acceptTask (i : Nat) (f : TaskFrame) (l : List DataFrame) (ready : Nat) (s : State) : State :=
  match inst? s i with
  | none => s
  | some x =>
    let r := f.record
    let slot := f.env.hdr.slot.toNat
    let cost := taskCost r
    let payload := match l with
      | d :: _ => if opOneData (recOp r) then d.data else 0
      | [] => 0
    let x := credited s x
    let t := newTask s x f payload ready
    let s := setInst i { setSlot slot (.held t) x with
      bw := consume cost.2 x.bw, ops := consume cost.1 x.ops, pos := x.pos + 1
      recent := x.recent ++ [(f.env.hdr.seq, l.length, x.pos)]
      placed := x.placed.drop (1 + l.length), waiting := .no, waited := .other, waitedSpent := [], lastOrphan := none } s
    let s := if hasTrailer f.env.hdr then acceptCounter i f.trailer.keyGen.toNat f.trailer.counter.toNat s else s
    let s := tally i 0x0001 (recOp r - 1) 1 s
    let s := freeLanding (x.placed.take (1 + l.length)) ((taskLines i r).foldl (fun s line => mapAccess 0 line s) s)
    taskEffect (recOp r) i slot l s

end Sys2Proof.Machine
end

