-- ==== Sys2Proof/Machine/Commit.lean ====
section
/-! DEFINITION. Journal pages, the apply of commits and aborts (R190, R196, R197, R202, R203), the lanes' answers to reads
(R309, R310) and the sealed lanes' answers to key tasks (R152, R303–R305). -/

namespace Sys2Proof.Machine

open Sys2Proof

/-! ### Journal pages and applies -/

/-- A read or report that no commit holds any more begins (R190). -/
def beginHeld (i slot : Nat) (s : State) : State :=
  match heldTask s i slot with
  | none => s
  | some t =>
    if !t.holds.isEmpty then s
    else
      let s := modTask i slot (turn .other s.quartz) s
      if t.op = 0x01 then lookupRead i slot s else queueDue i slot s

/-- HELD tasks that a descriptor holds. -/
def heldBy (s : State) (desc : Nat) : List (Nat × Nat) :=
  s.insts.flatMap fun p => p.2.slots.filterMap fun q => match q.2 with
    | .held t => if t.holds.contains desc then some (p.1, q.1) else none
    | .done .. => none

/-- The apply of a programmed commit: one HWT over its zones' lines, which stay locked until its unlock; the descriptor is
freed, the COMPLETION is sent and what the commit held goes on (steps 8 and 9 of Table AR-6). An apply that finds one of
its lines locked waits at STAGE (R203). -/
def applyCommit (desc : Nat) (s : State) : State :=
  match amGet? s.jrn.descs desc with
  | none => s
  | some d =>
    let lines := txnLines d
    if lines.any (hwtLocked s) then
      if s.jrn.waitingApply.contains desc then s
      else { s with jrn := { s.jrn with waitingApply := s.jrn.waitingApply ++ [desc] } }
    else
      let held := heldBy s desc
      let last := ((s.jrn.slc.find? fun r => ofDesc desc r && r.rtype = 3).map (·.jseq)).getD s.jrn.sealed
      let s := lockLines lines { s with jrn := { s.jrn with sealed := max s.jrn.sealed last } }
      let s := lines.foldl (fun s l => mapAccess 1 l s) s
      let res := ((heldTask s d.inst d.slot).map (·.result)).getD 0
      let mine := (heldTask s d.inst d.slot).any fun t => t.desc = some desc
      let s := freeDescriptor desc (dropHold desc s)
      let s := if mine then completeTask d.inst d.slot stOk res false s else s
      held.foldl (fun s p => beginHeld p.1 p.2 s) s

/-- A programmed group takes effect: a commit is applied, an abort's descriptor is freed (R196). -/
def groupDone (desc : Nat) (s : State) : State :=
  match amGet? s.jrn.descs desc with
  | none => s
  | some d => if d.state = .committing then applyCommit desc s else freeDescriptor desc s

/-- The oldest journal page is programmed in both copies; the writer begins the next (R196). -/
def pageDone (s : State) : State :=
  match s.jrn.pages with
  | [] => s
  | page :: rest => page.descs.foldl (fun s d => groupDone d s)
      (kickPage (freeBufs 4 page.bufs (programPage page { s with jrn := { s.jrn with pages := rest } })))

/-- Reads that waited for a locked line are looked up again (R203). -/
def retryReads (s : State) : State :=
  let l := s.jrn.waitingReads
  l.foldl (fun s p => if (heldTask s p.1 p.2.1).any fun t => t.seq = p.2.2 then lookupRead p.1 p.2.1 s else s)
    { s with jrn := { s.jrn with waitingReads := [] } }

/-- The locks of the HWT that holds a line are released in one step; maintenance, applies, map updates, poison marks and reads
that waited for them proceed (R202, R203, R346). -/
def lockRelease (line : Nat) (s : State) : State :=
  let s := { s with jrn := { s.jrn with locks := s.jrn.locks.filter fun l => !l.contains line } }
  let maint := s.mch.waiting
  let s := maint.foldl (fun s m => maintLine m.2 m.1 s) { s with mch := { s.mch with waiting := [] } }
  let applies := s.jrn.waitingApply
  let s := applies.foldl (fun s d => applyCommit d s) { s with jrn := { s.jrn with waitingApply := [] } }
  let progs := s.jrn.waitingHwt
  let s := progs.foldl (fun s n => progDone n s) { s with jrn := { s.jrn with waitingHwt := [] } }
  let marks := s.jrn.waitingPoison
  retryReads (marks.foldl (fun s p => poisonBlock p.1 p.2 s) { s with jrn := { s.jrn with waitingPoison := [] } })

/-! ### Open lanes -/

/-- A lane opens a block under the data key that the key slot of its last write holds now: it is ready to send where the tag
verifies (R170, R178, R310). A slot that holds no key is zeroed (R308). -/
def laneOpen (i slot blk : Nat) (s : State) : State :=
  match blockAt? s i slot blk, inst? s i with
  | some rb, some x => match rb.box with
    | none => blockReady i slot blk s
    | some b => match openData x.params.metaFmt (amGetD x.keys b.key 0) rb.nonce b with
      | some p => blockReady i slot blk (modBlock i slot blk (fun rb => { rb with data := p.1, md := p.2 }) s)
      | none => blockFailed i slot blk 2 (tagFail s)
  | _, _ => s

/-- A lane fed from a poisoned buffer marks its output poisoned (R336, R351). -/
def lanePoison (i slot blk : Nat) (s : State) : State :=
  let s := match (blockAt? s i slot blk).bind (·.out) with
    | some b => poisonBuf b.1 b.2 s
    | none => s
  blockFailed i slot blk 1 (tally i 0x0006 6 1 s)

/-- A block of a read leaves its open lane: it is sent, or withheld where its tag fails or it carries poison (R133, R310,
R336). A lane that was fed bytes other than those stored finds that the tag fails. -/
def laneDone (i slot blk : Nat) (o : LaneOutcome) (s : State) : State :=
  match heldTask s i slot with
  | none => s
  | some t =>
    if !(t.blocks[blk]?).any (fun b => isLane b.stage) || !t.looked || !t.holds.isEmpty || t.op != 0x01 || t.heldBack = some blk then s
    else
      let s := dropTwin i slot blk (tally noInst 0x0106 (t.link / 8) 1 s)
      match o with
      | .pass => laneOpen i slot blk s
      | .tagFail => blockFailed i slot blk 2 (tagFail s)
      | .poison => lanePoison i slot blk s

/-! ### Sealed lanes -/

/-- The HELD key task of an instance that was accepted first, with its slot. -/
def keyTask (x : Inst) : Option (Nat × Task) :=
  x.slots.foldl (fun a p => match p.2 with
    | .held t =>
      if t.op = 0x12 || t.op = 0x14 then match a with
        | none => some (p.1, t)
        | some b => if t.pos < b.2.pos then some (p.1, t) else a
      else a
    | .done .. => a) none

/-- Status of an unwrap (R152). -/
def unwrapStatus : Unwrap → Nat
  | .malformed => stBadRecord
  | .failed => stDataAuth
  | .ok _ => stOk

/-- A failed integrity check in a sealed lane is reported; a malformed key never reaches the lane's check (Table TR-7). -/
def reportUnwrap (purpose i : Nat) (u : Unwrap) (s : State) : State := match u with
  | .failed => sealFail purpose i s
  | _ => s

/-- KEY_LOAD: bytes behind the wrapped key make it malformed (R303). -/
def loadDone (i slot : Nat) (t : Task) (x : Inst) (s : State) : State :=
  let key := recField t.record 0x08 2
  let n := recField t.record 0x0A 2
  let b := bytesOf 4096 t.payload
  let u := unwrapUnder x.cmd 1 0 i key (b.take n)
  let s := reportUnwrap 1 i u (keccakMsg true s)
  match u with
  | .ok k =>
    if (b.drop n).any (· != 0) then completeTask i slot stBadRecord 0 false s
    else completeTask i slot stOk key false (modInst i (fun x => { x with keys := amSet x.keys key k }) s)
  | u => completeTask i slot (unwrapStatus u) 0 false s

/-- KEY_ROTATE: CONF under the new key confirms it (R305); the COMPLETION carries a trailer under the old key (R152). -/
def rotateDone (i slot : Nat) (t : Task) (x : Inst) (s : State) : State :=
  let gen := recField t.record 0x08 1
  let n := recField t.record 0x0A 2
  let b := bytesOf 4096 t.payload
  let u := unwrapUnder x.cmd 2 gen i 0 (b.take n)
  let s := reportUnwrap 2 i u (keccakMsg true s)
  match u with
  | .ok k =>
    let counter := (t.trailer.map fun r => r.counter.toNat).getD 0
    if (b.drop (n + 16)).any (· != 0) then completeTask i slot stBadRecord 0 false s
    else if (b.drop n).take 16 != confOf k i gen counter then completeTask i slot 0x30 0 false s
    else completeTask i slot stOk gen false (installKey i k true s)
  | u => completeTask i slot (unwrapStatus u) 0 false s

/-- The sealed lane of the first key task of an instance ends (R152, R307). -/
def unwrapDone (i : Nat) (s : State) : State :=
  match inst? s i with
  | none => s
  | some x => match keyTask x with
    | none => s
    | some (slot, t) => if t.op = 0x12 then loadDone i slot t x s else rotateDone i slot t x s

end Sys2Proof.Machine
end

