-- ==== Sys2Proof/Machine/SlateOps.lean ====
section
/-! DEFINITION. Slate at work: the staging window, CHECK, APPLY with the steps of Table IN-10, the epoch switch (R284–R294),
and the INS and SLT registers. -/

namespace Sys2Proof.Machine

open Sys2Proof

/-! ### Staging (R284) -/

/-- Staging is closed while a batch is checked or applied. -/
def stagingBusy (s : State) : Bool := s.slt.state = 2 || s.slt.state = 4

/-- A write of word `n` of SLT_STAGE. -/
def stageWrite (n v : Nat) (s : State) : State :=
  if stagingBusy s then regRefused (0x01410000 + 4 * n) v s
  else { s with slt := { s.slt with stage := memSet 0 s.slt.stage n (BitVec.ofNat 32 v), state := 1 } }

/-- A write of SLT_STAGELEN. -/
def stageLenWrite (v : Nat) (s : State) : State :=
  if stagingBusy s || 262144 < bits v 0 19 then regRefused 0x0140000C v s
  else { s with slt := { s.slt with stageLen := bits v 0 19, state := 1 } }

/-- SLATE_STAGE_WRITE: a write of a word of the window, or of SLT_STAGELEN. -/
def execSlateStageWrite (addr v : U32) (s : State) : Host.Outcome State Fault Refusal :=
  let a := addr.toNat
  .next (if a = 0x0140000C then stageLenWrite v.toNat s
    else if 0x01410000 ≤ a && a < 0x01450000 && a % 4 = 0 then stageWrite ((a - 0x01410000) / 4) v.toNat s
    else regRefused a v.toNat s)

/-! ### CHECK and the failures of an apply -/

/-- The marks of an apply under way are removed (R294). -/
def endApply (s : State) : State :=
  { s with
    insts := s.insts.map fun p => (p.1, { p.2 with draining := false })
    med := { s.med with sets := s.med.sets.map fun d => { d with blocked := false } } }

/-- STATE becomes FAILED with the rule, and a SLATE record of severity NOTICE gives it with the offset or the step (R286,
R288). -/
def slateFail (rule off arg : Nat) (s : State) : State :=
  notice kSlate [rule, arg] (endApply { s with slt := { s.slt with state := 6, step := 0, rule := rule, failoff := off } })

/-- CHECK (R286). -/
def slateCheck (s : State) : State :=
  match judgeBatch s with
  | none => { s with slt := { s.slt with state := 3, rule := 0, failoff := 0 } }
  | some (rule, off) => slateFail rule off off s

/-! ### APPLY: steps 1 to 3 -/

/-- Dies of a pool that the batch being applied removes from it. -/
def diesLeaving (s : State) (g : Cfg) (n : Nat) : List Nat :=
  let old := ((amGet? s.slt.pools n).map (·.dies)).getD []
  let new := ((amGet? g.pools n).map (·.dies)).getD []
  old.filter fun d => !new.contains d

/-- Step 3 begins: instances that lose slots refuse them, die sets that lose a die take no new binding (R294). -/
def beginDrain (s : State) : State :=
  let g := cfgAfter s (batchOf s)
  { s with
    slt := { s.slt with state := 4, step := 3, rule := 0, failoff := 0, applyAt := s.quartz }
    insts := s.insts.map fun p => (p.1, { p.2 with draining := match amGet? g.insts p.1 with
      | some c => decide (c.params.slots < p.2.params.slots)
      | none => false })
    med := { s.med with sets := s.med.sets.map fun d => { d with blocked := d.dies.any (diesLeaving s g d.pool).contains } } }

/-- APPLY, from CHECKED only: the batch is judged again and the drains begin (R287, R288). -/
def slateApply (v : Nat) (s : State) : State :=
  if s.slt.state != 3 then regRefused 0x01400000 v s
  else match judgeBatch s with
    | some (rule, off) => slateFail rule off 2 s
    | none => beginDrain s

/-- DISCARD: the staging is emptied. -/
def slateDiscard (v : Nat) (s : State) : State :=
  if stagingBusy s then regRefused 0x01400000 v s
  else { s with slt := { s.slt with stage := [], stageLen := 0, state := 0 } }

/-- A write of SLT_CMD. -/
def slateCmd (v : Nat) (s : State) : State :=
  let cmd := bits v 0 4
  if bits v 16 16 != 0x51A7 then regRefused 0x01400000 v s
  else if cmd = 1 then (if stagingBusy s then regRefused 0x01400000 v s else slateCheck s)
  else if cmd = 2 then slateApply v s
  else if cmd = 3 then slateDiscard v s
  else regRefused 0x01400000 v s

/-- CHECK: a write of SLT_CMD (R286). -/
def execCheck (v : U32) (s : State) : Host.Outcome State Fault Refusal := .next (slateCmd v.toNat s)

/-- APPLY: a write of SLT_CMD (R288). -/
def execApply (v : U32) (s : State) : Host.Outcome State Fault Refusal := .next (slateCmd v.toNat s)

/-- DISCARD: a write of SLT_CMD. -/
def execDiscard (v : U32) (s : State) : Host.Outcome State Fault Refusal := .next (slateCmd v.toNat s)

/-! ### Steps 3 to 6 -/

/-- Every slot that a lower SLOTS removes is FREE, and no instance to be deleted has a HELD slot (step 3). -/
def drained (s : State) : Bool :=
  let g := cfgAfter s (batchOf s)
  s.insts.all fun p => match amGet? g.insts p.1 with
    | some c => p.2.slots.all fun q => q.1 < c.params.slots
    | none => heldSlots p.2 = 0

/-- The epoch record (R292). -/
def epochRecord (s : State) : List Byte :=
  let b := leBytes 8 (s.slt.epoch + 1) ++ leBytes 8 s.slt.epoch ++ leBytes 4 s.slt.stageLen ++ leBytes 8 s.quartz ++
    stageBytes s 0 s.slt.stageLen
  b ++ leBytes 8 (crc64 b)

/-- SLATE_DRAIN_COMPLETE: the configuration is built and the epoch record goes to the system area (steps 4 and 5). -/
def execSlateDrainComplete (s : State) : Host.Outcome State Fault Refusal :=
  .next (if applying s && s.slt.step = 3 && drained s then
      { s with slt := { s.slt with step := 5, record := epochRecord s } }
    else s)

/-- SLATE_DRAIN_TIMEOUT: the apply fails with rule 0x80 (R288). -/
def execSlateDrainTimeout (s : State) : Host.Outcome State Fault Refusal :=
  .next (if applying s && s.slt.step = 3 && !drained s then slateFail 0x80 0xFFFFFFFF 3 s else s)

/-- EPOCH_RECORD_PROGRAMMED: both copies hold the record; the commit mark is next (step 6). -/
def execEpochRecordProgrammed (s : State) : Host.Outcome State Fault Refusal :=
  .next (if applying s && s.slt.step = 5 then { s with slt := { s.slt with step := 6 } } else s)

/-! ### The switch (R290) -/

/-- A new instance: in service, every sequence space, generation and count at 0 (R100, R277). `lastSet` 0 makes the turn of an
instance that has chosen no die set yet begin after set 0 (R166; DESIGN CHOICE: the spec names no beginning; log entry 124). -/
def freshInst (p : Params) (now : Nat) : Inst :=
  { params := p, held := false, replayHeld := false, quarantined := false, escalated := false, draining := false
    pool := 0, slots := [], e := 0, down := 0, ackIn := 0, ackOut := 0, echo := 0, heldUp := [], placed := []
    waiting := .no, stagedBufs := [], waited := .other, waitedSince := 0, waitedSpent := [], restartLate := false, gapAt := none, unacked := [], backlog := [], expiries := 0, stalled := false
    rejects := [], lastOrphan := none, rejWindow := 0, rejCount := 0, violWindow := 0, viol := 0, violRecorded := false
    lastValid := [], lastLink := none, bw := newBucket p.bwDepth now, ops := newBucket p.opDepth now, cmd := none
    prev := none, graceEnd := none, keys := [], wcounts := [], zones := [], conv := [], convSb := [], lastSet := 0
    mbox := [], mboxCount := 0, misses := List.replicate 16 0, pos := 0, recent := [] }

/-- Every buffer that an instance holds is let go. -/
def releaseInst (i : Nat) (x : Inst) (s : State) : State :=
  let s := (storedOf i x).foldl (fun s k => (k.2.twin.toList ).foldl (fun s t => freeTwin t s) s) s
  let s := x.stagedBufs.foldl (fun s t => freeTwin t s) s
  let s := x.slots.foldl (fun s p => match p.2 with
    | .held t => t.blocks.foldl (fun s b => letGo b s) s
    | .done .. => s) s
  freeBufs 1 ((x.unacked ++ x.backlog).filterMap (·.buf)) (freeLanding (x.heldUp ++ x.placed) s)

/-- An instance is deleted with its slots, mailbox, keys, zones, blocks and transactions; its superblocks are released
for erase (R120, R283, R290, R308, step 9 of Table IN-10). -/
def deleteInst (i : Nat) (s : State) : State :=
  let mine := (s.med.sbs.filter fun p => p.2.inst = i).map Prod.fst
  let descs := (s.jrn.descs.filter fun p => p.2.inst = i).map Prod.fst
  let s := descs.foldl (fun s d => freeDescriptor d s) s
  let s := match inst? s i with
    | some x => releaseInst i x s
    | none => s
  let s := mine.foldl (fun s n => closeSb n s) { s with insts := amErase s.insts i }
  mine.foldl (fun s n => releaseSb n s) s

/-- L is clipped to a new D, the excess added to SPILLED (R216). -/
def clipBucket (d : Nat) (b : Bucket) : Bucket :=
  { b with level := min b.level d, spilled := b.spilled + (b.level - d) }

/-- An instance that stays, under its block of the new epoch. -/
def switchInst (s : State) (g : Cfg) (i : Nat) (c : CfgInst) (x : Inst) : Inst :=
  let x := rebase s x
  { x with params := c.params, held := c.held, replayHeld := false, draining := false, pool := cfgPoolOf g i
           conv := x.conv.filter fun b => b.1 < c.params.convBlocks
           bw := clipBucket c.params.bwDepth x.bw, ops := clipBucket c.params.opDepth x.ops }

/-- The instance table of a configuration. -/
def switchInsts (s : State) (g : Cfg) : List (Nat × Inst) :=
  g.insts.map fun p => match inst? s p.1 with
    | some x => (p.1, switchInst s g p.1 p.2 x)
    | none => (p.1, { freshInst p.2.params s.quartz with held := p.2.held, pool := cfgPoolOf g p.1 })

/-- Conventional blocks beyond a new CONV_BLOCKS leave the area: their twin entries are discarded (R170, R177). -/
def dropBeyond (g : Cfg) (s : State) : State :=
  g.insts.foldl (fun s p => match inst? s p.1 with
    | some x => dropTwins p.1 (x.conv.filter fun b => p.2.params.convBlocks ≤ b.1) s
    | none => s) s

/-- One record of a snapshot batch. -/
def snapRec (kind inst : Nat) (value : List Byte) : List Byte :=
  leBytes 2 kind ++ leBytes 2 value.length ++ leBytes 2 inst ++ leBytes 2 0 ++ value

/-- The bitmap of some dies. -/
def dieMap (l : List Nat) : List Byte := leBytes 512 (sumNat (l.map fun d => 2 ^ d))

/-- A snapshot: the records that rebuild the configuration from epoch 0 (R292). -/
def snapshotBatch (s : State) : List Byte :=
  (s.insts.flatMap fun p => snapRec 1 p.1 (leBytes 208 p.2.params.raw) ++ snapRec 4 p.1 (leBytes 4 (flag p.2.held 0))) ++
    (s.slt.pools.flatMap fun p =>
      let owners := p.2.owners ++ List.replicate (16 - p.2.owners.length) 0xFFFF
      snapRec 6 0 (leBytes 2 p.1 ++ leBytes 1 p.2.w ++ leBytes 1 p.2.owners.length ++ leBytes 4 0 ++
        owners.flatMap (leBytes 2) ++ dieMap p.2.dies)) ++
    snapRec 9 0 (dieMap s.slt.spares) ++ (if s.slt.dirtyMib = 0 then [] else snapRec 10 0 (leBytes 4 s.slt.dirtyMib))

/-- Every 64 epochs the switch writes a snapshot (R292). -/
def takeSnapshot (s : State) : State :=
  if s.slt.epoch % 64 = 0 then
    { s with slt := { s.slt with snapshots := s.slt.snapshots ++ [(s.slt.epoch, snapshotBatch s)] } }
  else s

/-- The preserve state is judged anew at an epoch (R267). -/
def rejudgePreserve (s : State) : State :=
  if anyShort s then checkPreserve s else { s with med := { s.med with preserve := false } }

/-- The command keys that the batch installs, unwrapped under instance 0's key in force before it (R304). -/
def batchKeys (s : State) (g : Cfg) : List (Nat × BitVec 256) :=
  g.insts.filterMap fun p => p.2.cmdKey.bind fun off => match cmdKeyOf s p.1 off with
    | .ok k => some (p.1, k)
    | _ => none

/-- A test key in a slot that the epoch assigns is gone: a slot newly assigned is empty (R306, R308). -/
def dropTestKeys (s : State) : State :=
  { s with cph := { s.cph with testKeys := s.cph.testKeys.filter fun k => !slotAssigned s k.1 } }

/-- The epoch switch: one update with all that R290 lists, then steps 8 and 9 of Table IN-10. -/
def slateSwitch (s : State) : State :=
  let g := cfgAfter s (batchOf s)
  let keys := batchKeys s g
  let sets := g.pools.flatMap fun p => setsAfter s g p.1 p.2
  let gone := (instNums s).filter fun i => (amGet? g.insts i).isNone
  let newHeld := (g.insts.filter fun p => p.2.held && !((inst? s p.1).any (·.held))).map Prod.fst
  let s := dropBeyond g s
  let insts := switchInsts s g
  let s := gone.foldl (fun s i => deleteInst i s) s
  let s := sealHwt 2 1 [rootLine] { s with
    insts := insts
    sys := { s.sys with replayHeld := false }
    med := { s.med with sets := sets }
    slt := { s.slt with
      state := 5, step := 0, rule := 0, epoch := s.slt.epoch + 1, dirtyMib := g.dirty, pools := g.pools
      spares := g.spares, records := s.slt.records ++ [(s.slt.epoch + 1, s.slt.record)], record := [] } }
  let s := keys.foldl (fun s k => installKey k.1 k.2 false s) s
  let s := newHeld.foldl (fun s i => notify i 0x0007 0 0 0 s) s
  let s := forInsts releaseDead (rejudgePreserve (takeSnapshot (dropTestKeys s)))
  notice kSlate [s.slt.epoch] s

/-- The decided switch is made, unless another HWT has the configuration root locked: then it waits at STAGE, at step 7 of Table
IN-10 (R203). -/
def decidedSwitch (s : State) : State :=
  if hwtLocked s rootLine then { s with slt := { s.slt with step := 7 } } else slateSwitch s

/-- The locks of the HWT that holds a line are released; a switch that waited is made (R202, R203). -/
def hwtRelease (line : Nat) (s : State) : State :=
  let s := lockRelease line s
  if applying s && s.slt.step = 7 then decidedSwitch s else s

/-- A program of the commit mark fails in one copy: the block of the media system area that holds it is retired, and a replacement
of the same die takes its place (R256, R289). Which die holds a copy the spec does not say: a free value (log entry 15). -/
def retireSystem (s : State) : State :=
  let (b, s) := drawBytes 2 s
  match s.med.dies[ofLeBytes b % s.med.dies.length]? with
  | none => s
  | some p => match takeReplacement p.2 with
    | none => s
    | some (_, y) => checkPreserve (tally noInst 0x0102 15 1
        (modDie p.1 (fun _ => { y with opened := y.opened - 1, retired := y.retired + 1 }) s))

/-- The copies of the commit mark that failed. -/
def markFails (a b : Bool) (s : State) : State :=
  let s := if a then s else retireSystem s
  if b then s else retireSystem s

/-- The commit mark: programmed in either copy, the switch is decided; in neither, a CONTAIN fault and STATE FAILED with
rule 0x81. A block with a failed program of it is retired (R289). -/
def commitMark (a b : Bool) (s : State) : State :=
  if !(applying s && s.slt.step = 6) then s
  else
  let s := markFails a b s
  if a || b then decidedSwitch s
  else
    raise noSource (ruleFault kSlate sevContain noSource noInst [0x81, 6])
      (endApply { s with slt := { s.slt with state := 6, step := 0, rule := 0x81, failoff := 0xFFFFFFFF, record := [] } })

/-! ### INS registers -/

/-- INS registers of instance `n` by offset in its window; an instance that is not created reads 0. -/
def insRead (n off : Nat) (s : State) : Option Nat :=
  if 0x1C < off || off % 4 != 0 then none
  else match inst? s n with
    | none => some 0
    | some x => some (
      if off = 0x00 then flag true 0 + flag x.held 1 + flag x.replayHeld 2 + flag x.quarantined 3 + flag x.escalated 4 +
        flag x.draining 5 + x.pool * 2 ^ 6
      else if off = 0x04 then freeSlots x + heldSlots x * 2 ^ 9 + doneSlots x * 2 ^ 18
      else if off = 0x08 then
        (if x.violWindow + x.params.violWindowUs * 1000 ≤ s.quartz then 0 else x.viol)
      else if off = 0x14 then x.mbox.length + x.params.mboxDepth * 2 ^ 16
      else if off = 0x18 then x.e.toNat
      else if off = 0x1C then x.down.toNat
      else 0)

/-- A write of INS_CTRL of instance `n` (R278). -/
def insRelease (n v : Nat) (s : State) : State :=
  let a := 0x0100000C + 0x1000 * n
  if bits v 16 16 != 0x9E1A then regRefused a v s
  else if !bit v 0 then s
  else match inst? s n with
    | none => { s with mgmt := { s.mgmt with err := true } }
    | some x =>
      if !x.quarantined then event kTransport sevNotice noSource n [] s
      else event kTransport sevNotice noSource n []
        (notify n 0x0006 0 0 0 (setInst n { x with quarantined := false, viol := 0, violRecorded := false } s))

/-- A write of INS_DBELL of instance `n` (R282). -/
def insDoorbell (n v : Nat) (s : State) : State :=
  match inst? s n with
  | none => regRefused (0x01000010 + 0x1000 * n) v s
  | some x => notify n 0x000A 2 v x.mbox.length s

/-- Writes of INS registers; none where the register takes no write. -/
def insWrite (n off v : Nat) (s : State) : Option State :=
  if off = 0x0C then some (insRelease n v s)
  else if off = 0x10 then some (insDoorbell n v s)
  else none

/-- RELEASE: a write of INS_CTRL (R278). -/
def execRelease (i : Fin 1024) (v : U32) (s : State) : Host.Outcome State Fault Refusal := .next (insRelease i.val v.toNat s)

/-- DOORBELL: a write of INS_DBELL (R282). -/
def execDoorbell (i : Fin 1024) (v : U32) (s : State) : Host.Outcome State Fault Refusal :=
  .next (insDoorbell i.val v.toNat s)

/-! ### SLT registers -/

/-- Draining die sets that hold live data (SLT_DRAINSTAT, R275). -/
def drainingSets (s : State) : Nat :=
  (s.med.sets.filter fun ds => ds.draining && s.med.sbs.any fun p =>
    p.2.set = ds.num && (p.2.members.any fun m => ds.dies.contains m.1) && !(liveOf s p.1).isEmpty).length

/-- Word `w` of SLT_MBXSUM (R282). -/
def mbxSum (s : State) (w : Nat) : Nat := match inst? s 0 with
  | none => 0
  | some x => sumNat ((List.range 32).map fun b => flag (x.mbox.any fun m => m.sender = 32 * w + b) b)

/-- SLT registers by offset in the block, but for SLT_EPOCH. -/
def sltRead (off : Nat) (s : State) : Option Nat :=
  if off = 0x00 then some 0
  else if off = 0x04 then some (s.slt.state + s.slt.step * 16 + s.slt.rule * 2 ^ 8)
  else if off = 0x08 then some s.slt.failoff
  else if off = 0x0C then some s.slt.stageLen
  else if off = 0x18 then some s.slt.drain
  else if off = 0x1C then some (dirtyLimitMib s)
  else if off = 0x20 then some (drainingSets s)
  else if 0x80 ≤ off && off < 0x100 && off % 4 = 0 then some (mbxSum s ((off - 0x80) / 4))
  else if 0x10000 ≤ off && off < 0x50000 && off % 4 = 0 then some (stageWord s ((off - 0x10000) / 4))
  else none

/-- Writes of SLT registers; none where the register takes no write. -/
def sltWrite (off v : Nat) (s : State) : Option State :=
  if off = 0x00 then some (slateCmd v s)
  else if off = 0x0C then some (stageLenWrite v s)
  else if off = 0x18 then
    let t := bits v 0 14
    some (if 1 ≤ t && t ≤ 10000 then { s with slt := { s.slt with drain := t } } else regRefused 0x01400018 v s)
  else if 0x10000 ≤ off && off < 0x50000 && off % 4 = 0 then some (stageWrite ((off - 0x10000) / 4) v s)
  else none

end Sys2Proof.Machine
end

