-- ==== Sys2Proof/Machine/Registers.lean ====
section
/-! DEFINITION. The management address space (Table SC-5): reads and writes of a register (R8–R10), the 64-bit latches of
R9, reads that clear, blocks whose domain is off (R378), the SYS registers, and the reads that are commands. -/

namespace Sys2Proof.Machine

open Sys2Proof

/-! ### SYS registers -/

/-- SYS_STATE.STATE; HALT has no code. -/
def bootCode : Boot → Nat
  | .start => 1
  | .run => 2
  | .lodestone => 3
  | .dump => 4
  | .warm => 5
  | .safe => 6
  | .halt => 0

/-- SYS_STATE.REASON (Table SU-11). -/
def reasonCode : Reason → Nat
  | .none => 0x00
  | .strapReserved => 0x01
  | .forced => 0x02
  | .lbist => 0x03
  | .sram => 0x04
  | .firmware => 0x05
  | .fwTooOld => 0x06
  | .cryptoKat => 0x07
  | .trng => 0x08
  | .noImage => 0x09
  | .operator => 0x0A
  | .keyVersion => 0x0B
  | .dram => 0x0C
  | .nand => 0x0D
  | .cores => 0x0E
  | .noSystemArea => 0x0F
  | .systemArea => 0x10
  | .bindingsExhausted => 0x11

/-- The binding in force: the lowest slot that is programmed and not void. -/
def bindingNow (s : State) : Option (Nat × Binding) :=
  match s.fuses.bindings.findIdx? fun b => !b.void with
  | some i => (s.fuses.bindings[i]?).map fun b => (i, b)
  | none => none

/-- SYS_BIND. -/
def sysBind (s : State) : Nat :=
  let free := 8 - s.fuses.bindings.length
  (match bindingNow s with
    | some (i, b) => i + 8 + b.floor * 2 ^ 4
    | none => 0) + free * 2 ^ 11

/-- The self-test report (Table SU-13). DETAIL is one number in its first 8 bytes. -/
def stestBytes (s : State) : List Byte :=
  let t := s.sys.stest
  leBytes 2 1 ++ leBytes 1 t.reason ++ leBytes 1 t.startKind ++ bytesOf 4 Config.sysIdent ++ bytesOf 8 s.sys.serial ++
    bytesOf 1 s.sys.straps ++ leBytes 1 t.failedStep ++ leBytes 2 0 ++ leBytes 4 t.durationUs ++ leBytes 4 t.fencedDram ++
    leBytes 4 0 ++ leBytes 8 t.fencedNand ++ leBytes 2 t.fencedCores ++ leBytes 1 t.fencedKeccak ++ leBytes 1 0 ++
    leBytes 2 t.sramRepairs ++ leBytes 1 t.fwBank ++ leBytes 1 t.imageSlot ++ leBytes 24 t.fencedLanes ++
    leBytes 4 t.imageVersion ++ bytesOf 4 (match bindingNow s with
      | some (_, b) => b.operatorId
      | none => 0) ++ leBytes 4 t.diagDropped ++ leBytes 4 t.diesFailed ++ leBytes 8 0 ++ leBytes 32 t.detail

/-- SYS registers by offset, but for the 64-bit ones. -/
def sysRead (off : Nat) (s : State) : Option Nat :=
  if off = 0x00 then some Config.sysIdent.toNat
  else if off = 0x10 then
    some (bootCode s.sys.boot + s.sys.step * 2 ^ 4 + reasonCode s.sys.reason * 2 ^ 8 + flag s.sys.degradedStart 16 +
      flag s.sys.formatted 17 + flag s.sys.replayHeld 18 + flag s.sys.dumpUnconfirmed 19)
  else if off = 0x14 then some s.sys.straps.toNat
  else if off = 0x18 then
    some (s.sys.kind + s.sys.cause * 2 ^ 4 + flag s.sys.dumpBefore 12 + flag s.sys.dumpComplete 13)
  else if off = 0x1C then some 0
  else if off = 0x30 then
    some (s.sys.vreq + s.sys.vack * 2 ^ 10 + s.sys.tband * 2 ^ 20 + s.qtz.step * 2 ^ 24)
  else if off = 0x34 then some s.sys.cyclePs
  else if 0x40 ≤ off && off < 0xC0 && off % 4 = 0 then some (ofLeBytes (((stestBytes s).drop (off - 0x40)).take 4))
  else if 0x100 ≤ off && off < 0x140 && off % 4 = 0 then some (bits s.sys.fwMeas.toNat (8 * (off - 0x100)) 32)
  else if 0x140 ≤ off && off < 0x180 && off % 4 = 0 then some (bits s.sys.cfgMeas.toNat (8 * (off - 0x140)) 32)
  else if off = 0x180 then some (sysBind s)
  else none

/-- A write of SYS_RESETREQ: the request waits for WARM_START_DEFERRED; one while a warm start is pending or runs is ignored
with a NOTICE record (R76). -/
def resetReq (v : Nat) (s : State) : State :=
  if bits v 16 16 != 0x57A3 || bits v 0 4 != 1 || s.sys.warmDeferred.isSome || s.sys.boot != .run then
    regRefused 0x0000001C v s
  else { s with sys := { s.sys with warmDeferred := some 2 } }

/-! ### 64-bit quantities (R9) -/

/-- Bits of a list of numbers below 64. -/
def bitsOf (l : List Nat) : Nat := sumNat (l.map fun n => 2 ^ n)

/-- The 64-bit quantity whose low word lies at an address. -/
def wide (s : State) (a : Nat) : Option Nat :=
  if a = 0x00000004 then some s.sys.serial.toNat
  else if a = 0x00000020 then some s.sys.runAt
  else if a = 0x00000188 then some s.sys.macBase.toNat
  else if a = 0x00100014 then some s.pwr.wakeTime
  else if a = 0x0030000C then some s.fcl.fAddr
  else if a = 0x00300014 then some s.fcl.fTime
  else if a = 0x0030001C then some s.fcl.fSeq
  else if a = 0x00400010 then some (oldestSeq s)
  else if a = 0x00400028 then some s.obs.rdSeq
  else if a = 0x00500008 then some s.tal.snapSeq
  else if a = 0x00702000 then some s.dmc.ovf
  else if a = 0x00702050 then some (s.dmc.taddr + s.dmc.thalf * 2 ^ 40)
  else if a = 0x00800028 then some s.mch.maddr
  else if a = 0x00901000 then some s.bpm.ovf
  else if a = 0x00D00040 then some (s.med.segs.foldl min s.jrn.sealed)
  else if a = 0x00E00000 then some s.quartz
  else if a = 0x01400010 then some s.slt.epoch
  else if 0x00C00000 ≤ a && a < 0x00D00000 then
    let c := nfcOf s ((a - 0x00C00000) / 0x4000)
    if a % 0x4000 = 0x008 then some c.present else if a % 0x4000 = 0x010 then some c.dieLost else none
  else none

/-- The high word is latched for the next read of its address. -/
def latchHi (a v : Nat) (s : State) : State :=
  { s with mgmt := { s.mgmt with hi := amSet s.mgmt.hi a (BitVec.ofNat 32 v) } }

/-! ### Reads that act -/

/-- A count whose read clears it, or another read with an effect, by address. -/
def actingRead (a : Nat) (s : State) : Option (Nat × State) :=
  if a = 0x00200000 then some (junctionRead s)
  else if a = 0x00400008 then some (headRead s)
  else if 0x00400100 ≤ a && a < 0x00400180 && a % 4 = 0 then some (rdwinRead ((a - 0x00400100) / 4) s)
  else if a = 0x00600014 then some (s.cfl.ce, { s with cfl := { s.cfl with ce := 0 } })
  else if 0x00700000 ≤ a && a < 0x00701800 && a % 0x100 = 4 then
    let n := (a - 0x00700000) / 0x100
    some ((dmcCh s n).ce, modCh n (fun c => { c with ce := 0 }) s)
  else if 0x00700000 ≤ a && a < 0x00701800 && a % 0x100 = 8 then
    let n := (a - 0x00700000) / 0x100
    some ((dmcCh s n).ue, modCh n (fun c => { c with ue := 0 }) s)
  else if 0x00900000 ≤ a && a < 0x00901000 && a % 0x40 = 0x0C then some (bpmFree ((a - 0x00900000) / 0x40) s)
  else if 0x00900000 ≤ a && a < 0x00901000 && a % 0x40 = 0x10 then some (bpmOwned ((a - 0x00900000) / 0x40) s)
  else if 0x00900000 ≤ a && a < 0x00901000 && a % 0x40 = 0x14 then some (bpmInflight ((a - 0x00900000) / 0x40) s)
  else if 0x00900000 ≤ a && a < 0x00901000 && a % 0x40 = 0x18 then
    let p := (a - 0x00900000) / 0x40
    some ((s.bpm.pools.getD p coldPool).fail,
      { s with bpm := { s.bpm with pools := modNth s.bpm.pools p fun q => { q with fail := 0 } } })
  else if a = 0x00A00020 then some (s.cph.tagfail, { s with cph := { s.cph with tagfail := 0 } })
  else if a = 0x00A00024 then some (s.cph.sealfail, { s with cph := { s.cph with sealfail := 0 } })
  else if a = 0x00B0000C then some (s.kec.trngfail, { s with kec := { s.kec with trngfail := 0 } })
  else if a = 0x00B00010 then some (s.kec.authfail, { s with kec := { s.kec with authfail := 0 } })
  else if a = 0x00E00018 then some (s.qtz.late, { s with qtz := { s.qtz with late := 0 } })
  else if a = 0x00F00010 then some (s.eth.silent, { s with eth := { s.eth with silent := 0 } })
  else if a = 0x00F00014 then some (s.eth.rejsupp, { s with eth := { s.eth with rejsupp := 0 } })
  else none

/-! ### Plain reads and writes -/

/-- A register that a read leaves as it is. -/
def plainRead (a : Nat) (s : State) : Option Nat :=
  let off := a % 0x100000
  let blk := a / 0x100000
  if 0x10 ≤ blk && blk < 0x14 then insRead ((a - 0x01000000) / 0x1000) (a % 0x1000) s
  else match blk with
    | 0x00 => sysRead off s
    | 0x01 => pwrRead off s
    | 0x02 => thmRead off s
    | 0x03 => fclRead off s
    | 0x04 => obsRead off s
    | 0x05 => talRead off s
    | 0x06 => cflRegRead off s
    | 0x07 => dmcRead off s
    | 0x08 => mchRead off s
    | 0x09 => bpmRead off s
    | 0x0A => cphRead off s
    | 0x0B => kecRead off s
    | 0x0C => nfcRead off s
    | 0x0D => medRead off s
    | 0x0E => qtzRead off s
    | 0x0F => ethRead off s
    | 0x14 => sltRead off s
    | _ => none

/-- A register's write; none where the address takes none. -/
def plainWrite (a v : Nat) (s : State) : Option State :=
  let off := a % 0x100000
  let blk := a / 0x100000
  if 0x10 ≤ blk && blk < 0x14 then insWrite ((a - 0x01000000) / 0x1000) (a % 0x1000) v s
  else match blk with
    | 0x00 => if off = 0x1C then some (resetReq v s) else none
    | 0x01 => pwrWrite off v s
    | 0x03 => fclWrite off v s
    | 0x04 => obsWrite off v s
    | 0x05 => talWrite off v s
    | 0x06 => cflRegWrite off v s
    | 0x07 => dmcWrite off v s
    | 0x08 => mchWrite off v s
    | 0x09 => bpmWrite off v s
    | 0x0A => cphWrite off v s
    | 0x0B => kecWrite off v s
    | 0x0C => nfcWrite off v s
    | 0x0D => medWrite off v s
    | 0x0E => qtzWrite off v s
    | 0x0F => ethWrite off v s
    | 0x14 => sltWrite off v s
    | _ => none

/-! ### Domains (R378) -/

/-- Power domain of a block (Table PW-1): that of its first half. -/
def blockDomain (a : Nat) : Nat :=
  let blk := a / 0x100000
  if 0x01 ≤ blk && blk ≤ 0x03 then 0
  else if blk = 0x06 then 14
  else if blk = 0x07 then 11
  else if blk = 0x08 then 13
  else if blk = 0x0A then 5
  else if blk = 0x0B then 7
  else if blk = 0x0C then 8
  else if blk = 0x0D then 10
  else 2

/-- The source of a block (Table FE-2). -/
def blockSource (a : Nat) : Nat :=
  let blk := a / 0x100000
  if blk = 0x00 then 0x16F
  else if blk = 0x01 || blk = 0x02 then 0x177
  else if blk = 0x03 then 0x178
  else if blk = 0x04 then 0x16C
  else if blk = 0x05 then 0x16D
  else if blk = 0x06 then 0x168
  else if blk = 0x07 then 0x100 + min 23 (a % 0x100000 / 0x100)
  else if blk = 0x08 then 0x164
  else if blk = 0x09 then 0x165
  else if blk = 0x0A then 0x000
  else if blk = 0x0B then 0x128
  else if blk = 0x0C then 0xC0 + a % 0x100000 / 0x4000
  else if blk = 0x0D then 0x166
  else if blk = 0x0E then 0x162
  else if blk = 0x0F then 0x160
  else 0x167

/-- A domain is off, not merely retained: the cipher lanes and code flash in DOZE, all but AON, PORTS and the landing SRAM
in STOW, all but AON after a shutdown (R392, R408). -/
def domainOff (s : State) (d : Nat) : Bool :=
  if d = 0 then false
  else if s.pins.coreOff then true
  else if s.pwr.state = 3 then d != 1 && d < 15
  else if s.pwr.state = 2 then d = 5 || d = 6 || d = 14
  else false

/-- An access to a block that is off: ERROR and an OFF_DOMAIN record of severity NOTICE (R378). -/
def offDomain (a : Nat) (s : State) : State :=
  eventAt s.quartz kOffDomain sevNotice (blockSource a) noInst false false (faultPayload a 7 0x20 0 0)
    { s with mgmt := { s.mgmt with err := true } }

/-! ### One register access -/

/-- A manager read of the register at an address (R9, R10). -/
def regRead (a : Nat) (s : State) : Nat × State :=
  if domainOff s (blockDomain a) then (0, offDomain a s)
  else match amGet? s.mgmt.hi a with
    | some v => (v.toNat, { s with mgmt := { s.mgmt with hi := amErase s.mgmt.hi a } })
    | none => match actingRead a s with
      | some r => r
      | none => match wide s a with
        | some v => (v % 2 ^ 32, latchHi (a + 4) (v / 2 ^ 32) s)
        | none => match (if 4 ≤ a then wide s (a - 4) else none) with
          | some v => (v / 2 ^ 32, s)
          | none => if a = 0x0040000C then (s.obs.published / 2 ^ 32, s)
            else match plainRead a s with
              | some v => (v, s)
              | none => (0, regRefused a 0 s)

/-- A register stands behind an address. -/
def regExists (a : Nat) (s : State) : Bool :=
  (actingRead a s).isSome || (wide s a).isSome || (4 ≤ a && (wide s (a - 4)).isSome) || a = 0x0040000C ||
    (plainRead a s).isSome

/-- A manager write (R8, R10). A register that takes no write ignores it, which the reply's ERROR flag shows (R98). -/
def regWrite (a v : Nat) (s : State) : State :=
  if domainOff s (blockDomain a) then offDomain a s
  else match plainWrite a v s with
    | some s => s
    | none => if regExists a s then { s with mgmt := { s.mgmt with err := true } } else regRefused a v s

/-- The words of a REG_READ, in ascending address. -/
def readWords : Nat → Nat → State → List U32 × State
  | 0, _, s => ([], s)
  | n + 1, a, s =>
    let (v, s) := regRead (a % 2 ^ 32) s
    let (l, s) := readWords n (a + 4) s
    (BitVec.ofNat 32 v :: l, s)

/-- The words of a REG_WRITE, in ascending address. -/
def writeWords (a : Nat) (l : List U32) (s : State) : State :=
  (l.foldl (fun (p : Nat × State) v => (p.1 + 4, regWrite (p.1 % 2 ^ 32) v.toNat p.2)) (a, s)).2

/-! ### Reads that are commands -/

/-- LOW_WORD_READ: a read of a low word latches the high word (R9). -/
def execLowWordRead (addr : U32) (s : State) : Host.Outcome State Fault Refusal := .next (regRead addr.toNat s).2

/-- OBS_RDWIN_READ: word 0 latches a record, word 31 advances OBS_RDSEQ (R385). -/
def execObsRdwinRead (word : Fin 32) (s : State) : Host.Outcome State Fault Refusal := .next (rdwinRead word.val s).2

/-- OBS_HEAD_READ: the low word latches OBS_HEAD's high word and OBS_OLDEST (R385). -/
def execObsHeadRead (s : State) : Host.Outcome State Fault Refusal := .next (headRead s).2

/-- BPM_FREE_READ: OWNED and IN_FLIGHT are latched (R354). -/
def execBpmFreeRead (pool : Fin 64) (s : State) : Host.Outcome State Fault Refusal := .next (bpmFree pool.val s).2

/-- TAL_CLR: a write of TAL_CLR (R386). -/
def execTalClr (v : U32) (s : State) : Host.Outcome State Fault Refusal := .next (talClear v.toNat s)

end Sys2Proof.Machine
end

