-- ==== Sys2Proof/Machine/Judge.lean ====
section
/-! DEFINITION. The acceptance order: the rows of Table CM-4 for a TASK and for a MGMT request at the front of an
instance's order (R102, R127–R130), ordered refusals (R115, R117), the waits of rows 6, 11 and 13 (R153, R173, R185),
and the execution of MGMT requests (R98). -/

namespace Sys2Proof.Machine

open Sys2Proof

/-! ### REJECT reasons of the order (Table TP-14) -/

def rjBadRecord : Nat := 0x10
def rjSlotRange : Nat := 0x11
def rjSlotState : Nat := 0x12
def rjPermission : Nat := 0x13
def rjDataSequence : Nat := 0x14
def rjDataOrphan : Nat := 0x15
def rjAuthRequired : Nat := 0x16
def rjAuthTag : Nat := 0x17
def rjCounter : Nat := 0x18
def rjExhausted : Nat := 0x19
def rjThrottled : Nat := 0x1A
def rjFloor : Nat := 0x1B
def rjTaskRefused : Nat := 0x1C

/-! ### Outcomes of the rows -/

/-- What the rows find: they pass, the frame is refused with a reason and DETAIL, or it waits. -/
inductive Rows where
  | pass
  | refuse (reason detail : Nat)
  | wait (w : Waiting)
deriving DecidableEq, Repr

/-- The first of two outcomes that does not pass. -/
def Rows.andThen (a b : Rows) : Rows := match a with
  | .pass => b
  | v => v

/-- A row with a reason and DETAIL that refuses when its condition fails to hold. -/
def row (bad : Bool) (reason detail : Nat) : Rows := if bad then .refuse reason detail else .pass

/-! ### The rows of a TASK -/

/-- Row 1 (R102, R123): every further position holds DATA of the task's slot, BLOCK k − 1, LAST at k = n only, and the META
of the record. `k`: index of the first frame of the list; `n`: DATA positions of the task. -/
def dataOk (f : TaskFrame) (n : Nat) : Nat → List Up → Bool
  | _, [] => true
  | k, .data d :: l =>
    d.env.hdr.slot = f.env.hdr.slot && d.env.hdr.block.toNat = k && d.env.hdr.flags.getLsbD 1 = (k + 1 = n : Bool) &&
      d.env.hdr.flags.getLsbD 5 = recMeta f.record && dataOk f n (k + 1) l
  | _, _ :: _ => false

/-- The DATA frames of a list. -/
def dataFrames : List Up → List DataFrame
  | [] => []
  | .data d :: l => d :: dataFrames l
  | _ :: l => dataFrames l

/-- Row 2: the record, and the trailer's reserved bytes behind it (R11, R122, R123). -/
def recordBad (x : Inst) (f : TaskFrame) : Option Nat :=
  match badRecord x f.env.hdr.slot.toNat f.env.hdr.seq f.record with
  | some d => some d
  | none => if hasTrailer f.env.hdr && f.trailer.reserved != 0 then some 0x59 else none

/-- R97: the frame must carry a trailer. -/
def mustAuth (i : Nat) (x : Inst) (op : Nat) : Bool := opCritical op || x.params.trailerAll || i = 0

/-- Rows 5–8. `data`: bytes behind the body that the tag covers (Table TR-3). -/
def authRows (s : State) (i : Nat) (x : Inst) (u : Up) (must : Bool) (data : List Byte) : Rows :=
  match upTrailer u with
  | none => row must rjAuthRequired 0
  | some t =>
    if rotating x then .wait .key
    else match acceptKey s x t.keyGen.toNat with
      | none => .refuse rjAuthTag 0
      | some k =>
        if !tagOk k i u t data then .refuse rjAuthTag 0
        else if k.lac = 2 ^ 64 - 1 then .refuse rjExhausted 0
        else row (decide (t.counter.toNat ≤ k.lac)) rjCounter 0

/-- DATA bytes that the tag of a task covers: those of its one DATA frame (Table TR-3). -/
def taggedData (r : BitVec 512) (l : List Up) : List Byte :=
  if opOneData (recOp r) then (match dataFrames l with
    | d :: _ => bytesOf 4096 d.data
    | [] => [])
  else []

/-- Row 10. A floor of 0xFFFE refuses every DEADLINE_US but 0 (R218, R220). -/
def floorRow (s : State) (x : Inst) (r : BitVec 512) : Rows :=
  let d := recDeadline r
  let fl := effFloor s x (recOp r) (floorNblk r)
  row (d != 0 && (fl = 0xFFFE || decide (d < fl))) rjFloor fl

/-- Row 11 as a row. -/
def contentRow (s : State) (i : Nat) (x : Inst) (r : BitVec 512) : Rows := match judgeContent s i x r with
  | .pass => .pass
  | .refuse st => .refuse rjTaskRefused st
  | .wait w => .wait w

/-- Rows 1–11 of Table CM-4. `l`: the frames at the task's DATA positions. -/
def taskRows (s : State) (i : Nat) (x : Inst) (f : TaskFrame) (l : List Up) : Rows :=
  let r := f.record
  let slot := f.env.hdr.slot.toNat
  (row (!dataOk f l.length 0 l) rjDataSequence 0).andThen
    ((match recordBad x f with
      | some d => Rows.refuse rjBadRecord d
      | none => .pass).andThen
    ((row (!x.params.typeMask.testBit (recOp r)) rjPermission 0).andThen
    ((row (decide (slotsNow s i x ≤ slot)) rjSlotRange 0).andThen
    ((authRows s i x (.task f) (mustAuth i x (recOp r)) (taggedData r l)).andThen
    ((row (slotOf x slot).isSome rjSlotState 0).andThen
    ((floorRow s x r).andThen (contentRow s i x r)))))))

/-! ### Refusals in the order -/

/-- Ordered REJECTs of the last 256 up positions (R108). -/
def keepRejects (r : Reject) (x : Inst) : List Reject :=
  (x.rejects ++ [r]).filter fun q => decide (-256 < seqDiff q.rejSeq x.e + q.count)

/-- A reason that a row behind the tag's computation gives. -/
def behindTag (reason : Nat) : Bool := reason = rjSlotState || rjAuthTag ≤ reason

/-- The tag of a frame has been computed: an URGENT message, or BULK where it covers a DATA body (R312). None is where the
generation is not accepted (R302). -/
def countTag (i : Nat) (u : Up) (data : List Byte) (s : State) : State :=
  match inst? s i, upTrailer u with
  | some x, some t => if (acceptKey s x t.keyGen.toNat).isSome then
      keccakMsg (!data.isEmpty) s else s
  | _, _ => s

/-- Counters of the refusals of the keyed check. -/
def countAuth (i reason : Nat) (s : State) : State :=
  if reason = rjAuthTag then tally i 0x0008 0 1 (countAuthFail s)
  else if reason = rjCounter then tally i 0x0008 1 1 s
  else if reason = rjExhausted then tally i 0x0008 2 1 s
  else s

/-- The front of the order is refused: `n` positions are consumed, the REJECT is sent and kept, and it counts as a violation
where `viol` says so (R102, R115, R117). `orphan`: where DATA that follow it directly would stand; `data`: what its tag
covers behind the body. -/
def refuseFront (i n : Nat) (u : Up) (reason detail retry : Nat) (data : List Byte) (viol : Bool)
    (orphan : Option (U32 × U16)) (s : State) : State :=
  match inst? s i with
  | none => s
  | some x =>
    let r := { rejectOf u reason detail true with count := n, retryUs := retry, data := data }
    let s := setInst i { x with placed := x.placed.drop n, waiting := .no, waited := .other, waitedSpent := []
                                lastOrphan := orphan
                                rejects := keepRejects r x } s
    let s := sendReject i (upEnv u) true r (countAuth i reason (freeLanding (x.placed.take n) s))
    if viol then violate i s else s

/-- A task at the front is refused with its DATA positions. -/
def refuseTask (i : Nat) (f : TaskFrame) (n reason detail retry : Nat) (data : List Byte) (s : State) : State :=
  let s := if behindTag reason then countTag i (.task f) data s else s
  refuseFront i (n + 1) (.task f) reason detail retry data (isViolation reason)
    (some (f.env.hdr.seq + BitVec.ofNat 32 (n + 1), f.env.hdr.slot)) s

/-- DATA at a position that belongs to no task (R102). It is no violation where it follows directly the refused task it
belonged to. -/
def refuseOrphan (i : Nat) (d : DataFrame) (x : Inst) (s : State) : State :=
  let follows : Bool := x.lastOrphan = some (d.env.hdr.seq, d.env.hdr.slot)
  refuseFront i 1 (.data d) rjDataOrphan 0 0 [] (!follows)
    (if follows then some (d.env.hdr.seq + 1, d.env.hdr.slot) else none) s

/-! ### Rows 12 and 13 -/

/-- Miss cause of a wait (Table LT-4). -/
def waitCause : Waiting → MissCause
  | .key => .keyWait
  | .desc => .commitHold
  | .twin _ => .twinWait
  | _ => .other

/-- The front waits; the time counts against its deadline (R153, R173, R185). -/
def waitFront (i : Nat) (w : Waiting) (s : State) : State :=
  modInst i (fun x =>
    if x.waited = waitCause w then { x with waiting := w }
    else
      let k := causeCode x.waited
      { x with waiting := w, waited := waitCause w, waitedSince := s.quartz
               waitedSpent := if x.waited = .other then x.waitedSpent
                 else amSet x.waitedSpent k (amGetD x.waitedSpent k 0 + (s.quartz - x.waitedSince)) }) s

/-- Give a reservation of row 12 back (R214). -/
def unreserveTask (r : BitVec 512) (x : Inst) : Inst :=
  let c := taskCost r
  { x with bw := unreserve x.params.bwDepth c.2 x.bw, ops := unreserve x.params.opDepth c.1 x.ops }

/-- Reserve the tokens of a task (R214). -/
def reserveTask (r : BitVec 512) (x : Inst) : Inst :=
  let c := taskCost r
  { x with bw := reserve c.2 x.bw, ops := reserve c.1 x.ops }

/-- RETRY_AFTER_US of a task that its buckets do not cover; 0 where they do (R215). -/
def tokensShort (s : State) (x : Inst) (r : BitVec 512) : Nat :=
  let c := taskCost r
  if c.2 ≤ x.bw.level && c.1 ≤ x.ops.level then 0
  else max 1 (max (retryWait x.params.bwRate (tokenPct s) c.2 x.bw.level)
    (retryWait x.params.opRate (tokenPct s) c.1 x.ops.level))

/-- A front whose tokens row 12 has reserved. -/
def holdsTokens : Waiting → Bool
  | .twin _ => true
  | .staged => true
  | _ => false

/-- Types whose DATA blocks are encrypted and written to the twin buffer at row 13: WRITE and APPEND. -/
def twinType (op : Nat) : Bool := op = 0x02 || op = 0x03

/-- Row 13 of a WRITE or APPEND whose tokens are reserved: its twin buffers are taken and its copies written, or it waits for twin space while the
incomplete groups go to flash (R173, R245). -/
def rowTwin (i : Nat) (r : BitVec 512) (since : Nat) (s : State) : State :=
  match inst? s i with
  | none => s
  | some x =>
    if twinFits s x (recNblk r) then
      let a := takeTwins (recNblk r) s
      setInst i { x with waiting := .staged, stagedBufs := a.1 } a.2
    else forInsts padInst (waitFront i (.twin since) s)

/-- Rows 12 and 13, and the acceptance of a type without up DATA blocks to store (R127). -/
def admitFront (i : Nat) (f : TaskFrame) (l : List Up) (ready : Nat) (s : State) : State :=
  match inst? s i with
  | none => s
  | some x =>
    let r := f.record
    let x := if holdsTokens x.waiting then x else credited s x
    let short := if holdsTokens x.waiting then 0 else tokensShort s x r
    if 0 < short then
      refuseTask i f l.length rjThrottled 0 short (taggedData r l) (tally i 0x0005 12 1 (setInst i x s))
    else
      let since := match x.waiting with
        | .twin t => t
        | _ => s.quartz
      let s := setInst i (if holdsTokens x.waiting then x else reserveTask r x) s
      if twinType (recOp r) then rowTwin i r since s
      else acceptTask i f (dataFrames l) ready (countTag i (.task f) (taggedData r l) s)

/-- A front that rows 1–11 turn away or make wait gives its reservation back, its twin space with it (R173). -/
def releaseTokens (i : Nat) (r : BitVec 512) (s : State) : State :=
  let twins := ((inst? s i).map (·.stagedBufs)).getD []
  twins.foldl (fun s t => freeTwin t s)
    (modInst i (fun x => if holdsTokens x.waiting then { unreserveTask r (credited s x) with waiting := .no, stagedBufs := [] }
      else x) s)

/-- Judge the TASK at the front, whose DATA positions are filled by `l`. -/
def judgeTask (i : Nat) (x : Inst) (f : TaskFrame) (l : List Up) (ready : Nat) (s : State) : State :=
  match taskRows s i x f l with
  | .pass => admitFront i f l ready s
  | .refuse reason detail =>
    refuseTask i f l.length reason detail 0 (taggedData f.record l) (releaseTokens i f.record s)
  | .wait w => waitFront i w (releaseTokens i f.record s)

/-! ### MGMT requests (R98) -/

/-- Offset of the first field of a MGMT request that breaks Table TP-13 or the trailer's reserved bytes. -/
def mgmtBad (f : MgmtFrame) : Option Nat :=
  if f.op != 1 && f.op != 2 then some 0x00
  else if !(1 ≤ f.count.toNat && f.count.toNat ≤ 32) then some 0x01
  else if f.reserved != 0 then some 0x02
  else if f.addr.toNat % 4 != 0 then some 0x04
  else if hasTrailer f.env.hdr && f.trailer.reserved != 0 then some (f.env.hdr.len.toNat + 0x19)
  else none

/-- What a MGMT request meets: its form, the instance, rows 5–8 (R97, R98). -/
def mgmtRows (s : State) (i : Nat) (x : Inst) (f : MgmtFrame) : Rows :=
  (match mgmtBad f with
    | some d => Rows.refuse rjBadRecord d
    | none => .pass).andThen
    ((row (i != 0) rjPermission 0).andThen (authRows s i x (.mgmt f) true []))

/-- The reply to a MGMT request: OP, COUNT and ADDRESS again, the words read, ERROR and the trailer (R97, R98, R299). -/
def mgmtReply (f : MgmtFrame) (words : List U32) (s : State) : State :=
  match inst? s 0 with
  | none => s
  | some x =>
    let flags := flag (hasTrailer f.env.hdr) 0 + flag s.mgmt.err 8
    let n := f.count.toNat
    let trl := if hasTrailer f.env.hdr then
        replyTrailer 0 x 7 flags 0 (8 + 4 * words.length) (mgmtBody f.op.toNat n 0 f.addr words) f.trailer
      else none
    let body : Body := .mgmt f.op.toNat n f.addr words
    let d := downFrame s 0 x f.env.link.val flags 0 x.down 0 body trl
    let kept := s.eth.mgmtReplies ++ [(f.env.hdr.seq, BitVec.ofNat 64 (upCounter (.mgmt f)), d)]
    let s := { s with eth := { s.eth with mgmtReplies := kept.drop (kept.length - 64) } }
    let s := if trl.isSome then keccakMsg false s else s
    sendSeq 0 f.env.link.val flags 0 0 body trl s

/-- An accepted MGMT request takes effect, in ascending address, and is answered (R98). -/
def acceptMgmt (i : Nat) (f : MgmtFrame) (s : State) : State :=
  let s := countTag i (.mgmt f) [] s
  let s := freeLanding (((inst? s i).map (·.placed.take 1)).getD []) s
  let s := modInst i (fun x => { x with placed := x.placed.drop 1, waiting := .no, waited := .other
                                        waitedSpent := [], lastOrphan := none }) s
  let s := if hasTrailer f.env.hdr then acceptCounter i f.trailer.keyGen.toNat f.trailer.counter.toNat s else s
  let s := { s with mgmt := { s.mgmt with err := false } }
  if f.op = 1 then
    let r := readWords f.count.toNat f.addr.toNat s
    mgmtReply f r.1 r.2
  else mgmtReply f [] (writeWords f.addr.toNat f.data s)

/-- Judge the MGMT request at the front. -/
def judgeMgmt (i : Nat) (x : Inst) (f : MgmtFrame) (s : State) : State :=
  match mgmtRows s i x f with
  | .pass => acceptMgmt i f s
  | .refuse reason detail =>
    let s := if behindTag reason then countTag i (.mgmt f) [] s else s
    refuseFront i 1 (.mgmt f) reason detail 0 [] (isViolation reason) none s
  | .wait w => waitFront i w s

/-! ### Driving the order -/

/-- Judge the front of an instance's order once. A task whose DATA positions are not filled yet, and a WRITE whose copies are
being written, wait for their event (R102, R130). -/
def judgeFront (i : Nat) (s : State) : State :=
  match inst? s i with
  | none => s
  | some x => match x.placed with
    | [] => s
    | (_, .data d, _) :: _ => refuseOrphan i d x s
    | (_, .mgmt f, _) :: _ => judgeMgmt i x f s
    | (_, .task f, t) :: rest =>
      if noCount f.record then
        refuseTask i f 0 rjBadRecord ((badRecord x f.env.hdr.slot.toNat f.env.hdr.seq f.record).getD 0x10) 0 [] s
      else
        let n := upData f.record
        if rest.length < n || x.waiting = .staged then s
        else
          let l := rest.take n
          judgeTask i x f (l.map fun p => p.2.1) ((l.getLast?.map fun p => p.2.2.at').getD t.at') s

/-- Frames with positions that are not accepted or refused yet. -/
def placedCount (i : Nat) (s : State) : Nat := ((inst? s i).map (·.placed.length)).getD 0

/-- Judge an instance's frames in position order, as far as they go (R102, R129). -/
def driveN (i : Nat) : Nat → State → State
  | 0, s => s
  | n + 1, s =>
    let t := judgeFront i s
    if placedCount i t < placedCount i s then driveN i n t else t

/-- Judge an instance's order while acceptance is open: while it is closed nothing is accepted (R130). -/
def drive (i : Nat) (s : State) : State := if s.sys.open' then driveN i (placedCount i s) s else s

/-- Every instance's order, in ascending number. -/
def driveAll (s : State) : State := forInsts drive s

/-! ### Events of a front -/

/-- The front TASK of an instance with the frames at its DATA positions. -/
def frontTask (x : Inst) : Option (TaskFrame × List Up × Nat) :=
  match x.placed with
  | (_, .task f, t) :: rest =>
    let l := rest.take (upData f.record)
    some (f, l.map (fun p => p.2.1), (l.getLast?.map fun p => p.2.2.at').getD t.at')
  | _ => none

/-- The DRAM controller has acknowledged both twin copies of the front: its acceptance instant, before which rows 1–11 are
judged again (R129, R130). A steward core that reads a line which an HWT has locked waits for the unlock (R203). -/
def acceptFront (i : Nat) (s : State) : State :=
  match inst? s i with
  | none => s
  | some x =>
    if x.waiting != .staged || !s.sys.open' then s
    else match frontTask x with
      | none => s
      | some (f, l, ready) => if (taskLines i f.record).any (hwtLocked s) then s else match taskRows s i x f l with
        | .pass => acceptTask i f (dataFrames l) ready (countTag i (.task f) (taggedData f.record l) s)
        | .refuse reason detail =>
          refuseTask i f l.length reason detail 0 (taggedData f.record l) (releaseTokens i f.record s)
        | .wait w => waitFront i w (releaseTokens i f.record s)

/-- The front has waited 1 ms for twin space: TASK_REFUSED with DETAIL NO_BUFFER (R173). -/
def twinTimeout (i : Nat) (s : State) : State :=
  match inst? s i with
  | none => s
  | some x => match x.waiting, frontTask x with
    | .twin _, some (f, l, _) =>
      if s.sys.open' then
        refuseTask i f l.length rjTaskRefused stNoBuffer 0 (taggedData f.record l) (releaseTokens i f.record s)
      else s
    | _, _ => s

end Sys2Proof.Machine
end

