-- ==== Sys2Proof/Machine/Ingress.lean ====
section
/-! DEFINITION. Frames that arrive: the links that take them, landing in DOZE and STOW (R398, R399), the header (R95, R96), the
instance and its sources (R93, R270), closed acceptance (R56, R105), the ACK field (R105), the order of E (R101, R103,
R104), copies (R108, R109), ACK frames (R103, R106, R107). -/

namespace Sys2Proof.Machine

open Sys2Proof

/-! ### REJECT reasons outside the order (Table TP-14) -/

def rjNotAccepting : Nat := 0x01
def rjBadHeader : Nat := 0x02
def rjUnknownInstance : Nat := 0x03
def rjInstanceSource : Nat := 0x04
def rjInstanceHeld : Nat := 0x05
def rjQuarantined : Nat := 0x06
def rjOverrun : Nat := 0x07
def rjGapTimeout : Nat := 0x08
def rjNoBuffer : Nat := 0x09
def rjStale : Nat := 0x0A
def rjMismatch : Nat := 0x0B
def rjBadAck : Nat := 0x0C

/-! ### Arrival -/

/-- Bytes of an up frame from the destination address to the FCS (R390). -/
def upBytes (s : State) (e : Env) : Nat :=
  32 + e.hdr.len.toNat + (if hasTrailer e.hdr then 32 else 0) + outerBytes s e.src.encap

/-- The device is in DOZE or STOW, the exit included: PORTS lands the frames (R398). -/
def deep (s : State) : Bool := 2 ≤ s.pwr.state

/-- A frame in DOZE or STOW takes a buffer of its half's hold list and wakes the device (R398, R399). -/
def holdLanding (c : Instr) (p b detail : Nat) (s : State) : State :=
  flowControl p (wake 8 detail { s with pwr := { s.pwr with
    holdLists := modNth s.pwr.holdLists p (List.drop 1), landed := s.pwr.landed ++ [(c, p, b)] } })

/-- A frame in DOZE or STOW lands; where the hold list is empty, its header and source are kept for up to 256 frames per port,
and further ones are dropped and counted (R398, R399). -/
def landFrame (c : Instr) (e : Env) (s : State) : State :=
  let p := e.link.val / 8
  match (s.pwr.holdLists.getD p []).head? with
  | some b => holdLanding c p b e.link.val s
  | none =>
  if (s.pwr.keptHdrs.filter fun h => h.1.link.val / 8 = p).length < 256 then
    wake 8 e.link.val { s with pwr := { s.pwr with keptHdrs := s.pwr.keptHdrs ++ [(e, frameType c)] } }
  else silentDrop e.link.val s

/-- A frame arrives on a link that is up: it is counted, and landed or handed on; in DOZE and STOW one that R89 does not take is
dropped before it lands. In HALT the device takes no frame (R376). -/
def arrive (c : Instr) (e : Env) (k : State → State) (s : State) : State :=
  if !linkUp s e.link.val || s.sys.boot = .halt then s
  else
    let s := countIn e.link.val (upBytes s e) s
    if !deep s then k s
    else if outerOk s e then landFrame c e s
    else silentDrop e.link.val s

/-! ### Instance and source -/

/-- A source entry matches a frame (R270). -/
def sourceMatch (src : Source) (e : SourceEntry) : Bool :=
  if e.kind = 1 then e.mac = src.mac
  else if e.kind = 2 then src.encap = .udp4 && e.addr = src.ip4.setWidth 128
  else if e.kind = 3 then src.encap = .udp6 && e.addr = src.ip6
  else false

/-- A frame of a TYPE is valid for the instance: an allowed link and a bound source (R93). TASK and MGMT frames of instance 0 are
taken from any source on any link while it holds no source entry (R270). -/
def sourceOk (i : Nat) (x : Inst) (type : Nat) (e : Env) : Bool :=
  if i = 0 && x.params.sources.isEmpty && (type = 1 || type = 7) then true
  else linkAllowed x e.link.val && x.params.sources.any (sourceMatch e.src)

/-- The created instance that a header names. -/
def namedInst (s : State) (e : Env) : Option Inst := inst? s e.hdr.inst.toNat

/-- A refusal outside the order. -/
def rejectEnv (e : Env) (type reason detail : Nat) : Reject :=
  { reason := reason, rejSeq := e.hdr.seq, rejSlot := e.hdr.slot, rejType := type, retryUs := 0, detail := detail
    count := 1, ordered := false, counter := 0, data := [] }

/-- Send a REJECT outside the order for a valid frame; it counts as a violation where Table TP-14 says so. -/
def refuse (i : Nat) (e : Env) (type reason detail : Nat) (s : State) : State :=
  let s := sendReject i e true (rejectEnv e type reason detail) s
  if isViolation reason then violate i s else s

/-- A refusal counted device-wide, with no effect on an instance (R95, Table TP-14). -/
def refuseWide (e : Env) (type reason detail : Nat) (s : State) : State :=
  sendRejectTo e (rejectEnv e type reason detail)
    { s with eth := { s.eth with unknownSrc := s.eth.unknownSrc + 1 } }

/-- BAD_HEADER: a violation of the named instance only where the frame passes R93 for it (R95). -/
def refuseHeader (e : Env) (type detail : Nat) (s : State) : State :=
  match namedInst s e with
  | some x => if sourceOk e.hdr.inst.toNat x type e then refuse e.hdr.inst.toNat e type rjBadHeader detail s
      else refuseWide e type rjBadHeader detail s
  | none => refuseWide e type rjBadHeader detail s

/-- A valid frame of an instance: its source and link are kept (R91, R110), and a stalled instance resumes with RTO (R106). -/
def markValid (i : Nat) (e : Env) (s : State) : State :=
  modInst i (fun x => { x with
    lastValid := amSet x.lastValid e.link.val e.src, lastLink := some e.link.val
    stalled := false, expiries := if x.stalled then 0 else x.expiries }) s

/-! ### The ACK field -/

/-- A DONE slot whose COMPLETION the ACK value has passed becomes FREE (R105). -/
def ackedSlot (ack : U32) (p : Nat × Slot) : Bool := match p.2 with
  | .done _ down _ _ => decide (seqDiff down ack < 0)
  | .held _ => false

/-- The ACK value moves forward: passed frames are let go, their DONE slots become FREE, the timer returns to RTO and frames that
waited for the window go out (R105, R106). -/
def advanceAck (i : Nat) (ack : U32) (s : State) : State :=
  let done := (((inst? s i).map fun x => x.unacked ++ x.backlog).getD []).filter fun d => !decide (0 ≤ seqDiff d.seq ack)
  drainBacklog i (freeBufs 1 (done.filterMap (·.buf)) <| modInst i (fun x => { x with
    ackIn := ack, expiries := 0
    unacked := x.unacked.filter fun d => decide (0 ≤ seqDiff d.seq ack)
    backlog := x.backlog.filter fun d => decide (0 ≤ seqDiff d.seq ack)
    slots := x.slots.filter fun p => !ackedSlot ack p }) s)

/-- The ACK field of a valid up frame: behind the one in force it is ignored; beyond the next down number it is ignored and
answered with BAD_ACK (R105). -/
def takeAck (i : Nat) (e : Env) (type : Nat) (s : State) : State :=
  match inst? s i with
  | none => s
  | some x =>
    if 0 < seqDiff e.hdr.ack x.down then refuse i e type rjBadAck x.down.toNat s
    else if seqDiff e.hdr.ack x.ackIn ≤ 0 then s
    else advanceAck i e.hdr.ack s

/-! ### Acceptance closed -/

/-- A TASK, DATA or MGMT frame while acceptance is closed is refused with NOT_ACCEPTING. Its ACK field is processed while the
transport engine runs, where the frame is sound and valid (R56, R105). -/
def closedFrame (e : Env) (type : Nat) (headerOk : Bool) (s : State) : State :=
  let i := e.hdr.inst.toNat
  match namedInst s e with
  | none => sendRejectTo e (rejectEnv e type rjNotAccepting s.sys.closedWhy) s
  | some x =>
    if headerOk && sourceOk i x type e then
      let s := if s.sys.transport then takeAck i e type (markValid i e s) else s
      sendReject i e true (rejectEnv e type rjNotAccepting s.sys.closedWhy) s
    else sendRejectTo e (rejectEnv e type rjNotAccepting s.sys.closedWhy) s

/-! ### The order (R101, R103, R104) -/

/-- A frame takes its position at E; ECHO is its TIME (Table TP-4). -/
def place (u : Up) (t : Land) (x : Inst) : Inst :=
  { x with placed := x.placed ++ [((upEnv u).hdr.seq, u, t)], e := x.e + 1, echo := (upEnv u).hdr.time }

/-- Held frames at E and onward take their positions, as far as the next gap; their landing is now in the order at `now`. -/
def placeHeld (now : Nat) : Nat → Inst → Inst
  | 0, x => x
  | n + 1, x => match x.heldUp.find? fun p => p.1 = x.e with
    | none => x
    | some p => placeHeld now n (place p.2.1 { p.2.2 with at' := now } { x with heldUp := x.heldUp.filter fun q => q.1 != p.1 })

/-- D = 0: the frame takes its position and held frames follow. Where the advance ends at a new gap, that gap's timer starts and
the gap request is sent (R101, R103, R104). -/
def placeFrame (i : Nat) (u : Up) (buf : Nat) (s : State) : State :=
  match inst? s i with
  | none => s
  | some x =>
    let y := placeHeld s.quartz 64 (place u { at' := s.quartz, buf := some buf } x)
    let gap : Bool := !y.heldUp.isEmpty
    let s := setInst i { y with gapAt := if gap then some s.quartz else none } s
    drive i (if gap then sendAck i s else s)

/-- Insert a held frame in sequence order behind E. -/
def insertHeld (e : U32) (p : U32 × Up × Land) : List (U32 × Up × Land) → List (U32 × Up × Land)
  | [] => [p]
  | q :: l => if seqDiff p.1 e < seqDiff q.1 e then p :: q :: l else q :: insertHeld e p l

/-- A frame that takes no place in the order lets its landing buffer go. -/
def dropLanding (u : Up) (buf : Nat) (s : State) : State := decRef (landingPool u) buf (landingPool u) s

/-- D = 1–64: the frame is held. The first beyond a gap starts the gap's timer and sends the gap request; a copy of a held frame
is dropped and the ACK sent again (R101, R103, R104). -/
def holdFrame (i : Nat) (u : Up) (buf : Nat) (s : State) : State :=
  match inst? s i with
  | none => s
  | some x =>
    let q := (upEnv u).hdr.seq
    if x.heldUp.any fun p => p.1 = q then sendAck i (dropLanding u buf s)
    else
      let first := x.heldUp.isEmpty
      let s := setInst i { x with heldUp := insertHeld x.e (q, u, { at' := s.quartz, buf := some buf }) x.heldUp
                                  gapAt := if first then some s.quartz else x.gapAt } s
      if first then sendAck i s else s

/-! ### Copies (R108, R109, Table TP-14A) -/

/-- The task of a slot that is HELD or DONE. -/
def slotTask : Slot → Task
  | .held t => t
  | .done _ _ _ t => t

/-- The slot whose task holds an up position: its TASK frame, at offset 0, or one of its DATA positions. -/
def holderOf (x : Inst) (q : U32) : Option (Nat × Slot × Nat) :=
  (x.slots.find? fun p =>
    let d := seqDiff q (slotTask p.2).seq
    decide (0 ≤ d) && decide (d ≤ (upData (slotTask p.2).record : Int))).map
      fun p => (p.1, p.2, (seqDiff q (slotTask p.2).seq).toNat)

/-- COUNTER of an accepted task, 0 without a trailer (R108). -/
def taskCounter (t : Task) : Nat := (t.trailer.map fun r => r.counter.toNat).getD 0

/-- The tag of a copy verifies under the current or the previous generation (R108, R302); a frame without a trailer has none. -/
def copyTagOk (i : Nat) (x : Inst) (u : Up) (data : List Byte) : Bool :=
  match upTrailer u with
  | none => true
  | some t => match keyGen? x t.keyGen.toNat with
    | some k => tagOk k i u t data
    | none => false

/-- A copy matches the task that holds its position: slot, type and COUNTER; a DATA copy TYPE and SLOT (R108). -/
def copyMatches (u : Up) (slot off : Nat) (t : Task) : Bool :=
  (upEnv u).hdr.slot.toNat = slot &&
    (if off = 0 then upType u = 1 && upCounter u = taskCounter t else upType u = 2)

/-- The kept REJECT that a copy matches (R108): the first position by SLOT, TYPE and COUNTER, a DATA position by SLOT and TYPE,
within the last 256 up positions. -/
def rejectFor (x : Inst) (u : Up) : Option Reject :=
  let h := (upEnv u).hdr
  if seqDiff h.seq x.e < -256 then none
  else x.rejects.find? fun r =>
    let d := seqDiff h.seq r.rejSeq
    decide (0 ≤ d) && decide (d < (r.count : Int)) && r.rejSlot = h.slot &&
      (if d = 0 && r.rejType != 2 then r.rejType = upType u && r.counter = upCounter u else upType u = 2)

/-- DATA bytes behind a copy's body for its tag: those of the task it copies, or of the refused one whose REJECT is kept, for the
types whose tag covers them; none where the device holds them no more. -/
def copyData (x : Inst) (u : Up) (h : Option (Nat × Slot × Nat)) : Option (List Byte) :=
  match u with
  | .task f =>
    if !opOneData (recOp f.record) then some []
    else match h with
      | some (_, sl, 0) => if opOneData (slotTask sl).op then some (bytesOf 4096 (slotTask sl).payload) else some []
      | some _ => some []
      | none => (rejectFor x u).map (·.data)
  | _ => some []

/-- The kept reply that a copy of a MGMT request matches (R108). -/
def replyFor (s : State) (u : Up) : Option Down :=
  if upType u = 7 then (s.eth.mgmtReplies.find? fun p => p.1 = (upEnv u).hdr.seq && p.2.1.toNat = upCounter u).map
    fun p => p.2.2
  else none

/-- The answer to a copy whose tag has verified, by Table TP-14A. -/
def answerCopy (i : Nat) (x : Inst) (u : Up) (s : State) : State :=
  let e := upEnv u
  match holderOf x e.hdr.seq with
  | some (slot, sl, off) =>
    if !copyMatches u slot off (slotTask sl) then refuse i e (upType u) rjMismatch 0 s
    else match sl with
      | .held _ => sendAck i s
      | .done _ down _ _ => resendWhere i (fun d => d.seq = down) s
  | none => match replyFor s u with
    | some d => resendDown i d s
    | none => match rejectFor x u with
      | some r => sendUnseq i e.link.val (flag r.ordered 4 + 8) r.rejSlot.toNat (.reject r) s
      | none => refuse i e (upType u) rjStale 0 s

/-- Whether the tag of a copy verifies, with the DATA its tag covers; a free bit where those are gone and its generation is held
(R108, log entry 71). -/
def judgeCopyTag (i : Nat) (x : Inst) (u : Up) (s : State) : Bool × State :=
  let tagged := (upTrailer u).any fun t => (keyGen? x t.keyGen.toNat).isSome
  match copyData x u (holderOf x (upEnv u).hdr.seq) with
  | some data =>
    (copyTagOk i x u data, if tagged then keccakMsg (!data.isEmpty) s else s)
  | none =>
    if tagged then
      let r := drawBit s
      (r.1, keccakMsg true r.2)
    else (copyTagOk i x u [], s)

/-- A copy of a frame behind E, by the first row of Table TP-14A that matches; one of a frame with a position and no outcome
yet is dropped and the ACK sent again (R101, R108). -/
def copyFrame (i : Nat) (u : Up) (s : State) : State :=
  match inst? s i with
  | none => s
  | some x =>
    let e := upEnv u
    if x.placed.any fun p => p.1 = e.hdr.seq then sendAck i s
    else
      let v := judgeCopyTag i x u s
      if v.1 then answerCopy i x u v.2 else refuse i e (upType u) rjAuthTag 0 (countAuth i rjAuthTag v.2)

/-! ### Sequenced up frames -/

/-- First bad field of a sequenced up frame (R95). -/
def upHeaderBad (u : Up) : Option Nat := headerBad (upType u) (upEnv u).hdr (upLenOk u)

/-- The frame, in its landing buffer, acts on the order by D = S − E (R101). -/
def orderFrame (i : Nat) (u : Up) (buf : Nat) (s : State) : State :=
  match inst? s i with
  | none => s
  | some x =>
    let d := seqDiff (upEnv u).hdr.seq x.e
    if d < 0 then copyFrame i u (dropLanding u buf s)
    else if 64 < d then refuse i (upEnv u) (upType u) rjOverrun x.e.toNat (dropLanding u buf s)
    else if d = 0 then placeFrame i u buf s
    else holdFrame i u buf s

/-- The first row of Table IN-5 that applies to an instance's frames (R276). -/
def stateRefusal (x : Inst) : Option Nat :=
  if x.held || x.replayHeld then some rjInstanceHeld else if x.quarantined then some rjQuarantined else none

/-- A valid TASK, DATA or MGMT frame with acceptance open: its ACK field, a landing buffer, the instance's state, the order
(R88, R101, R105, R276). -/
def validFrame (i : Nat) (u : Up) (s : State) : State :=
  let e := upEnv u
  let s := takeAck i e (upType u) (markValid i e s)
  match allocBuf (landingPool u) (landingPool u) false s with
  | (none, s) => refuse i e (upType u) rjNoBuffer 0 s
  | (some b, s) => match (inst? s i).bind stateRefusal with
    | some r => refuse i e (upType u) r 0 (dropLanding u b s)
    | none => orderFrame i u b s

/-- A TASK, DATA or MGMT frame (R56, R80, R89, R93, R95). -/
def upFrame (u : Up) (s : State) : State :=
  let e := upEnv u
  let i := e.hdr.inst.toNat
  if s.sys.boot = .lodestone || !outerOk s e then silentDrop e.link.val s
  else if !s.sys.open' then closedFrame e (upType u) (upHeaderBad u).isNone s
  else match upHeaderBad u with
    | some d => refuseHeader e (upType u) d s
    | none => match namedInst s e with
      | none => sendRejectTo e (rejectEnv e (upType u) rjUnknownInstance 0) s
      | some x =>
        if sourceOk i x (upType u) e then validFrame i u s else refuseWide e (upType u) rjInstanceSource 0 s

/-! ### ACK frames -/

/-- First bad field of an ACK frame: its header, or the reserved bytes of its body (R11, R95). -/
def ackHeaderBad (f : AckFrame) : Option Nat :=
  match headerBad 4 f.env.hdr (f.env.hdr.len.toNat = 16) with
  | some d => some d
  | none => if f.reserved != 0 then some 0x2E else none

/-- What a valid ACK frame asks for: PROBE, RESEND or a gap (R106, R107). -/
def answerAck (i : Nat) (f : AckFrame) (s : State) : State :=
  let s := if f.env.hdr.flags.getLsbD 6 then sendProbeReply i f.env.link.val s else s
  if f.env.hdr.flags.getLsbD 7 then resendWhere i (fun _ => true) s
  else resendWhere i (fun d => decide (0 ≤ seqDiff d.seq f.gapFirst) &&
    decide (seqDiff d.seq f.gapFirst < (f.gapCount.toNat : Int))) s

/-- An ACK frame is processed, or refused, while the transport engine runs; before and after, it is dropped silently (R105). -/
def ackFrame (f : AckFrame) (s : State) : State :=
  let e := f.env
  let i := e.hdr.inst.toNat
  if s.sys.boot = .lodestone || !outerOk s e || !s.sys.transport then silentDrop e.link.val s
  else match ackHeaderBad f, namedInst s e with
    | some d, _ => refuseHeader e 4 d s
    | none, none => sendRejectTo e (rejectEnv e 4 rjUnknownInstance 0) s
    | none, some x =>
      if sourceOk i x 4 e then answerAck i f (takeAck i e 4 (markValid i e s))
      else refuseWide e 4 rjInstanceSource 0 s

/-! ### Frames of a TYPE that no up frame has (R95) -/

/-- The offset of the first bad field of a frame whose TYPE is not one an up frame may have. -/
def badTypeDetail (e : Env) : Nat := if e.hdr.version.toNat ≠ 1 then 0x00 else 0x01

/-- A frame whose TYPE is unknown or down-only, while the transport engine runs. -/
def badTypeFrame (e : Env) (type : Nat) (s : State) : State :=
  if s.sys.boot = .lodestone || !outerOk s e || !s.sys.transport then silentDrop e.link.val s
  else refuseHeader e type (badTypeDetail e) s

/-! ### Timers of the transport -/

/-- ACK_DELAY has passed: an advance of E that no down frame has carried goes out in an ACK frame (R103). -/
def ackDelay (i : Nat) (s : State) : State :=
  match inst? s i with
  | none => s
  | some x => if s.sys.transport && x.ackOut != x.e then sendAck i s else s

/-- The gap request is repeated while the gap remains (R103). -/
def gapRepeat (i : Nat) (s : State) : State :=
  match inst? s i with
  | none => s
  | some x => if s.sys.transport && x.gapAt.isSome && !x.heldUp.isEmpty then sendAck i s else s

/-- GAP_HOLD has passed: every held frame is released with one GAP_TIMEOUT; E does not change (R104). -/
def gapExpire (i : Nat) (s : State) : State :=
  match inst? s i with
  | none => s
  | some x => match x.gapAt, x.heldUp, x.heldUp.getLast? with
    | some _, (q, u, _) :: _, some (z, _, _) =>
      let r := { rejectOf u rjGapTimeout 0 false with count := min ((seqDiff z q).toNat + 1) 64 }
      sendReject i (upEnv u) true r (freeLanding x.heldUp (setInst i { x with heldUp := [], gapAt := none } s))
    | _, _, _ => s

/-- The retransmission timer expires: the unacknowledged frames go out again, or, at the 16th expiry in a row, the instance is
stalled with a NOTICE record (R106). -/
def rtoExpire (i : Nat) (s : State) : State :=
  match inst? s i with
  | none => s
  | some x =>
    if !s.sys.transport || x.unacked.isEmpty || x.stalled then s
    else
      let n := x.expiries + 1
      if 16 ≤ n then
        event kTransport sevNotice noSource i [] (setInst i { x with expiries := n, stalled := true } s)
      else resendWhere i (fun _ => true) (setInst i { x with expiries := n } s)

end Sys2Proof.Machine
end

