-- ==== Sys2Proof/Machine/Diag.lean ====
section
/-! DEFINITION. DIAG requests: the responder of LODESTONE (R82, R71, R429) and the requests answered in RUN (R99, R385,
R318). -/

namespace Sys2Proof.Machine

open Sys2Proof

/-! ### Replies -/

/-- RESULT codes of a DIAG reply. -/
def diagOk : Nat := 0x00
def diagUnknownOp : Nat := 0x01
def diagBadArg : Nat := 0x02
def diagNotPermitted : Nat := 0x03

/-- The reply repeats OP, REQ_ID and ARG on the link the request came from, with the tag it carried; ERROR marks a request
that failed (R82, Table TP-5). -/
def diagReply (f : DiagFrame) (result : Nat) (data : List Byte) (s : State) : State :=
  emit { link := f.env.link.val, flags := 4 + flag (result != 0) 8, inst := f.env.hdr.inst.toNat, slot := 0, seq := 0
         ack := 0, block := 0, time := now32 s, echo := 0, incarn := s.sys.incarn
         body := .diag f.op.toNat result f.reqId f.arg data f.env.outer.tags, trailer := none
         dst := some f.env.src, buf := none, out := none } s

/-- IDENTIFY reply data (Table SU-12A). -/
def identifyData (s : State) : List Byte :=
  bytesOf 4 Config.sysIdent ++ bytesOf 4 Config.idcode ++ bytesOf 8 s.sys.serial ++ bytesOf 1 s.sys.straps ++
    leBytes 7 0 ++ (List.range 16).flatMap fun n => beBytes 6 (factoryMac s n).toNat ++ leBytes 2 0

/-- Up to 8 records of a recorder from a SEQ on, lowest first (R385). -/
def recordData (s : State) (n want : Nat) : List Byte :=
  ((((recorder s n).filter fun r => want ≤ r.seq).foldl (fun l r => insertRec r l) []).take 8).flatMap
    fun r => recordBytes r false

/-- The 16 bytes of a request body as received (R99). -/
def diagBytes (f : DiagFrame) : List Byte :=
  bytesOf 1 f.op ++ bytesOf 1 f.result ++ bytesOf 2 f.reserved ++ bytesOf 4 f.reqId ++ bytesOf 8 f.arg

/-! ### RELEASE_BINDING (R71) -/

/-- The request breaks Table SU-7A, or names another device, slot or operator. -/
def releaseBad (s : State) (f : DiagFrame) : Bool :=
  match f.release with
  | none => true
  | some d =>
    f.env.hdr.len.toNat != 3341 || 8 ≤ f.arg.toNat || f.reserved != 0 || d.reserved != 0 ||
      d.slot.toNat != f.arg.toNat || d.serial != s.sys.serial ||
      (match bindingNow s with
        | some (n, b) => d.operatorId != b.operatorId || d.slot.toNat != n
        | none => false)

/-- RELEASE_BINDING: the void fuse of the binding in force is programmed, or the request is turned away. -/
def releaseBinding (f : DiagFrame) (s : State) : Nat × State :=
  if releaseBad s f then (diagBadArg, s)
  else match bindingNow s with
    | none => (diagNotPermitted, s)
    | some (n, _) =>
      if 8 ≤ s.fuses.bindings.length || !(f.release.any (·.sigOk)) then (diagNotPermitted, s)
      else (diagOk, { s with fuses := { s.fuses with
        bindings := modNth s.fuses.bindings n fun b => { b with void := true } } })

/-! ### Requests -/

/-- Ops 0x01–0x05 (Table SU-12): the reply data. `n`: the recorder that RECORD_READ reads. -/
def diagData (s : State) (n : Nat) (f : DiagFrame) : List Byte :=
  let op := f.op.toNat
  if op = 1 then identifyData s
  else if op = 2 then stestBytes s
  else if op = 3 then recordData s n f.arg.toNat
  else if op = 4 then ((certChain s).drop f.arg.toNat).take 1024
  else bytesOf 64 s.sys.fwMeas ++ bytesOf 64 s.sys.cfgMeas

/-- A request with an op that the state does not answer: an error reply, counted (R82). -/
def diagUnknown (f : DiagFrame) (s : State) : State :=
  diagReply f diagUnknownOp [] { s with sys := { s.sys with diagUnknown := s.sys.diagUnknown + 1 } }

/-- First bad field of a DIAG frame: its header, or its reserved bytes (R11, R95). RELEASE_BINDING judges its own LEN and
reserved bytes (R71). -/
def diagHeaderBad (f : DiagFrame) : Option Nat :=
  let own := f.op.toNat = 6
  match headerBad 8 f.env.hdr (own || f.env.hdr.len.toNat = 16) with
  | some d => some d
  | none => if !own && f.reserved != 0 then some 0x22 else none

/-- The responder of LODESTONE takes raw frames to the factory MAC address, and UDP over IPv6 to the link-local address and port
47100 where DIAG_UDP is set, untagged or with one tag (R82). -/
def lodestoneTakes (s : State) (f : DiagFrame) : Bool :=
  (f.env.src.encap = .raw || (f.env.src.encap = .udp6 && s.sys.straps.getLsbD 3)) &&
    f.env.outer.tags.length ≤ 1 && outerTargetOk s f.env.link.val f.env.src.encap f.env.outer

/-- The responder's answer (Table SU-12). -/
def lodestoneAnswer (f : DiagFrame) (s : State) : State :=
  let op := f.op.toNat
  if 1 ≤ op && op ≤ 5 then diagReply f diagOk (diagData s 0xFFFE f) s
  else if op = 6 then
    let r := releaseBinding f s
    diagReply f r.1 [] r.2
  else diagUnknown f s

/-- A DIAG request in LODESTONE: up to 16 requests wait per port, further ones are dropped and counted in DIAG_DROPPED (R82). -/
def lodestoneDiag (f : DiagFrame) (s : State) : State :=
  let p := f.env.link.val / 8
  if !lodestoneTakes s f then silentDrop f.env.link.val s
  else if 16 ≤ nthNat s.sys.diagQueue p then
    { s with sys := { s.sys with stest := { s.sys.stest with diagDropped := s.sys.stest.diagDropped + 1 } } }
  else
    let s := { s with sys := { s.sys with diagQueue := modNth s.sys.diagQueue p (· + 1) } }
    match diagHeaderBad f with
    | some d => rejectNobody f.env (rejectEnv f.env 8 rjBadHeader d) s
    | none => lodestoneAnswer f s

/-- The answer in RUN (R99). LINK_STATUS returns ETH_LINKSTAT and a training state per lane, whose coding the spec does not
state: a free byte each (log entry 48). -/
def runAnswer (f : DiagFrame) (s : State) : State :=
  let op := f.op.toNat
  if 1 ≤ op && op ≤ 5 then diagReply f diagOk (diagData s 0xFFFF f) s
  else if op = 6 then diagReply f diagNotPermitted [] s
  else if op = 7 then diagReply f diagOk (diagBytes f) s
  else if op = 8 then
    let r := drawBytes 16 s
    diagReply f diagOk (leBytes 4 (s.eth.up + s.eth.wentDown * 2 ^ 16) ++ r.1) r.2
  else diagUnknown f s

/-- A DIAG request in RUN: answered only from a source bound to instance 0, else dropped silently (R99, R270). -/
def runDiag (f : DiagFrame) (s : State) : State :=
  if !outerOk s f.env then silentDrop f.env.link.val s
  else if !((inst? s 0).any fun x => x.params.sources.any (sourceMatch f.env.src)) then s
  else match diagHeaderBad f with
    | some d => refuseHeader f.env 8 d s
    | none => runAnswer f s

/-- A DIAG frame: no responder works during a start, a dump or SAFE. -/
def diagFrame (f : DiagFrame) (s : State) : State :=
  if s.sys.boot = .lodestone then lodestoneDiag f s
  else if s.sys.boot = .run then runDiag f s
  else s

end Sys2Proof.Machine
end

