-- ==== Sys2Proof/Machine/Events.lean ====
section
/-! DEFINITION. The commands that free or take what others wait for: up frames, timers, the answers of flash, lanes and
DRAM, the power manager's exits. Each ends with `settle`, in which everything that can now proceed does. -/

namespace Sys2Proof.Machine

open Sys2Proof

/-! ### What proceeds after a command -/

/-- Sets of programs whose dies have all ended or gone make their map update (R202). -/
def sweepProgs (s : State) : State :=
  (s.med.progs.filter fun p => ended p.2 && !s.jrn.waitingHwt.contains p.1).foldl (fun s p => progDone p.1 s) s

/-- Closed superblocks without live blocks are released for erase (R159, R261). -/
def releaseAll (s : State) : State :=
  (s.med.sbs.filter fun p => p.2.closed).foldl (fun s p => releaseSb p.1 s) s

/-- Media, flushes, the instances' orders and flow control proceed as far as they can. Nothing proceeds in a start, in
LODESTONE, SAFE, HALT or reset. -/
def settle (s : State) : State :=
  if s.sys.boot != .run && s.sys.boot != .dump then s
  else
    let s := zonesOffline (kickAll (placeWaiting (releaseAll (sweepProgs s))))
    flowControl 1 (flowControl 0 (driveAll (flushAll s)))

/-! ### Up frames -/

/-- READ (R133): a TASK frame arrives; its record gives the type and the operands. -/
def execRead (f : TaskFrame) (s : State) : Host.Outcome State Fault Refusal :=
  .next (settle (arrive (.read f) f.env (upFrame (.task f)) s))

/-- WRITE (R136): a TASK frame arrives; its record gives the type and the operands. -/
def execWrite (f : TaskFrame) (s : State) : Host.Outcome State Fault Refusal :=
  .next (settle (arrive (.write f) f.env (upFrame (.task f)) s))

/-- APPEND (R136, R157): a TASK frame arrives; its record gives the type and the operands. -/
def execAppend (f : TaskFrame) (s : State) : Host.Outcome State Fault Refusal :=
  .next (settle (arrive (.append f) f.env (upFrame (.task f)) s))

/-- ZONE_OPEN (R137): a TASK frame arrives; its record gives the type and the operands. -/
def execZoneOpen (f : TaskFrame) (s : State) : Host.Outcome State Fault Refusal :=
  .next (settle (arrive (.zoneOpen f) f.env (upFrame (.task f)) s))

/-- ZONE_CLOSE (R137): a TASK frame arrives; its record gives the type and the operands. -/
def execZoneClose (f : TaskFrame) (s : State) : Host.Outcome State Fault Refusal :=
  .next (settle (arrive (.zoneClose f) f.env (upFrame (.task f)) s))

/-- ZONE_FINISH (R137, R159): a TASK frame arrives; its record gives the type and the operands. -/
def execZoneFinish (f : TaskFrame) (s : State) : Host.Outcome State Fault Refusal :=
  .next (settle (arrive (.zoneFinish f) f.env (upFrame (.task f)) s))

/-- ZONE_RESET (R137, R159): a TASK frame arrives; its record gives the type and the operands. -/
def execZoneReset (f : TaskFrame) (s : State) : Host.Outcome State Fault Refusal :=
  .next (settle (arrive (.zoneReset f) f.env (upFrame (.task f)) s))

/-- ZONE_REPORT (R138): a TASK frame arrives; its record gives the type and the operands. -/
def execZoneReport (f : TaskFrame) (s : State) : Host.Outcome State Fault Refusal :=
  .next (settle (arrive (.zoneReport f) f.env (upFrame (.task f)) s))

/-- TXN_BEGIN (R183): a TASK frame arrives; its record gives the type and the operands. -/
def execTxnBegin (f : TaskFrame) (s : State) : Host.Outcome State Fault Refusal :=
  .next (settle (arrive (.txnBegin f) f.env (upFrame (.task f)) s))

/-- TXN_COMMIT (R139, R183): a TASK frame arrives; its record gives the type and the operands. -/
def execTxnCommit (f : TaskFrame) (s : State) : Host.Outcome State Fault Refusal :=
  .next (settle (arrive (.txnCommit f) f.env (upFrame (.task f)) s))

/-- TXN_ABORT (R140, R191): a TASK frame arrives; its record gives the type and the operands. -/
def execTxnAbort (f : TaskFrame) (s : State) : Host.Outcome State Fault Refusal :=
  .next (settle (arrive (.txnAbort f) f.env (upFrame (.task f)) s))

/-- ABORT (R142, R143): a TASK frame arrives; its record gives the type and the operands. -/
def execAbort (f : TaskFrame) (s : State) : Host.Outcome State Fault Refusal :=
  .next (settle (arrive (.abort f) f.env (upFrame (.task f)) s))

/-- FLUSH (R146): a TASK frame arrives; its record gives the type and the operands. -/
def execFlush (f : TaskFrame) (s : State) : Host.Outcome State Fault Refusal :=
  .next (settle (arrive (.flush f) f.env (upFrame (.task f)) s))

/-- IDENTIFY (R147): a TASK frame arrives; its record gives the type and the operands. -/
def execIdentify (f : TaskFrame) (s : State) : Host.Outcome State Fault Refusal :=
  .next (settle (arrive (.identify f) f.env (upFrame (.task f)) s))

/-- COUNTERS (R148): a TASK frame arrives; its record gives the type and the operands. -/
def execCounters (f : TaskFrame) (s : State) : Host.Outcome State Fault Refusal :=
  .next (settle (arrive (.counters f) f.env (upFrame (.task f)) s))

/-- MAILBOX_SEND (R149): a TASK frame arrives; its record gives the type and the operands. -/
def execMailboxSend (f : TaskFrame) (s : State) : Host.Outcome State Fault Refusal :=
  .next (settle (arrive (.mailboxSend f) f.env (upFrame (.task f)) s))

/-- MAILBOX_READ (R150): a TASK frame arrives; its record gives the type and the operands. -/
def execMailboxRead (f : TaskFrame) (s : State) : Host.Outcome State Fault Refusal :=
  .next (settle (arrive (.mailboxRead f) f.env (upFrame (.task f)) s))

/-- KEY_LOAD (R151, R152): a TASK frame arrives; its record gives the type and the operands. -/
def execKeyLoad (f : TaskFrame) (s : State) : Host.Outcome State Fault Refusal :=
  .next (settle (arrive (.keyLoad f) f.env (upFrame (.task f)) s))

/-- KEY_ERASE (R152, R308): a TASK frame arrives; its record gives the type and the operands. -/
def execKeyErase (f : TaskFrame) (s : State) : Host.Outcome State Fault Refusal :=
  .next (settle (arrive (.keyErase f) f.env (upFrame (.task f)) s))

/-- KEY_ROTATE (R151–R153): a TASK frame arrives; its record gives the type and the operands. -/
def execKeyRotate (f : TaskFrame) (s : State) : Host.Outcome State Fault Refusal :=
  .next (settle (arrive (.keyRotate f) f.env (upFrame (.task f)) s))

/-- DATA_FRAME (R102). -/
def execDataFrame (f : DataFrame) (s : State) : Host.Outcome State Fault Refusal :=
  .next (settle (arrive (.dataFrame f) f.env (upFrame (.data f)) s))

/-- REG_READ (R98): a MGMT request; its OP decides. -/
def execRegRead (f : MgmtFrame) (s : State) : Host.Outcome State Fault Refusal :=
  .next (settle (arrive (.regRead f) f.env (upFrame (.mgmt f)) s))

/-- REG_WRITE (R98): a MGMT request; its OP decides. -/
def execRegWrite (f : MgmtFrame) (s : State) : Host.Outcome State Fault Refusal :=
  .next (settle (arrive (.regWrite f) f.env (upFrame (.mgmt f)) s))

/-- ACK_FRAME (R105). -/
def execAckFrame (f : AckFrame) (s : State) : Host.Outcome State Fault Refusal :=
  .next (settle (arrive (.ackFrame f) f.env (ackFrame f) s))

/-- PROBE: an ACK frame with FLAGS.PROBE (R107). -/
def execProbe (f : AckFrame) (s : State) : Host.Outcome State Fault Refusal :=
  .next (settle (arrive (.probe f) f.env (ackFrame f) s))

/-- RESEND: an ACK frame with FLAGS.RESEND (R107). -/
def execResend (f : AckFrame) (s : State) : Host.Outcome State Fault Refusal :=
  .next (settle (arrive (.resend f) f.env (ackFrame f) s))

/-- A frame whose TYPE an up frame may not have, or no type at all (R95). -/
def execBadHeaderFrame (e : Env) (type : Byte) (s : State) : Host.Outcome State Fault Refusal :=
  .next (settle (arrive (.badHeaderFrame e type) e (badTypeFrame e type.toNat) s))

/-- IDENTIFY in LODESTONE: a DIAG request (R82, R429); its OP decides. -/
def execDiagIdentify (f : DiagFrame) (s : State) : Host.Outcome State Fault Refusal :=
  .next (settle (arrive (.diagIdentify f) f.env (diagFrame f) s))

/-- STEST_REPORT: a DIAG request (R82); its OP decides. -/
def execStestReport (f : DiagFrame) (s : State) : Host.Outcome State Fault Refusal :=
  .next (settle (arrive (.stestReport f) f.env (diagFrame f) s))

/-- RECORD_READ: a DIAG request (R82, R385); its OP decides. -/
def execRecordRead (f : DiagFrame) (s : State) : Host.Outcome State Fault Refusal :=
  .next (settle (arrive (.recordRead f) f.env (diagFrame f) s))

/-- CERT_READ: a DIAG request (R82, R318); its OP decides. -/
def execCertRead (f : DiagFrame) (s : State) : Host.Outcome State Fault Refusal :=
  .next (settle (arrive (.certRead f) f.env (diagFrame f) s))

/-- MEASURE: a DIAG request (R82); its OP decides. -/
def execMeasure (f : DiagFrame) (s : State) : Host.Outcome State Fault Refusal :=
  .next (settle (arrive (.measure f) f.env (diagFrame f) s))

/-- RELEASE_BINDING: a DIAG request (R71); its OP decides. -/
def execReleaseBinding (f : DiagFrame) (s : State) : Host.Outcome State Fault Refusal :=
  .next (settle (arrive (.releaseBinding f) f.env (diagFrame f) s))

/-- ECHO: a DIAG request (R99); its OP decides. -/
def execEcho (f : DiagFrame) (s : State) : Host.Outcome State Fault Refusal :=
  .next (settle (arrive (.echo f) f.env (diagFrame f) s))

/-- LINK_STATUS: a DIAG request (R99); its OP decides. -/
def execLinkStatus (f : DiagFrame) (s : State) : Host.Outcome State Fault Refusal :=
  .next (settle (arrive (.linkStatus f) f.env (diagFrame f) s))

/-- A frame without an ETP header arrives: in DOZE and STOW it takes a buffer of its half's hold list, or is dropped
where there is none (R398, R399). -/
def arriveBare (c : Instr) (l bytes : Nat) (k : State → State) (s : State) : State :=
  if !linkUp s l || s.sys.boot = .halt then s
  else
    let s := countIn l bytes s
    if !deep s then k s
    else match (s.pwr.holdLists.getD (l / 8) []).head? with
      | some b => holdLanding c (l / 8) b l s
      | none => silentDrop l s

/-- ARP_REQUEST (R91). -/
def execArpRequest (l : Fin 16) (target : BitVec 32) (vlan : Option U16) (src : Source) (s : State) :
    Host.Outcome State Fault Refusal :=
  .next (arriveBare (.arpRequest l target vlan src) l.val 64 (arpRequest l.val target vlan src) s)

/-- NEIGHBOR_SOLICITATION (R82, R91). -/
def execNeighborSolicitation (l : Fin 16) (target : BitVec 128) (vlan : Option U16) (src : Source) (s : State) :
    Host.Outcome State Fault Refusal :=
  .next (arriveBare (.neighborSolicitation l target vlan src) l.val 90 (neighborSolicitation l.val target vlan src) s)

/-! ### Timers and events of an instance -/

/-- ACK_DELAY_EXPIRY (R103). -/
def execAckDelayExpiry (i : Fin 1024) (s : State) : Host.Outcome State Fault Refusal := .next (settle (ackDelay i.val s))

/-- GAP_REQUEST_REPEAT (R103). -/
def execGapRequestRepeat (i : Fin 1024) (s : State) : Host.Outcome State Fault Refusal := .next (settle (gapRepeat i.val s))

/-- GAP_TIMEOUT (R104). -/
def execGapTimeout (i : Fin 1024) (s : State) : Host.Outcome State Fault Refusal := .next (settle (gapExpire i.val s))

/-- RETRANSMISSION_TIMEOUT (R106). -/
def execRetransmissionTimeout (i : Fin 1024) (s : State) : Host.Outcome State Fault Refusal :=
  .next (settle (rtoExpire i.val s))

/-- ACCEPTANCE_INSTANT (R130). -/
def execAcceptanceInstant (i : Fin 1024) (s : State) : Host.Outcome State Fault Refusal := .next (settle (acceptFront i.val s))

/-- TWIN_WAIT_TIMEOUT (R173). -/
def execTwinWaitTimeout (i : Fin 1024) (s : State) : Host.Outcome State Fault Refusal := .next (settle (twinTimeout i.val s))

/-- KEY_UNWRAP_COMPLETE (R152). -/
def execKeyUnwrapComplete (i : Fin 1024) (s : State) : Host.Outcome State Fault Refusal :=
  .next (settle (unwrapDone i.val s))

/-- The timeout of a transaction: a device abort with CAUSE 2, where it is still OPEN (R192). -/
def txnExpire (i txn : Nat) (s : State) : State :=
  match s.jrn.descs.find? fun p => p.2.inst = i && p.2.txnId = txn && p.2.state = .opened with
  | some p => deviceAbort p.1 2 s
  | none => s

/-- TXN_TIMEOUT (R192). -/
def execTxnTimeout (i : Fin 1024) (txnId : U16) (s : State) : Host.Outcome State Fault Refusal :=
  .next (settle (txnExpire i.val txnId.toNat s))

/-- JOURNAL_PAGE_PROGRAMMED (R196, R197). -/
def execJournalPageProgrammed (s : State) : Host.Outcome State Fault Refusal := .next (settle (pageDone s))

/-- CIPHER_BLOCK_COMPLETE (R309, R310). -/
def execCipherBlockComplete (i : Fin 1024) (slot : Fin 256) (blk : Fin 256) (o : LaneOutcome) (s : State) :
    Host.Outcome State Fault Refusal :=
  .next (settle (laneDone i.val slot.val blk.val o s))

/-- HWT_LOCK_RELEASE (R202). -/
def execHwtLockRelease (line : U64) (s : State) : Host.Outcome State Fault Refusal :=
  .next (settle (hwtRelease line.toNat s))

/-- COMMIT_MARK_PROGRAMMED (R289, R290). -/
def execCommitMarkProgrammed (copyA copyB : Bool) (s : State) : Host.Outcome State Fault Refusal :=
  .next (settle (commitMark copyA copyB s))

/-! ### Answers of flash and fault lines -/

/-- NAND_READ_COMPLETE (R247, R249). -/
def execNandReadComplete (die : Fin 4096) (plane : Fin 4) (o : ReadOutcome) (s : State) :
    Host.Outcome State Fault Refusal :=
  .next (settle (nandReadCompleteEffect die plane o s))

/-- NAND_PROGRAM_COMPLETE (R202, R256). -/
def execNandProgramComplete (die : Fin 4096) (pass : Bool) (s : State) : Host.Outcome State Fault Refusal :=
  .next (settle (nandProgramCompleteEffect die pass s))

/-- NAND_ERASE_COMPLETE (R254, R256). -/
def execNandEraseComplete (die : Fin 4096) (pass : Bool) (s : State) : Host.Outcome State Fault Refusal :=
  .next (settle (nandEraseCompleteEffect die pass s))

/-- OPERATION_LIMIT (R255). -/
def execOperationLimit (die : Fin 4096) (s : State) : Host.Outcome State Fault Refusal :=
  .next (settle (operationLimitEffect die s))

/-- DIE_RESET_ANSWERED (R255). -/
def execDieResetAnswered (die : Fin 4096) (s : State) : Host.Outcome State Fault Refusal :=
  .next (settle (dieResetAnsweredEffect die s))

/-- DIE_RESET_TIMEOUT (R255). -/
def execDieResetTimeout (die : Fin 4096) (s : State) : Host.Outcome State Fault Refusal :=
  .next (settle (dieResetTimeoutEffect die s))

/-- DIE_SUSPENDED (R221, R222). -/
def execDieSuspended (die : Fin 4096) (s : State) : Host.Outcome State Fault Refusal :=
  .next (settle (dieSuspendedEffect die s))

/-- SUSPENSION_TIMEOUT (R225). -/
def execSuspensionTimeout (die : Fin 4096) (s : State) : Host.Outcome State Fault Refusal :=
  .next (settle (suspensionTimeoutEffect die s))

/-- SUSPENSION_CAP_REACHED (R224). -/
def execSuspensionCapReached (die : Fin 4096) (s : State) : Host.Outcome State Fault Refusal :=
  .next (settle (suspensionCapReachedEffect die s))

/-- STAGING_EXTENT_TIMEOUT (R245). -/
def execStagingExtentTimeout (i : Fin 1024) (zone : U32) (s : State) : Host.Outcome State Fault Refusal :=
  .next (settle (stagingExtentTimeoutEffect i zone s))

/-- PATROL_SCRUB (R264, R265). -/
def execPatrolScrub (i : Fin 1024) (conv : Bool) (addr : U64) (o : ScrubOutcome) (s : State) :
    Host.Outcome State Fault Refusal :=
  .next (settle (patrolScrubEffect i conv addr o s))

/-- REBUILD_COMPLETE (R29, R258). -/
def execRebuildComplete (die : Fin 4096) (s : State) : Host.Outcome State Fault Refusal :=
  .next (settle (rebuildCompleteEffect die s))

/-- HANDSHAKE_TIMEOUT (R19, R373, Table LT-7). -/
def execHandshakeTimeout (src : Fin 384) (stage : U64) (master : Byte) (s : State) :
    Host.Outcome State Fault Refusal :=
  .next (settle (handshakeTimeoutEffect src stage master s))

/-- FAULT_LINE_ERROR (R372). -/
def execFaultLineError (src : Fin 384) (addr : U64) (master : Byte) (access : BitVec 4) (s : State) :
    Host.Outcome State Fault Refusal :=
  .next (settle (faultLineErrorEffect src addr master access s))

/-- LINE_BROKEN. -/
def execLineBroken (src : Fin 384) (s : State) : Host.Outcome State Fault Refusal :=
  .next (settle (lineBrokenEffect src s))

/-- FAULT_INJECTION (R373). -/
def execFaultInjection (v : U32) (s : State) : Host.Outcome State Fault Refusal :=
  .next (settle (faultInjectionEffect v s))

/-- CAPTURE_WINDOW_CLOSE (R374–R376). -/
def execCaptureWindowClose (s : State) : Host.Outcome State Fault Refusal :=
  .next (settle (captureWindowCloseEffect s))

/-- PREPARE (R396–R400). -/
def execPrepare (o : PrepareOutcome) (s : State) : Host.Outcome State Fault Refusal :=
  .next (settle (prepareEffect o s))

/-- TRAINING_GATHER: a drift past DMC_TRAIN.DRIFT repeats steps 4–6; a failing margin check (step 7) loses the channel
(R326). -/
def execTrainingGather (ch : Fin 24) (drift : Nat) (marginOk : Bool) (s : State) : Host.Outcome State Fault Refusal :=
  .next (settle (
    if drift ≤ s.dmc.drift || marginOk then s
    else loseDram ch.val 10 0xFF 0 (modCh ch.val (fun c => { c with failStep := 7 }) s)))

/-- DRAM_UNCORRECTABLE_READ: a word of a half, read by a requestor port or the scrubber (R332, R335–R339). -/
def execDramUncorrectableRead (half : Fin 2) (addr : U64) (port : Fin 8) (otherOk corr : Bool) (s : State) :
    Host.Outcome State Fault Refusal :=
  .next (settle (uncorrectable half.val addr.toNat port.val otherOk corr s))

/-- PWR_REQ_RUN: a write of PWR_REQ (R393, R401). -/
def execPwrReqRun (v : U32) (s : State) : Host.Outcome State Fault Refusal := .next (settle (pwrReq v.toNat s))

/-- PWR_REQ_TRIM: a write of PWR_REQ (R393, R401). -/
def execPwrReqTrim (v : U32) (s : State) : Host.Outcome State Fault Refusal := .next (settle (pwrReq v.toNat s))

/-- PWR_REQ_DOZE: a write of PWR_REQ (R393, R401). -/
def execPwrReqDoze (v : U32) (s : State) : Host.Outcome State Fault Refusal := .next (settle (pwrReq v.toNat s))

/-- PWR_REQ_STOW: a write of PWR_REQ (R393, R401). -/
def execPwrReqStow (v : U32) (s : State) : Host.Outcome State Fault Refusal := .next (settle (pwrReq v.toNat s))

/-! ### Exits of DOZE and STOW -/

/-- FRAME_WAKE: a frame landed in DOZE or STOW on a link that is up wakes the device (R398). -/
def execFrameWake (l : Fin 16) (s : State) : Host.Outcome State Fault Refusal :=
  .next (if linkUp s l.val && s.sys.boot != .halt then wake 8 l.val s else s)

/-- A frame that was landed is processed as one that arrives in RUN, without counting it again (R398). -/
def processLanded (c : Instr) (s : State) : State :=
  match c with
  | .read f => upFrame (.task f) s
  | .write f => upFrame (.task f) s
  | .append f => upFrame (.task f) s
  | .zoneOpen f => upFrame (.task f) s
  | .zoneClose f => upFrame (.task f) s
  | .zoneFinish f => upFrame (.task f) s
  | .zoneReset f => upFrame (.task f) s
  | .zoneReport f => upFrame (.task f) s
  | .txnBegin f => upFrame (.task f) s
  | .txnCommit f => upFrame (.task f) s
  | .txnAbort f => upFrame (.task f) s
  | .abort f => upFrame (.task f) s
  | .flush f => upFrame (.task f) s
  | .identify f => upFrame (.task f) s
  | .counters f => upFrame (.task f) s
  | .mailboxSend f => upFrame (.task f) s
  | .mailboxRead f => upFrame (.task f) s
  | .keyLoad f => upFrame (.task f) s
  | .keyErase f => upFrame (.task f) s
  | .keyRotate f => upFrame (.task f) s
  | .dataFrame f => upFrame (.data f) s
  | .regRead f => upFrame (.mgmt f) s
  | .regWrite f => upFrame (.mgmt f) s
  | .ackFrame f => ackFrame f s
  | .probe f => ackFrame f s
  | .resend f => ackFrame f s
  | .badHeaderFrame e type => badTypeFrame e type.toNat s
  | .arpRequest l target vlan src => arpRequest l.val target vlan src s
  | .neighborSolicitation l target vlan src => neighborSolicitation l.val target vlan src s
  | .diagIdentify f => diagFrame f s
  | .stestReport f => diagFrame f s
  | .recordRead f => diagFrame f s
  | .certRead f => diagFrame f s
  | .measure f => diagFrame f s
  | .releaseBinding f => diagFrame f s
  | .echo f => diagFrame f s
  | .linkStatus f => diagFrame f s
  | _ => s

/-- A frame of which only the header was kept is refused with NO_BUFFER (R399). The ACK field of a valid one is processed first:
only DIAG frames have none (R105). -/
def refuseKept (p : Env × Nat) (s : State) : State :=
  let e := p.1
  let i := e.hdr.inst.toNat
  match namedInst s e with
  | some x =>
    if sourceOk i x p.2 e && (headerBad p.2 e.hdr true).isNone && p.2 != 8 then
      refuse i e p.2 rjNoBuffer 0 (takeAck i e p.2 (markValid i e s))
    else sendRejectTo e (rejectEnv e p.2 rjNoBuffer 0) s
  | none => sendRejectTo e (rejectEnv e p.2 rjNoBuffer 0) s

/-- The landed frames pass to the transport engine in arrival order, each with its buffer, which is the first that its landing
takes again; then each kept frame is refused (R399). -/
def processHeld (s : State) : State :=
  let landed := s.pwr.landed
  let kept := s.pwr.keptHdrs
  let s := landed.foldl (fun s c => processLanded c.1 (decRef c.2.1 c.2.2 c.2.1 s)) { s with pwr := { s.pwr with landed := [], keptHdrs := [] } }
  kept.foldl (fun s p => refuseKept p s) s

/-- EXIT_COMPLETE: the domains are restored, the pads released and the frames held processed (R398–R400). -/
def execExitComplete (s : State) : Host.Outcome State Fault Refusal :=
  .next (if 2 ≤ s.pwr.state && s.pwr.phase = 5 then settle (processHeld (leaveDeep s)) else s)

end Sys2Proof.Machine
end

