-- ==== Sys2Proof/Machine/Image.lean ====
section
/-! DEFINITION. The configuration image: the checks of Table SU-7 on a slot, the values of the body entries (R67, R94,
R174, R239, R296, R322, R383, R391, R409, R410) and the choice between the slots (R64, R68). -/

namespace Sys2Proof.Machine

open Sys2Proof

/-- A number lies in a range. -/
def within (lo x hi : Nat) : Bool := lo ≤ x && x ≤ hi

/-! ### The bytes of a slot (Tables SU-4 to SU-6) -/

/-- The little-endian number in `n` bytes at an offset (R4, R5); bytes that are not listed are 0. -/
def numAt (l : List Byte) (off n : Nat) : Nat := ofLeBytes ((l.drop off).take n)

/-- The address in `n` bytes at an offset, in the order of the wire (R4). -/
def addrAt (l : List Byte) (off n : Nat) : Nat := ofBeBytes ((l.drop off).take n)

/-- `n` bytes at an offset are 0. -/
def zeroAt (l : List Byte) (off n : Nat) : Bool := numAt l off n = 0

/-- A signed byte. -/
def signedByte (x : Nat) : Int := (BitVec.ofNat 8 x).toInt

/-- LINK[n] of the PORTS entry (Table TP-3). -/
def linkAt (v : List Byte) (n : Nat) : LinkAddr :=
  let o := 0x10 + 32 * n
  { mac := BitVec.ofNat 48 (addrAt v o 6), ip4 := BitVec.ofNat 32 (addrAt v (o + 8) 4)
    ip6 := BitVec.ofNat 128 (addrAt v (o + 12) 16) }

/-- The PORTS entry (Table TP-3); lane l of port p has bit 8p + l of TXPOL and RXPOL. -/
def portsAt (v : List Byte) : PortsEntry :=
  { mode0 := BitVec.ofNat 8 (numAt v 0 1), mode1 := BitVec.ofNat 8 (numAt v 1 1)
    txpol := BitVec.ofNat 16 (numAt v 2 1 + 256 * numAt v 4 1), rxpol := BitVec.ofNat 16 (numAt v 3 1 + 256 * numAt v 5 1)
    udpPort := BitVec.ofNat 16 (numAt v 6 2), vlan := BitVec.ofNat 16 (numAt v 8 2), pfc := BitVec.ofNat 8 (numAt v 10 1)
    encap := BitVec.ofNat 8 (numAt v 11 1), links := (List.range 16).map (linkAt v) }

/-- The SENSORS entry (Table PW-9). -/
def sensorsAt (v : List Byte) : SensorsEntry :=
  { policy := numAt v 0 1, margin := numAt v 1 1, limits := (List.range 12).map fun n => numAt v (4 + n) 1
    inputs := (List.range 24).map fun n =>
      let o := 0x10 + 4 * n
      { type := numAt v o 1, param := numAt v (o + 1) 2, offset := signedByte (numAt v (o + 3) 1) } }

/-- The MEDIA_PROFILE entry (Table MD-3). -/
def profileAt (v : List Byte) : MediaProfile :=
  { profileId := numAt v 0 4, cell := numAt v 4 1, planes := numAt v 5 1, pflags := numAt v 6 1, slcPct := numAt v 7 1
    pages := numAt v 8 2, blocks := numAt v 0x0A 2, pageRaw := numAt v 0x0C 2, spareBlocks := numAt v 0x0E 2
    tReadUs := numAt v 0x10 2, tSuspUs := numAt v 0x12 2, tProgSlcUs := numAt v 0x14 2, tProgUs := numAt v 0x16 2
    tEraseUs := numAt v 0x18 2, limitPct := numAt v 0x1A 2, endurance := numAt v 0x1C 2, rateMts := numAt v 0x1E 2
    softStages := numAt v 0x20 1, refreshBits := numAt v 0x21 1, suspOp := BitVec.ofNat 8 (numAt v 0x22 1)
    resumeOp := BitVec.ofNat 8 (numAt v 0x23 1), offsetFa := BitVec.ofNat 8 (numAt v 0x24 1), retrySteps := numAt v 0x25 1
    retryTable := BitVec.ofNat 256 (numAt v 0x28 32), pagePrefix := BitVec.ofNat 128 (numAt v 0x48 16) }

/-- The DRAM entry (Table MM-1). -/
def dramAt (v : List Byte) : DramEntry :=
  { org := numAt v 0 1, ranks := numAt v 1 1, dieGbit := numAt v 2 1, sp0 := numAt v 4 2, sp1 := numAt v 6 2
    drive := BitVec.ofNat 8 (numAt v 8 1), odt := BitVec.ofNat 8 (numAt v 9 1) }

/-- The reserved bytes of an entry's value are 0. -/
def reservedAt (type : Nat) (v : List Byte) : Bool :=
  match type with
  | 1 => zeroAt v 0x0C 4 && (List.range 16).all fun n => zeroAt v (0x16 + 32 * n) 2 && zeroAt v (0x2C + 32 * n) 4
  | 2 => zeroAt v 2 2
  | 3 => zeroAt v 4 4
  | 4 => zeroAt v 0x26 2 && zeroAt v 0x58 40
  | 5 => zeroAt v 3 1 && zeroAt v 0x0A 6
  | 6 => zeroAt v 6 2
  | 7 => zeroAt v 3 5
  | 8 => zeroAt v 0x0B 5
  | 9 => zeroAt v 6 2
  | _ => true

/-- The value of an entry of a TYPE (Table SU-6). -/
def valueAt (type : Nat) (v : List Byte) : EntryValue :=
  match type with
  | 1 => .ports (portsAt v)
  | 2 => .sensors (sensorsAt v)
  | 3 => .twin (numAt v 0 4)
  | 4 => .mediaProfile (profileAt v)
  | 5 => .dram (dramAt v)
  | 6 => if v.length = 8 + numAt v 4 2 then .managerKey (numAt v 0 4) (v.drop 8) else .other
  | 7 => .recorder (numAt v 0 2) (numAt v 2 1)
  | 8 => .faultLimits (numAt v 0 4) (numAt v 4 4) (numAt v 8 2) (numAt v 0x0A 1)
  | 9 => .power (numAt v 0 1) (numAt v 1 1) (numAt v 2 2) (numAt v 4 2)
  | _ => .other

/-- The entries of a body (R67): TYPE, LEN, the value and its padding, until the body ends; an entry that the body cuts
short is none. `n` bounds the entries. -/
def entriesAt : Nat → List Byte → List Entry
  | 0, _ => []
  | n + 1, l =>
    let type := numAt l 0 2
    let len := numAt l 2 2
    let padded := (len + 3) / 4 * 4
    if l.length < 4 + padded then []
    else
      let v := (l.drop 4).take len
      { type := type, len := len, reservedZero := reservedAt type v && zeroAt l (4 + len) (padded - len)
        value := valueAt type v } :: entriesAt n (l.drop (4 + padded))

/-- The image that a slot holds (Tables SU-4, SU-5). The certificate's Pad and the bytes between the body and SIG_OFFSET
are no reserved fields of check 1 or 3 (log entry 107). -/
def imageOf (n : NorSlot) : Image :=
  let u := numAt n.bytes
  let cert := n.bytes.drop (u 0x10 4)
  let bodyOffset := u 0x18 4
  let bodyLen := u 0x1C 4
  { bytes := n.bytes, magic := BitVec.ofNat 32 (u 0 4), format := BitVec.ofNat 16 (u 4 2), hdrLen := BitVec.ofNat 16 (u 6 2)
    version := BitVec.ofNat 32 (u 8 4), totalLen := u 0x0C 4, certOffset := u 0x10 4, certLen := u 0x14 4
    bodyOffset := bodyOffset, bodyLen := bodyLen, sigOffset := u 0x20 4
    reservedZero := u 0x2C 4 < 4 && zeroAt n.bytes 0x78 136
    operatorId := BitVec.ofNat 32 (u 0x24 4), minFw := u 0x28 4, formatAllowed := bit (u 0x2C 4) 0
    serialBound := bit (u 0x2C 4) 1, deviceSerial := BitVec.ofNat 64 (u 0x30 8)
    certMagic := BitVec.ofNat 32 (numAt cert 0 4), certOperatorId := BitVec.ofNat 32 (numAt cert 4 4)
    keyVersion := numAt cert 8 4, certReservedZero := zeroAt cert 0x0C 4, poltasSigOk := n.poltasSigOk, sigOk := n.sigOk
    bodyHash := BitVec.ofNat 512 (u 0x38 64)
    entries := entriesAt (bodyLen / 4) ((n.bytes.drop bodyOffset).take bodyLen) }

/-- BODY_HASH equals SHAKE256 of the body (check 7 of Table SU-7). -/
def bodyHashOk (im : Image) : Bool :=
  im.bodyHash = BitVec.ofNat 512 (ofLeBytes (shake256 ((im.bytes.drop im.bodyOffset).take im.bodyLen) 64))

/-- SHAKE256 over bytes 0 to TOTAL_LEN − 1 of an image (R69). -/
def imageMeasure (im : Image) : BitVec 512 := BitVec.ofNat 512 (ofLeBytes (shake256 (im.bytes.take im.totalLen) 64))

/-! ### Values of the entries (check 8) -/

/-- Links that a mode of Table TP-1 gives a port. -/
def modeLinks (port mode : Nat) : List Nat :=
  if mode = 0 then [8 * port]
  else if mode = 1 then [8 * port, 8 * port + 4]
  else if mode = 2 then [8 * port, 8 * port + 2, 8 * port + 4, 8 * port + 6]
  else portLinks port

/-- PORTMODE of the straps; the reserved values count as 0 (R38). -/
def strapMode (straps : Byte) : Nat :=
  let m := bits straps.toNat 0 3
  if m < 4 then m else 0

/-- A mode byte of the PORTS entry: 0–3, or 0xFF for the strap's. -/
def entryMode (straps b : Byte) : Nat := if b = 0xFF then strapMode straps else b.toNat

/-- A MAC address that a used link may have: neither multicast nor all-zero; all ones takes the factory address. -/
def macOk (m : BitVec 48) : Bool := m = BitVec.allOnes 48 || (m != 0 && !m.getLsbD 40)

/-- No value stands twice in a list. -/
def distinctNat : List Nat → Bool
  | [] => true
  | x :: l => !l.contains x && distinctNat l

/-- R94. Addresses are compared over the links in use; an IP address of 0 is none (log entry 34). -/
def portsOk (s : State) (straps : Byte) (p : PortsEntry) : Bool :=
  let used := modeLinks 0 (entryMode straps p.mode0) ++ modeLinks 1 (entryMode straps p.mode1)
  let addrs := used.filterMap fun l => (p.links[l]?).map fun a => (l, a)
  (p.mode0.toNat < 4 || p.mode0 = 0xFF) && (p.mode1.toNat < 4 || p.mode1 = 0xFF) && p.links.length = 16 &&
    addrs.all (fun a => macOk a.2.mac) &&
    distinctNat (addrs.map fun a => (entryMac s a.1 a.2).toNat) &&
    distinctNat ((addrs.map fun a => a.2.ip4.toNat).filter (· != 0)) &&
    distinctNat ((addrs.map fun a => a.2.ip6.toNat).filter (· != 0)) &&
    p.vlan.toNat ≤ 4094 && (!p.pfc.getLsbD 0 || p.vlan.toNat != 0) && p.pfc.toNat < 16 &&
    p.encap.toNat % 8 != 0 && p.encap.toNat < 8

/-- Four limits of a group, ascending by at least 2 °C. -/
def limitsOk : List Nat → Bool
  | a :: b :: c :: d :: l =>
    [a, b, c, d].all (within 40 · 150) && a + 2 ≤ b && b + 2 ≤ c && c + 2 ≤ d && limitsOk l
  | [] => true
  | _ => false

/-- An input of the SENSORS entry; PARAM of an unused input is not judged. -/
def inputOk (i : SensorInput) : Bool :=
  (i.type = 0 || (i.type = 1 && within 9900 i.param 10200) || (i.type = 2 && within 3000 i.param 4500)) &&
    decide (-128 ≤ i.offset) && decide (i.offset ≤ 127)

/-- R409. An input's neighbours for the cross-check lie in its own group (R406), so none names another group. -/
def sensorsOk (e : SensorsEntry) : Bool :=
  e.policy ≤ 1 && e.margin ≤ 20 && e.limits.length = 12 && limitsOk e.limits && e.inputs.length = 24 &&
    e.inputs.all inputOk

/-- Table MD-3. -/
def profileOk (p : MediaProfile) : Bool :=
  (p.cell = 3 || p.cell = 4) && [1, 2, 4].contains p.planes && p.pflags ≤ 1 && within 1 p.slcPct 8 &&
    within 256 p.pages 4096 && p.pages % p.cell = 0 && within 512 p.blocks 8192 && within 17920 p.pageRaw 20480 &&
    p.pageRaw % 32 = 0 && within 16 p.spareBlocks 256 && within 10 p.tReadUs 200 && within 1 p.tSuspUs 15 &&
    within 50 p.tProgSlcUs 1000 && within 500 p.tProgUs 10000 && within 1000 p.tEraseUs 30000 &&
    within 150 p.limitPct 1000 && within 100 p.endurance 60000 && [2400, 2800, 3200, 3600].contains p.rateMts &&
    p.softStages ≤ 2 && within 8 p.refreshBits 255 && within 1 p.retrySteps 16

/-- R321, R322. -/
def dramOk (d : DramEntry) : Bool :=
  (d.org = 1 || d.org = 2) && (d.ranks = 1 || d.ranks = 2) && [8, 12, 16, 24, 32].contains d.dieGbit &&
    (d.sp0 = 3200 || d.sp0 = 4267) && (d.sp1 = 6400 || d.sp1 = 7500 || d.sp1 = 8533) && within 4 (dramGib d) 16

/-- The value of an entry passes the checks of its own chapter. An entry whose TYPE Table SU-6 does not list fails them
(DESIGN CHOICE: the spec does not say whether an unknown TYPE is refused or skipped; log entry 108). -/
def valueOk (s : State) (straps : Byte) (operator : U32) (e : Entry) : Bool :=
  match e.value with
  | .ports v => e.type = 1 && e.len = 528 && portsOk s straps v
  | .sensors v => e.type = 2 && e.len = 112 && sensorsOk v
  | .twin mib => e.type = 3 && e.len = 8 && dirtyOk { s with sys := { s.sys with straps := straps } } mib
  | .mediaProfile v => e.type = 4 && e.len = 128 && profileOk v
  | .dram v => e.type = 5 && e.len = 16 && dramOk v
  | .managerKey serial w =>
    e.type = 6 && e.len = 8 + w.length && serial != 0 && within 40 w.length 512 && w.length % 8 = 0 &&
      (match unwrap (dtkOf operator) w with
       | .ok _ => true
       | _ => false)
  | .recorder size en => e.type = 7 && e.len = 8 && within 1 size 256 && en ≤ 1
  | .faultLimits miss win rep cap =>
    e.type = 8 && e.len = 16 && miss ≤ 65535 && within 16 win 60000 && within 1 rep 65535 && within 1 cap 4
  | .power permit en ms t =>
    e.type = 9 && e.len = 8 && permit < 8 && en ≤ 1 && (en = 0 || permit.testBit 1) && within 1 ms 30000 &&
      within 1 t 1000
  | .other => false

/-- Entries in ascending TYPE, each at most once. -/
def ascending : List Entry → Bool
  | a :: b :: l => a.type < b.type && ascending (b :: l)
  | _ => true

/-- Bytes of the entries in the body: TYPE, LEN and the value padded to a multiple of 4 (R67). -/
def entriesLen (l : List Entry) : Nat := sumNat (l.map fun e => 4 + (e.len + 3) / 4 * 4)

/-- Check 8 of Table SU-7 (R67). -/
def entriesOk (s : State) (straps : Byte) (im : Image) : Bool :=
  ascending im.entries && (List.range 6).all (fun t => im.entries.any fun e => e.type = t + 1) &&
    im.bodyLen = entriesLen im.entries &&
    im.entries.all fun e => e.reservedZero && valueOk s straps im.operatorId e

/-! ### The checks of Table SU-7 -/

/-- Check 1 on the header (R66). -/
def headerOk (im : Image) : Bool :=
  im.magic = 0x435A5445 && im.format = 1 && im.hdrLen = 0x100 && im.certOffset = 0x100 && im.certLen = 0x1500 &&
    im.bodyOffset = 0x1600 && im.bodyLen % 4 = 0 && im.sigOffset = (im.bodyOffset + im.bodyLen + 15) / 16 * 16 &&
    im.totalLen = im.sigOffset + 3309 && im.totalLen ≤ 8 * 2 ^ 20 && im.reservedZero &&
    (im.serialBound || im.deviceSerial = 0)

/-- The first check that a slot's image fails, 0 where it is valid (R68). `fws`: FW_VERSION of the running bank and of
the other bank where that has not failed at this start (R63). -/
def failingCheck (s : State) (straps : Byte) (fws : List Nat) (im : Image) : Nat :=
  let b := bindingNow s
  if !headerOk im then 1
  else if im.serialBound && im.deviceSerial != s.sys.serial then 2
  else if !(im.certMagic = 0x4B504F45 && im.certOperatorId != 0 && im.certOperatorId != 0xFFFFFFFF &&
      within 1 im.keyVersion 64 && im.certReservedZero && im.poltasSigOk) then 3
  else if im.operatorId != im.certOperatorId || (match b with
      | some p => p.2.operatorId != im.operatorId
      | none => 8 ≤ s.fuses.bindings.length) then 4
  else if (match b with
      | some p => decide (im.keyVersion < p.2.floor)
      | none => false) then 5
  else if !im.sigOk then 6
  else if !bodyHashOk im then 7
  else if !entriesOk s straps im then 8
  else if !fws.any (im.minFw ≤ ·) then 9
  else 0

/-- The reason of Table SU-7 for a failing check. BINDINGS_EXHAUSTED where no blank slot remains for a first binding. -/
def checkReason (s : State) (im : Image) (check : Nat) : Reason :=
  if check = 4 then
    (if im.operatorId = im.certOperatorId && (bindingNow s).isNone then .bindingsExhausted else .operator)
  else if check = 5 then .keyVersion
  else if check = 9 then .fwTooOld
  else .noImage

/-- What step 7 finds: the slot in use with the check the other one failed where it was read first, or each slot's
failing check and the reason (R64, R68). -/
inductive Chosen where
  | slot (n : Nat) (im : Image) (firstFailed : Option Nat)
  | neither (checkA checkB : Nat) (version : Nat) (reason : Reason)
deriving DecidableEq, Repr

/-- The NOR answers SFDP with a density of 64–512 MiB (R65). -/
def norOk (n : Nor) : Bool := n.sfdpOk && within 64 n.densityMib 512

/-- The slot that is read first: the one with the higher IMAGE_VERSION, slot A where they are equal (R64). -/
def firstSlot (a b : Image) : Nat := if a.version.toNat < b.version.toNat then 1 else 0

/-- The choice of R64 and R68. -/
def chooseSlot (s : State) (straps : Byte) (fws : List Nat) (n : Nor) : Chosen :=
  let imA := imageOf n.slotA
  let imB := imageOf n.slotB
  if !norOk n then .neither 1 1 0 .noImage
  else
    let a := failingCheck s straps fws imA
    let b := failingCheck s straps fws imB
    if firstSlot imA imB = 1 then
      (if b = 0 then .slot 1 imB none
       else if a = 0 then .slot 0 imA (some b)
       else if a = 1 && b = 1 then .neither a b 0 .noImage
       else .neither a b imB.version.toNat (checkReason s imB b))
    else
      (if a = 0 then .slot 0 imA none
       else if b = 0 then .slot 1 imB (some a)
       else if a = 1 && b = 1 then .neither a b 0 .noImage
       else .neither a b imA.version.toNat (checkReason s imA a))

/-- The slots whose rest step 7 reads, in order: the first one, and the other where the first fails; of a slot whose
header fails check 1 only the header is read, and of a NOR that does not answer nothing (R64, R65). -/
def slotsRead (s : State) (straps : Byte) (fws : List Nat) (n : Nor) : List Nat :=
  let im := fun (k : Nat) => imageOf (if k = 1 then n.slotB else n.slotA)
  let first := firstSlot (im 0) (im 1)
  if !norOk n then []
  else ((if failingCheck s straps fws (im first) = 0 then [first] else [first, 1 - first]).filter fun k => headerOk (im k))

/-- A slot that passed checks 1–7: its TXPOL serves the transmitters in LODESTONE (R81). -/
def passedSeven (check : Nat) : Bool := check = 0 || 8 ≤ check

/-- TXPOL of the PORTS entry of an image. -/
def txpolOf (im : Image) : Option U16 :=
  im.entries.findSome? fun e => match e.value with
    | .ports v => some v.txpol
    | _ => none

/-- TXPOL that serves LODESTONE: of the slot read first that passed checks 1–7 at this start and has a PORTS entry; of
two such slots the one read first (R81, log entry 109). -/
def startTxpol (s : State) (straps : Byte) (fws : List Nat) (n : Nor) : Option U16 :=
  (slotsRead s straps fws n).findSome? fun k =>
    let im := imageOf (if k = 1 then n.slotB else n.slotA)
    if passedSeven (failingCheck s straps fws im) then txpolOf im else none

/-! ### Settings of the running image -/

/-- The settings that one entry gives. -/
def applyEntry (g : Settings) (e : Entry) : Settings :=
  match e.value with
  | .ports v => { g with ports := v }
  | .sensors v => { g with sensors := v }
  | .twin mib => { g with dirtyMib := mib }
  | .mediaProfile v => { g with profile := v }
  | .dram v => { g with dram := v }
  | .managerKey _ _ => g
  | .recorder size en => { g with devSizeMib := size, instEnable := en = 1 }
  | .faultLimits miss win rep cap =>
    { g with missLimit := miss, missWindowMs := win, repeatLimit := rep, capmin := cap }
  | .power permit en ms t => { g with permit := permit, idleEn := en = 1, idleMs := ms, timerS := t }
  | .other => g

/-- The settings of an image; an absent optional entry leaves its defaults (R383, R391, R410). -/
def settingsOf (im : Image) : Settings :=
  let g := im.entries.foldl applyEntry coldSettings
  { g with version := im.version.toNat, operatorId := im.operatorId, minFw := im.minFw
           formatAllowed := im.formatAllowed }

/-- MANAGER_KEY of an image: its serial and the wrapped key. -/
def managerKeyOf (im : Image) : Option (Nat × List Byte) :=
  im.entries.findSome? fun e => match e.value with
    | .managerKey serial w => some (serial, w)
    | _ => none

end Sys2Proof.Machine
end

