-- ==== Sys2Proof/Machine/Starts.lean ====
section
/-! DEFINITION. Starts: what each kind keeps (Table SU-14), the steps of the cold start (Table SU-1) with the self-tests of
Table SU-2, and LODESTONE (R80). -/

namespace Sys2Proof.Machine

open Sys2Proof

/-! ### What a start keeps (R83, Table SU-14) -/

/-- The registers of the media manager at their cold values; the block, die-set and superblock tables stay (R14). -/
def coldMedRegs (m : Med) : Med :=
  { coldMed with
    rebuild := m.rebuild, dies := m.dies, sets := m.sets, sbs := m.sbs, nextSb := m.nextSb, progs := m.progs
    nextProg := m.nextProg, refreshQ := m.refreshQ, binds := m.binds, beyondRepair := m.beyondRepair, preserve := m.preserve, segs := m.segs }

/-- The code flash keeps its arrays; its registers are cold (R358, R367). -/
def coldCflRegs (c : Cfl) : Cfl := { coldCfl with mem := c.mem, hdrs := c.hdrs, erases := c.erases }

/-- The epochs stay, the staging is discarded (R73, R284). -/
def coldSltRegs (c : Slt) : Slt :=
  { coldSlt with
    epoch := c.epoch, dirtyMib := c.dirtyMib, pools := c.pools, spares := c.spares, records := c.records
    snapshots := c.snapshots }

/-- Parts whose redundancy a cold start does not restore: dies whose rebuild has not ended (R29). -/
def pendingParts (s : State) : List Nat := s.fcl.unrestored.filter fun p => s.med.rebuild.any fun d => diePart d = p

/-- A NAND channel across a start: a failed one stays so until power is removed (R238). -/
def coldNfcCh (kind : Nat) (c : Nfc) : Nfc := { coldNfc with lost := c.lost && kind != 0 }

/-- A die after a start: nothing runs on it; the programs that had not ended are issued again, and a block whose erase had
not ended is erased again (R254). -/
def restDie (progs : List (Nat × Prog)) (d : Nat) (x : Die) : Die :=
  { x with
    op := .idle, phase := .running, nested := none, suspensions := 0, reads := [], lastLimit := none, suspendedNs := 0
    entry := none
    waitProgs := progs.flatMap fun p => ((p.2.redo ++ p.2.left).filter (· = d)).map fun _ => p.1
    eraseQ := match x.op with
      | .erase b => b :: x.eraseQ
      | _ => x.eraseQ }

/-- A copy that a restart struck is given up: its source stands, and its target, which takes no further block, holds only dead
ones (R262). -/
def dropCopies (s : State) : State :=
  (s.med.progs.filter fun p => !p.2.sources.isEmpty).foldl (fun s p =>
    settleSb p.2.sb { s with med := { s.med with progs := amErase s.med.progs p.1 } }) s

/-- The dies after a start. -/
def restDies (s : State) : State :=
  let s := dropCopies s
  { s with med := { s.med with dies := s.med.dies.map fun p => (p.1, restDie s.med.progs p.1 p.2) } }

/-- What every kind of cold start clears. A Slate switch whose commit mark is programmed is decided: the next epoch is in force
(R289). -/
def clearVolatile (kind : Nat) (s : State) : State :=
  let s := if applying s && s.slt.step = 7 then slateSwitch s else s
  let s := restDies (endApply (cflAbandon s))
  { s with
    quartz := 0
    sys := { coldSys with
      straps := s.sys.straps, kind := s.sys.kind, cause := s.sys.cause, reqState := s.sys.reqState
      reqTime := s.sys.reqTime, dumpMarker := s.sys.dumpMarker, dumpKept := s.sys.dumpKept
      dumpBegun := s.sys.dumpBegun, serial := s.sys.serial, macBase := s.sys.macBase, incarn := s.sys.incarn
      everRan := s.sys.everRan, keySerial := s.sys.keySerial, area := s.sys.area
      xsp := { mode := .s1, held := [], pulses := s.sys.xsp.pulses } }
    pins := { s.pins with poweredOn := false, alive := .low, media := .safe, drst := false, coreOff := false
                          xoff := [false, false], paused := [], pauseQ := [] }
    img := coldSettings
    pwr := coldPwr
    thm := coldThm
    fcl := { coldFcl with unrestored := pendingParts s }
    obs := { coldObs with
      seq := s.obs.seq, iseq := s.obs.iseq, severe := s.obs.severe, published := s.obs.published }
    tal := coldTal
    cfl := coldCflRegs s.cfl
    dmc := coldDmc
    mch := coldMch
    bpm := coldBpm
    cph := coldCph
    kec := coldKec
    nfc := s.nfc.map (coldNfcCh kind)
    med := coldMedRegs s.med
    qtz := coldQtz
    eth := coldEth
    slt := coldSltRegs s.slt
    mgmt := { err := false, words := [], hi := [] } }

/-- COLD_POWER_UP: the power was removed. What the fuses, the flash, the code flash and the media system area hold is
kept; sequence counts, the recorders and every register are at power-on (R32, R381, R413, Table SU-14). A run that the
loss struck leaves a dump without an end marker (R27). -/
def powerUp (s : State) : State :=
  let struck := s.sys.boot = .run || s.sys.boot = .warm || (s.sys.boot = .dump && !s.sys.dumpMarker)
  let c := clearVolatile 0 s
  { c with
    sys := { c.sys with
      straps := 0, kind := 0, cause := 0, reqState := 1, reqTime := 0
      dumpBegun := s.sys.dumpBegun || struck, dumpMarker := s.sys.dumpMarker && !struck
      xsp := coldSys.xsp }
    obs := coldObs
    tck := { resetN := false, tap := .idcode, dr := 0x20400B47 }
    pins := { coldPins with sysClk := s.pins.sysClk, portClk := s.pins.portClk } }

/-! ### Steps -/

/-- A step that ends in LODESTONE: the reason, the failing step and the state. -/
structure Failed where
  reason : Reason
  step : Nat
  st : State

/-- Run steps in order; the record writer empties the FIFO before each (R382). -/
def runSteps : List (State → Except Failed State) → State → Except Failed State
  | [], s => .ok s
  | f :: l, s => match f (drainFifo s) with
    | .ok s => runSteps l s
    | .error e => .error e

def modStest (f : Stest → Stest) (s : State) : State := { s with sys := { s.sys with stest := f s.sys.stest } }

/-- Step `n` of Table SU-1 or SU-9 runs. -/
def atStep (n : Nat) (s : State) : State := { s with sys := { s.sys with step := n } }

/-- A part is fenced: a DEGRADE record, DEGRADED_START, and the single fault of R29 for its class (R59). -/
def fenceRecord (part src : Nat) (s : State) : State :=
  event kStart sevDegrade src noInst []
    (unrestore part { s with sys := { s.sys with degradedStart := true } })

/-- Step 2: the reset record; a reserved PORTMODE (R38, Table FE-8). -/
def step2 (b : Board) (s : State) : Except Failed State :=
  let s := atStep 2 s
  let s := eventAt s.quartz kReset sevNotice noSource noInst false false
    (s.sys.kind + s.sys.cause * 2 ^ 8 + s.sys.reqState * 2 ^ 16 + s.sys.reqTime * 2 ^ 64) s
  .ok (if 4 ≤ bits b.straps.toNat 0 3 then notice kStart [] s else s)

/-- The fault line test: one broken line fences its part or marks the line, a second one fails the start (Table SU-2). -/
def lineTest (step : Nat) (t : SelfTest) (s : State) : Except Failed State :=
  match (t.brokenLines.map (·.val)).eraseDups with
  | [] => .ok s
  | [src] =>
    let s := lineBroken src 0xFF s
    .ok (if defaultSev src = sevDegrade then { s with sys := { s.sys with degradedStart := true } } else s)
  | _ => .error { reason := .lbist, step := step, st := s }

/-- Step 3: logic self-test and fault line test. -/
def step3 (b : Board) (s : State) : Except Failed State :=
  let s := atStep 3 s
  if !b.test.lbistOk then .error { reason := .lbist, step := 3, st := s } else lineTest 3 b.test s

/-- Step 4: SRAM tests; the firmware invalidates and enables the map cache (R342). A landing SRAM that fails leaves the
start-up recorder in retention RAM (R383). -/
def step4 (b : Board) (s : State) : Except Failed State :=
  let s := modStest (fun t => { t with sramRepairs := b.test.sramRepairs }) (atStep 4 s)
  let s := if b.test.landingOk then s else unrestore 0x16A s
  if !b.test.sramOk || !b.test.landingOk then
    .error { reason := .sram, step := 4, st := modStest (fun t => { t with detail := b.test.sramRow }) s }
  else .ok { s with mch := { s.mch with enable := true, invDone := true } }

/-- A bank passes the margin read, the signature check and the SVN rule (R62, R365). -/
def bankPasses (margin : Bool) (t : SelfTest) (s : State) (bank : Nat) : Bool :=
  (!margin || t.marginOk.getD bank true) && t.fwSigOk.getD bank false && s.fuses.svnFloor ≤ fwSvn s bank

/-- The steward cores run from a bank: its measurement, the execute-only regions and their lock (R61, R366, R367). -/
def runBank (bank : Nat) (s : State) : State :=
  modStest (fun t => { t with fwBank := bank })
    { s with sys := { s.sys with fwMeas := fwMeasure s bank }
             cfl := { s.cfl with running := bank, xo := fwXo s bank, xoLock := true } }

/-- The running bank is not the one that R366 selects: CFL_STATE.FALLBACK and a DEGRADE record naming the bank left. -/
def fallBack (left : Nat) (s : State) : State :=
  event kStart sevDegrade noSource noInst [left] { s with cfl := { s.cfl with fallback := true } }

/-- A bank is measured, whether or not its verification passes (R61). -/
def measureBank (bank : Nat) (s : State) : State := { s with sys := { s.sys with fwMeas := fwMeasure s bank } }

/-- The choice of R62 for a bank to be measured and verified; where it fails, the other one is measured and verified. -/
def chooseBank (step bank : Nat) (margin : Bool) (t : SelfTest) (s : State) : Except Failed State :=
  let s := measureBank bank s
  let other := 1 - bank
  if bankPasses margin t s bank then .ok (runBank bank s)
  else
    let s := measureBank other s
    if fwQualifies s other && bankPasses margin t s other then .ok (fallBack bank (runBank other s))
    else .error { reason := .firmware, step := step, st := s }

/-- Step 5: the firmware bank is selected, measured and verified (R61, R62, Table SU-3). -/
def step5 (b : Board) (s : State) : Except Failed State :=
  let s := atStep 5 s
  match activeBank s with
  | none => .error { reason := .firmware, step := 5, st := s }
  | some bank => chooseBank 5 bank true b.test s

/-- Lanes out of use: those that fail the known-answer test, and those fenced by a broken line. -/
def badLanes (t : SelfTest) (s : State) : List Nat :=
  (List.range 192).filter fun n => (t.badLanes.any fun b => b.val = n) || s.fcl.broken.contains n

/-- A step fails: the report's DETAIL is the failing block's own, the lowest number of the lanes, units, cores or rows
that fail, or the training step of the lowest failing channel (Table SU-13; its form is the model's, log entry 110). -/
def failedWith (reason : Reason) (step detail : Nat) (s : State) : Except Failed State :=
  .error { reason := reason, step := step, st := modStest (fun t => { t with detail := detail }) s }

/-- Fence records of the parts that a test found bad; a part that a broken line fenced has its LINE_BROKEN record
(Table SU-2). -/
def fenceAll (base : Nat) (l : List Nat) (s : State) : State :=
  (l.filter fun n => !s.fcl.broken.contains (base + n)).foldl (fun s n => fenceRecord (base + n) (base + n) s) s

/-- Cipher, Keccak, TRNG and core tests (Table SU-2). A core with a broken line counts as fenced. A random source that was
FAILED before a warm start has passed its start-up test again (R315). -/
def coreTests (step : Nat) (t : SelfTest) (s : State) : Except Failed State :=
  let lanes := badLanes t s
  let units := (List.range 4).filter fun n => (t.badKeccak.any fun b => b.val = n) || s.fcl.broken.contains (0x128 + n)
  let cores := (List.range 16).filter fun n => (t.badCores.any fun b => b.val = n) || s.fcl.broken.contains (0x118 + n)
  let s := { s with cph := { s.cph with fenced := sumNat (lanes.map fun n => 2 ^ n) }
                    kec := { s.kec with fenced := sumNat (units.map fun n => 2 ^ n) } }
  let s := modStest (fun r => { r with fencedLanes := s.cph.fenced, fencedKeccak := s.kec.fenced
                                       fencedCores := sumNat (cores.map fun n => 2 ^ n) }) s
  if 8 < (lanes.filter (· < 184)).length || 1 < (lanes.filter (184 ≤ ·)).length then
    failedWith .cryptoKat step (lanes.headD 0) s
  else if 1 < units.length then failedWith .cryptoKat step (units.headD 0) s
  else if !t.trngOk then .error { reason := .trng, step := step, st := s }
  else if 1 < cores.length then failedWith .cores step (cores.headD 0) s
  else
    let s := fenceAll 0 lanes s
    let s := (units.filter fun n => !s.fcl.broken.contains (0x128 + n)).foldl (fun s n =>
      event kStart sevDegrade (0x128 + n) noInst [] { s with sys := { s.sys with degradedStart := true } }) s
    .ok (trngPass (fenceAll 0x118 cores s))

/-- Step 6. -/
def step6 (b : Board) (s : State) : Except Failed State := coreTests 6 b.test (atStep 6 s)

/-- FW_VERSION of the running bank, and of the other one where it qualifies and has not failed at this start (R63). -/
def fwVersions (t : SelfTest) (s : State) : List Nat :=
  let other := 1 - s.cfl.running
  fwVersion s s.cfl.running ::
    (if fwQualifies s other && !s.cfl.fallback && t.marginOk.getD other true then [fwVersion s other] else [])

/-- The settings of an image take effect. -/
def useImage (slot : Nat) (im : Image) (s : State) : State :=
  let g := settingsOf im
  let s := modStest (fun t => { t with imageSlot := slot, imageVersion := im.version.toNat }) s
  { s with
    img := g
    sys := { s.sys with cfgMeas := imageMeasure im }
    obs := { s.obs with sizeMib := g.devSizeMib, instEn := g.instEnable }
    fcl := { s.fcl with capmin := g.capmin }
    pwr := { s.pwr with idleEn := g.idleEn, idleMs := g.idleMs, timerS := g.timerS }
    eth := { s.eth with pfc := g.ports.pfc.getLsbD 0, encap := g.ports.encap.toNat, rxInv := g.ports.rxpol
                        txInv := g.ports.txpol } }

/-- The switch of R63 to the other bank, which then repeats step 6. A test that fails in the repeated step 6 is reported as
a failure of step 7, in which it runs (DESIGN CHOICE: R63 does not say which step is named; log entry 112). -/
def switchBank (b : Board) (s : State) : Except Failed State :=
  let old := s.cfl.running
  let other := 1 - old
  let s := measureBank other s
  if !bankPasses true b.test s other then .error { reason := .fwTooOld, step := 7, st := s }
  else coreTests 7 b.test (fallBack old (runBank other s))

/-- The image in use may ask for a firmware that the running bank is too old for: the other bank runs (R63). -/
def bankFor (im : Image) (b : Board) (s : State) : Except Failed State :=
  if fwVersion s s.cfl.running < im.minFw then switchBank b s else .ok s

/-- The NOR is set to 8D-8D-8D by volatile commands where it answers SFDP, both headers and the rest of the slots that
R64 names are read into landing SRAM, and TXPOL for LODESTONE is known (R64, R65, R81). -/
def readNor (b : Board) (s : State) : State :=
  let fws := fwVersions b.test s
  { s with sys := { s.sys with
    xsp := { s.sys.xsp with mode := if norOk b.nor then .d8 else .s1, held := slotsRead s b.straps fws b.nor }
    txpol := startTxpol s b.straps fws b.nor } }

/-- The pulse of XSP_RESET_N before step 7 is left: the NOR is in its power-on mode again (R64). -/
def releaseNor (s : State) : State :=
  { s with sys := { s.sys with xsp := { s.sys.xsp with mode := .s1, pulses := s.sys.xsp.pulses + 1 } } }

/-- Step 7: the configuration NOR and its image (R63–R69), then the identity (R317). -/
def step7 (b : Board) (s : State) : Except Failed State :=
  let s := atStep 7 s
  let chosen := chooseSlot s b.straps (fwVersions b.test s) b.nor
  let s := releaseNor (readNor b s)
  match chosen with
  | .neither a c version reason =>
    let v := fun (n : NorSlot) => if norOk b.nor then (imageOf n).version.toNat else 0
    let s := notice kStart [1, v b.nor.slotB, c] (notice kStart [0, v b.nor.slotA, a] s)
    .error { reason := reason, step := 7, st := modStest (fun t => { t with
      imageVersion := version, detail := if v b.nor.slotA < v b.nor.slotB then c else a }) s }
  | .slot n im failed =>
    let s := match failed with
      | some c => notice kStart [1 - n, c] s
      | none => s
    let s := useImage n im s
    match bankFor im b s with
    | .error e => .error e
    | .ok s => .ok (formIdentity b.test.dikOk s)

/-! ### Step 8 -/

/-- Code of a NAND data rate in NFC_STATUS. -/
def rateCode (mts : Nat) : Nat :=
  if mts = 800 then 1 else if mts = 1200 then 2 else if mts = 1600 then 3 else if mts = 2000 then 4
  else if mts = 2800 then 6 else if mts = 3200 then 7 else if mts = 3600 then 8 else 5

/-- DRAM training: channels fenced here or lost by a broken line (Table SU-2, R322, R325). -/
def trainDram (step : Nat) (t : SelfTest) (s : State) : Except Failed State :=
  let bad := (List.range 24).filter fun n => (t.badDram.any fun b => b.val = n) || (dmcCh s n).state = 5
  let s := { s with dmc := { s.dmc with
    chs := (List.range 24).map fun n =>
      let c := dmcCh s n
      if c.state = 5 then c else if bad.contains n then { c with state := 4 } else { c with state := 1, sp := 1 }
    spreq := 1, rebuilding := bad, imageLost := false } }
  let s := modStest (fun r => { r with fencedDram := sumNat (bad.map fun n => 2 ^ n) }) s
  let s := bad.foldl (fun s n =>
    let (f, s) := drawBytes 1 s
    modCh n (fun c => { c with failStep := ofLeBytes (f.take 1) % 7 + 1 }) s) s
  if 1 < bad.length then failedWith .dram step (dmcCh s (bad.headD 0)).failStep s
  else .ok (fenceAll 0x100 bad s)

/-- Training of one NAND channel: the rate it reaches, at most the profile's; a lower one is recorded (R236). The margins
that NFC_MARGIN reports, and the step that fails, 1–4 at 2400 MT/s and 5–8 above, are not stated: free values (log
entry 88). -/
def trainCh (fenced : Bool) (mts ch : Nat) (s : State) : State :=
  let c := nfcOf s ch
  if c.lost then s
  else
    let (b, s) := drawBytes 4 s
    let step := ofLeBytes (b.take 1) % 4
    if fenced then modNfc ch (fun c => { c with fenced := true, rate := 0, trainedMax := 0, failStep := 1 + step }) s
    else
      let want := rateCode s.img.profile.rateMts
      let got := max 5 (min want (rateCode mts))
      let s := modNfc ch (fun c => { c with
        fenced := false, rate := got, trainedMax := got, trainTemp := channelTemp s ch
        failStep := if got < want then 5 + step else c.failStep
        readUi := ofLeBytes ((b.drop 1).take 1), writeUi := ofLeBytes ((b.drop 2).take 1)
        worstDie := ofLeBytes (b.drop 3) % 64 }) s
      if got = 5 && got < want then notice kMediaLink [ch, 5 + step] s else s

/-- Blocks of a superblock's members on a die, and whether they are FULL. -/
def blocksOn (s : State) (d : Nat) : List (Nat × Bool) :=
  s.med.sbs.flatMap fun p => (p.2.members.filter fun m => m.1 = d).map fun m => (m.2, p.2.full)

/-- The counts of a die whose blocks in use are given: ERASED blocks stay so; every other block that is neither in use, nor in
the system area, nor RETIRED, becomes FREE and waits for erase, or RETIRED where it is worn (R253, R254, R257). -/
def reclaimDie (p : MediaProfile) (used : List (Nat × Bool)) (x : Die) : Die :=
  let erased := x.erasedList.filter fun b => !used.any fun u => u.1 = b
  let fresh := p.blocks - x.nextFresh - x.spare
  let stale := (List.range x.nextFresh).filter fun b =>
    8 ≤ b && !(used.any fun u => u.1 = b) && !x.bad.contains b && !erased.contains b
  stale.foldl (fun x b => freedBlock p.endurance b x) { x with
    full := 8 + (used.filter (·.2)).length, opened := (used.filter fun u => !u.2).length
    free := fresh + erased.length, erased := fresh + erased.length, erasedList := erased, eraseQ := [] }

/-- A die that was lost identifies again (R59). -/
def dieReturns (d : Nat) (s : State) : State :=
  let used := blocksOn s d
  modDie d (fun x => { reclaimDie s.img.profile used x with lost := false }) s

/-- Identification of the dies (Table SU-2): new ones are fresh, lost ones that answer return, known ones that do not
answer are handled as failed dies. -/
def identifyDies (t : SelfTest) (s : State) : State :=
  let works := fun (d : Nat) => !(nfcOf s (chanOf d)).lost && !(nfcOf s (chanOf d)).fenced
  let here := (t.dies.map (·.val)).filter works
  let missing := (s.med.dies.filter fun p => !p.2.lost && !here.contains p.1).map Prod.fst
  let s := here.foldl (fun s d => match die? s d with
    | none => { s with med := { s.med with dies := amSet s.med.dies d (freshDie s.img.profile) } }
    | some x => if x.lost then dieReturns d s else s) s
  let s := missing.foldl (fun s d => if works d then loseDie d s else dropDie d s) s
  modStest (fun r => { r with diesFailed := missing.length })
    { s with nfc := (List.range 64).map fun ch => { nfcOf s ch with
        present := sumNat ((here.filter fun d => chanOf d = ch).map fun d => 2 ^ dieIn d)
        dieLost := sumNat ((s.med.dies.filter fun p => chanOf p.1 = ch && p.2.lost).map fun p => 2 ^ dieIn p.1) } }

/-- A stripe that holds live data has two members gone (Table SU-2). -/
def stripeGone (s : State) : Bool :=
  s.med.sbs.any fun p => !(liveOf s p.1).isEmpty &&
    decide (2 ≤ (p.2.members.filter fun m => isLost s m.1 || p.2.rebuilding.any fun r => r.2 = m.1).length)

/-- Channels that this start's training, or a line broken at this start, fences (Table SU-2). A channel lost before
(R238) is not trained. -/
def badNand (t : SelfTest) (s : State) : List Nat :=
  (List.range 64).filter fun n =>
    ((t.badNand.any fun b => b.val = n) && !(nfcOf s n).lost) || s.fcl.broken.contains (0xC0 + n)

/-- Training of all NAND channels; the report names those that are fenced, and a second one ends the start (Table SU-2). -/
def trainChannels (step : Nat) (t : SelfTest) (s : State) : Except Failed State :=
  let bad := badNand t s
  let s := (List.range 64).foldl (fun s n => trainCh (bad.contains n) (t.rates.getD n 2400) n s) s
  let s := modStest (fun r => { r with fencedNand := sumNat (bad.map fun n => 2 ^ n) }) s
  if 1 < bad.length then failedWith .nand step (nfcOf s (bad.headD 0)).failStep s
  else .ok (fenceAll 0xC0 bad s)

/-- NAND training and identification (Table SU-2, R236–R239). -/
def trainNand (step : Nat) (t : SelfTest) (s : State) : Except Failed State :=
  match trainChannels step t s with
  | .error e => .error e
  | .ok s =>
    let s := identifyDies t s
    if stripeGone s then .error { reason := .nand, step := step, st := s } else .ok s

/-- Step 8. -/
def step8 (b : Board) (s : State) : Except Failed State :=
  match trainDram 8 b.test (atStep 8 s) with
  | .error e => .error e
  | .ok s => trainNand 8 b.test s

/-! ### Buffers at a cold start -/

/-- The twin entries of some blocks take buffers again. -/
def claimBlocks : List (Nat × Stored) → State → List (Nat × Stored) × State
  | [], s => ([], s)
  | b :: l, s =>
    let a := if b.2.twin.isSome then takeTwin s else (none, s)
    let r := claimBlocks l a.2
    ((b.1, { b.2 with twin := a.1 }) :: r.1, r.2)

/-- Those of some zones. -/
def claimZones : List (Nat × Zone) → State → List (Nat × Zone) × State
  | [], s => ([], s)
  | z :: l, s =>
    let a := claimBlocks z.2.blocks s
    let r := claimZones l a.2
    ((z.1, { z.2 with blocks := a.1 }) :: r.1, r.2)

/-- Those of the zones that a commit has reset and that may still be undone. -/
def claimUndo : List (Nat × Zone × ZState × Nat × Nat) → State → List (Nat × Zone × ZState × Nat × Nat) × State
  | [], s => ([], s)
  | u :: l, s =>
    let a := if u.2.1.gen != u.2.2.2.2 then claimBlocks u.2.1.blocks s else (u.2.1.blocks, s)
    let r := claimUndo l a.2
    ((u.1, { u.2.1 with blocks := a.1 }, u.2.2) :: r.1, r.2)

/-- A task holds no buffer after a cold start. -/
def bareSlot : Slot → Slot
  | .held t => .held { t with blocks := t.blocks.map fun b => { b with twin := none, ref := false, out := none } }
  | d => d

/-- Frames and tasks of an instance hold no buffer after a cold start. -/
def bareInst (x : Inst) : Inst :=
  let land := fun (p : U32 × Up × Land) => (p.1, p.2.1, { p.2.2 with buf := none })
  { x with
    heldUp := x.heldUp.map land, placed := x.placed.map land, stagedBufs := []
    unacked := x.unacked.map fun d => { d with buf := none }, backlog := x.backlog.map fun d => { d with buf := none }
    slots := x.slots.map fun p => (p.1, bareSlot p.2) }

/-- What an instance has in the twin buffer lies there again. -/
def claimInst (s : State) (i : Nat) : State :=
  match inst? s i with
  | none => s
  | some x =>
    let z := claimZones x.zones s
    let c := claimBlocks x.conv z.2
    setInst i { bareInst x with zones := z.1, conv := c.1 } c.2

/-- What a descriptor may still undo lies there again. -/
def claimDesc (s : State) (n : Nat) : State :=
  match amGet? s.jrn.descs n with
  | none => s
  | some d =>
    let u := claimUndo d.undo s
    { u.2 with jrn := { u.2.jrn with descs := amSet u.2.jrn.descs n { d with undo := u.1 } } }

/-- The pools as a cold start sets them: the twin buffer holds what the last run left in it, or the dump carries; every other
buffer is free (R14, R41, R350). -/
def resetPools (s : State) : State :=
  let s : State := { s with
    bpm := { s.bpm with pools := startPools }
    jrn := { s.jrn with pages := s.jrn.pages.map fun p => { p with bufs := [] } }
    med := { s.med with progs := s.med.progs.map fun p => (p.1, { p.2 with bufs := [] }) } }
  (s.jrn.descs.map Prod.fst).foldl claimDesc ((instNums s).foldl claimInst s)

/-- Step 9: every DRAM word is written (R337), the records so far move into the device recorder (R383); the straps then
decide (R60). -/
def step9 (b : Board) (s : State) : Except Failed State :=
  let s := carryRecords (drainFifo (atStep 9 s))
  let s := resetPools { s with dmc := { s.dmc with bad := [], window := [], checks := [] } }
  let s := modStest (fun t => { t with durationUs := b.test.durationUs }) s
  if b.straps.getLsbD 7 then .error { reason := .strapReserved, step := 9, st := s }
  else if b.straps.getLsbD 6 then .error { reason := .forced, step := 9, st := s }
  else .ok s

/-! ### Step 10 -/

/-- The parameter block of instance 0 in the formatted configuration, which the spec does not state (log entry 35): all
links of the mode in force, the smallest token rates, the defaults of Table IN-1 elsewhere. -/
def managerBlock (links : Nat) : Nat :=
  64 + managerMask * 2 ^ (8 * 0x28) + 1000000 * 2 ^ (8 * 0x30) + 1048576 * 2 ^ (8 * 0x38) + 1000 * 2 ^ (8 * 0x40) +
    64 * 2 ^ (8 * 0x44) + 16 * 2 ^ (8 * 0x48) + 64 * 2 ^ (8 * 0x4C) + 16 * 2 ^ (8 * 0x4E) + 1000 * 2 ^ (8 * 0x50) +
    1000 * 2 ^ (8 * 0x54) + links * 2 ^ (8 * 0x58) + 64 * 2 ^ (8 * 0x5C) + (2 ^ 128 - 1) * 2 ^ (8 * 0x60)

/-- Format a media system area: instance 0 only, epoch 0, an empty journal (R72, R195, R291, R297). -/
def formatArea (s : State) : State :=
  notice kStart [] { s with
    insts := [(0, freshInst (paramsOf (managerBlock (linksNow s))) 0)]
    jrn := coldJrn
    slt := { s.slt with epoch := 0, dirtyMib := 0, pools := [], spares := [], records := [], snapshots := [] }
    med := { s.med with
      dies := s.med.dies.map fun p => (p.1, { reclaimDie s.img.profile [] p.2 with waitProgs := [] })
      segs := [0, 0], sets := [], sbs := [], progs := [], refreshQ := [], rebuild := [], beyondRepair := [], preserve := false }
    fcl := { s.fcl with unrestored := s.fcl.unrestored.filter fun p => !s.med.dies.any fun d => diePart d.1 = p }
    sys := { s.sys with formatted := true, area := true, keySerial := 0, dumpBegun := false, dumpMarker := false
                        dumpKept := false } }

/-- An up position lies from `a` to `b` (R27). -/
def inSpan (a b q : U32) : Bool := (q - a).toNat ≤ (b - a).toNat

/-- Acceptance positions of the tasks of the last run that lie in the unconfirmed part; every task with a position in the
range counts as a whole (R27). -/
def unconfirmedPos (x : Inst) (a b : U32) : List Nat :=
  x.recent.filterMap fun t => if inSpan a b t.1 then some t.2.2 else none

/-- The unconfirmed part: of each instance the first position of the earliest and the last position of the latest task
accepted since acceptance last opened whose durability nothing confirms (R27). -/
def unconfirmedOf (l : List (Fin 1024 × U32)) (s : State) : List (Nat × U32 × U32) :=
  s.insts.filterMap fun p =>
    let ts := p.2.recent.filter fun t => l.any fun u => u.1.val = p.1 && u.2 = t.1
    match ts.head?, ts.getLast? with
    | some a, some z => some (p.1, a.1, z.1 + BitVec.ofNat 32 z.2.1)
    | _, _ => none

/-- Twin data of tasks in the unconfirmed part cannot be found: their blocks read as UNRECOVERED (R201; log entry 36). -/
def loseTwin (i : Nat) (a b : U32) (s : State) : State :=
  match inst? s i with
  | none => s
  | some x =>
    let ps := unconfirmedPos x a b
    let mine := fun (st : Stored) => st.twin.isSome && !st.onFlash && ps.contains st.pos
    let lose := fun (st : Stored) => if mine st then { st with harm := .lost, twin := none } else st
    let s := ((storedOf i x).filter fun k => mine k.2).foldl (fun s k => (k.2.twin.toList).foldl (fun s t => freeTwin t s) s) s
    setInst i { x with
      zones := x.zones.map fun z => (z.1, { z.2 with blocks := z.2.blocks.map fun k => (k.1, lose k.2) })
      conv := x.conv.map fun k => (k.1, lose k.2) } s

/-- UP_SEQ of a transaction record (Table TX-4). -/
def upSeqOf (r : JRec) : U32 := BitVec.ofNat 32 (r.bodyNum / 2 ^ (if r.rtype = 2 then 96 else 32))

/-- A transaction has a record or a member in the unconfirmed part (R201). -/
def touched (s : State) (n : Nat) (a b : U32) : Bool :=
  (s.jrn.staging ++ s.jrn.slc).any fun r => ofDesc n r && r.rtype != 4 && inSpan a b (upSeqOf r)

/-- One copy of a commit group meets R199: its COMMIT record, its BEGIN, and as many members as the COMMIT names. -/
def groupWhole (n first : Nat) (l : List JRec) : Bool :=
  let mine := l.filter (ofDesc n)
  match mine.find? fun r => r.rtype = 3 with
  | none => false
  | some c => (mine.any fun r => r.rtype = 1 && r.jseq = first) &&
      (mine.filter fun r => r.rtype = 2).length = c.bodyNum % 256

/-- A COMMIT record counts: its group is whole in a copy of the SLC journal, but for the records `bad` whose CHECK fails there,
or in the restored staging, but for the records that are lost with it (R199). -/
def counted (bad : List (Nat × Fin 2)) (lost : JRec → Bool) (s : State) (n : Nat) (d : Desc) : Bool :=
  let copy := fun (c : Fin 2) => s.jrn.slc.filter fun r => !bad.contains (r.jseq, c)
  groupWhole n d.firstJseq (copy 0) || groupWhole n d.firstJseq (copy 1) ||
    groupWhole n d.firstJseq (s.jrn.staging.filter fun r => !lost r && !r.bad)

/-- A zone stands as a commit left it (R201). -/
def asLeft (u : Nat × Zone × ZState × Nat × Nat) (z : Zone) : Bool :=
  z.state = u.2.2.1 && z.wp = u.2.2.2.1 && z.gen = u.2.2.2.2

/-- A zone as it was before a commit that is undone, with the members' PENDING in WASTE (R191, R201). A zone that has moved on
since keeps what it is but for the data members' blocks. -/
def undoZone (n : Nat) (d : Desc) (u : Nat × Zone × ZState × Nat × Nat) (z : Zone) : Zone :=
  if asLeft u z then
    let old := u.2.1
    let now := fun (k : Nat × Stored) => match amGet? z.blocks k.1 with
      | some st => if st.pos = k.2.pos then (k.1, st) else k
      | none => k
    { old with txn := z.txn, sb := z.sb, waste := old.waste + old.pending, pending := 0
               blocks := (old.blocks.filter fun k => k.2.desc != some n).map now }
  else
    let mine := fun (m : Member) => m.zone = u.1 && m.gen = z.gen && (m.op = 0x02 || m.op = 0x03)
    { z with waste := z.waste + sumNat ((d.members.filter mine).map (·.nblk))
             blocks := z.blocks.filter fun k => !d.members.any fun m => mine m && m.offset ≤ k.1 && k.1 < m.offset + m.nblk }

/-- A commit that does not count is undone: its zones are as before it with PENDING in WASTE, and its TXN_COMMIT completes with
TXN_ABORTED (R139, R201; log entry 36). -/
def undoCommit (n : Nat) (d : Desc) (s : State) : State :=
  let moved := d.undo.filter fun u => !(inst? s d.inst).any fun x => asLeft u (zoneOf x u.1)
  let s : State := { s with jrn := { s.jrn with descs := amModify s.jrn.descs n fun e => { e with undo := moved } } }
  let s := dropTwins d.inst (pendingOf s n d.inst) s
  let s := d.undo.foldl (fun s u => modZone d.inst u.1 (undoZone n d u) s) s
  let s := stageRec 0x04 d.inst d.txnId n (abortBody 4 0 d.firstJseq) s
  completeTask d.inst d.slot stTxnAborted 0 false (freeDescriptor n (dropHold n s))

/-- The record of an aborted transaction or commit that an unconfirmed dump leaves (R201). -/
def txnLost (d : Desc) (s : State) : State := event kTxn sevContain noSource d.inst [d.txnId] s

/-- R201 for one transaction. Its records of the unconfirmed part are not in the restored staging. -/
def judgeUnconfirmed (bad : List (Nat × Fin 2)) (a b : U32) (s : State) (p : Nat × Desc) : State :=
  let lost := fun (r : JRec) => inSpan a b (upSeqOf r)
  if !touched s p.1 a b then s
  else if p.2.state = .committing then
    (if counted bad lost s p.1 p.2 then s else txnLost p.2 (undoCommit p.1 p.2 s))
  else if p.2.state = .opened then txnLost p.2 (deviceAbort p.1 4 s) else s

/-- R27: the dump of the last power loss has no end marker. -/
def unconfirmedDump (a : SysAreaRead) (s : State) : State :=
  let spans := unconfirmedOf a.unconfirmed s
  let s := event kDump sevContain noSource noInst []
    { s with sys := { s.sys with dumpUnconfirmed := true, unconfirmed := spans } }
  spans.foldl (fun s e =>
    let ds := s.jrn.descs.filter fun p => p.2.inst = e.1
    ds.foldl (judgeUnconfirmed a.journal e.2.1 e.2.2) (loseTwin e.1 e.2.1 e.2.2 s)) s

/-- Tasks with a deadline that a cold start carries without a completion are late, with cause RESTART (R209). -/
def markRestart (x : Inst) : Inst :=
  { x with slots := x.slots.map fun p => match p.2 with
      | .held t => (p.1, .held { t with cause := .restart, spent := [] })
      | .done .. => p }

/-- Step 10: the media system area and the dump of the last power loss (R27, R41, R72). An area that is found is never
formatted over; one that is found and that the state does not hold counts as unreadable (log entry 93). -/
def step10 (b : Board) (s : State) : Except Failed State :=
  let s := atStep 10 s
  let s := { s with sys := { s.sys with dumpBefore := s.sys.dumpBegun, dumpComplete := s.sys.dumpMarker } }
  if !b.area.found then
    (if s.img.formatAllowed then .ok (formatArea s)
     else .error { reason := .noSystemArea, step := 10, st := s })
  else if !(b.area.readable && s.sys.area) then .error { reason := .systemArea, step := 10, st := s }
  else
    let s := { s with insts := s.insts.map fun p => (p.1, markRestart p.2) }
    .ok (if s.sys.dumpBegun && !s.sys.dumpMarker && !s.sys.dumpKept then unconfirmedDump b.area s
      else { s with sys := { s.sys with dumpKept := s.sys.dumpKept || s.sys.dumpMarker } })

/-! ### Step 11 -/

/-- The rules of Table IN-9 over the resulting configuration, whatever its epochs named: each with whether it holds (R74). Rule
0x05 compares with a configuration before, of which there is none. -/
def replayRules (s : State) : List (Nat × Bool) :=
  [(0x04, s.insts.all fun p => pbRangeOk p.2.params.raw false p.1),
   (0x06, (inst? s 0).all fun x => pbManagerOk x.params),
   (((judgeRules s []).map Prod.fst).getD 0xFF, (judgeRules s []).isNone)]

/-- The first rule of Table IN-9 that the replayed configuration fails (R74). -/
def replayRule (s : State) : Option Nat :=
  match ((replayRules s).filter fun p => !p.2).map Prod.fst with
  | [] => none
  | r :: l => some (l.foldl min r)

/-- R74: every tenant is held while a rule fails. -/
def judgeReplay (s : State) : State :=
  let rule := replayRule s
  let s := { s with sys := { s.sys with replayHeld := rule.isSome }
                    insts := s.insts.map fun p => (p.1, { p.2 with replayHeld := rule.isSome && p.1 != 0 }) }
  match rule with
  | some r => event kStart sevDegrade noSource noInst [r] s
  | none => s

/-- A copy of a snapshot or record passes its checksum. -/
def someCopy (bad : List (Nat × Fin 2)) (n : Nat) : Bool := !(bad.contains (n, 0) && bad.contains (n, 1))

/-- Epoch that the replay begins from: of the newest snapshot whose checksum passes in either copy, or 0, the formatted
configuration (R73, R291). -/
def replayBase (a : SysAreaRead) (s : State) : Nat :=
  ((s.slt.snapshots.map Prod.fst).filter (someCopy a.badSnapshots)).foldl max 0

/-- Every epoch after the base has a record with its commit mark whose checksum passes in either copy, with no gap up to
the epoch in force (R73). The configuration that these records rebuild is the one the switches made, which the state holds. -/
def replayOk (a : SysAreaRead) (s : State) : Bool :=
  (List.range (s.slt.epoch - replayBase a s)).all fun k =>
    let n := replayBase a s + 1 + k
    (s.slt.records.any fun r => r.1 = n) && someCopy a.badRecords n

/-- The staged set of a map update without a seal is discarded: what its programs wrote is not in the map, and goes to flash
again (R204). -/
def dropUnsealed (n : Nat) (s : State) : State :=
  match amGet? s.med.progs n with
  | none => s
  | some pr =>
    let s := pr.items.foldl (fun s it => modStored it.1 (fun st =>
      if st.pos != it.2.1 then st
      else if st.native = some (pr.sb, it.2.2) then { st with native := none }
      else if st.place = some (pr.sb, it.2.2) && !st.onFlash then { st with place := none } else st) s) s
    { s with med := { s.med with progs := amErase s.med.progs n } }

/-- JSEQ of the COMMIT record of a descriptor. -/
def commitSeq (s : State) (n : Nat) : Nat :=
  (((s.jrn.staging ++ s.jrn.slc).find? fun r => ofDesc n r && r.rtype = 3).map (·.jseq)).getD 0

/-- Insert a numbered thing in ascending number. -/
def insertPos {α : Type} (p : Nat × α) : List (Nat × α) → List (Nat × α)
  | [] => [p]
  | q :: l => if p.1 < q.1 then p :: q :: l else q :: insertPos p l

/-- One commit at replay: a counted one is applied, and its descriptor freed; one that does not count is undone (R199–R201; log
entry 123). -/
def replayCommit (bad : List (Nat × Fin 2)) (s : State) (p : Nat × Nat × Desc) : State :=
  if counted bad (fun _ => false) s p.2.1 p.2.2 then
    freeDescriptor p.2.1 { s with jrn := { s.jrn with sealed := max s.jrn.sealed p.1 } }
  else txnLost p.2.2 (undoCommit p.2.1 p.2.2 s)

/-- Replay: locks and staged sets without a seal are discarded; the commits take effect in JSEQ order before any accepted task
runs; the descriptors of aborts are freed; reads and reports wait for no commit and no line any more. The ABORT records of
device aborts that no page holds wait for the next one (R196, R199–R201, R204, Table TX-6). `bad`: records whose CHECK fails in
a copy of the SLC journal. -/
def replayJournal (bad : List (Nat × Fin 2)) (s : State) : State :=
  let s : State := s.jrn.waitingHwt.foldl (fun s n => dropUnsealed n s) s
  let aborted := fun (n : Nat) => (amGet? s.jrn.descs n).any fun d => d.state = .devAborted
  let rides := (s.jrn.staging.filter fun r => r.client = 0 && r.rtype = 4 && aborted r.desc).map (·.jseq)
  let s : State := { s with
    insts := s.insts.map fun p => (p.1, { p.2 with slots := p.2.slots.map fun q => match q.2 with
      | .held t => (q.1, .held { t with holds := [] })
      | .done .. => q })
    jrn := { s.jrn with locks := [], group := [], pages := [], rides := rides, waitingHwt := [], waitingApply := []
                        waitingPoison := [], waitingReads := [] } }
  let cs := (s.jrn.descs.filter fun p => p.2.state = .committing).map fun p => (commitSeq s p.1, p.1, p.2)
  let s := (cs.foldr insertPos []).foldl (replayCommit bad) s
  let ds := s.jrn.descs.filter fun p => p.2.state = .aborting
  ds.foldl (fun s p => freeDescriptor p.1 s) s

/-- Step 11: epochs, keys, maps and the journal are replayed and the configuration is checked (R73, R74, R200, R204, R254,
R267). -/
def step11 (b : Board) (s : State) : Except Failed State :=
  let s := atStep 11 s
  if !replayOk b.area s then .error { reason := .systemArea, step := 11, st := s }
  else
    .ok (judgeReplay (rejudgePreserve (replayJournal b.area.journal s)))

/-! ### LODESTONE (R80) -/

/-- Lane polarity in LODESTONE: each receiver corrects what it finds; the transmitters take TXPOL of a slot that passed
checks 1–7 at this start, or else follow their receivers (R81). -/
def lodestoneLanes (s : State) : State :=
  { s with eth := { s.eth with rxInv := s.pins.laneInv, txInv := s.sys.txpol.getD s.pins.laneInv } }

/-- The device enters LODESTONE: the report, a START record, the pins of Table SU-10 and the ports in the strap's mode with
the lane polarity of R81. No step has failed where a strap asks for LODESTONE (R60, Table SU-13). -/
def enterLodestone (r : Reason) (step : Nat) (s : State) : State :=
  let failed := if r = .forced || r = .strapReserved then 0 else step
  let s := { s with
    sys := { s.sys with boot := .lodestone, step := step, reason := r, open' := false, transport := false
                        closedWhy := 0, afterDump := .reopen
                        stest := { s.sys.stest with reason := reasonCode r, failedStep := failed, startKind := s.sys.kind } }
    obs := { s.obs with useStartup := true }
    pins := { s.pins with media := .safe, drst := false, alive := .hz100 }
    eth := { s.eth with p0mode := strapMode s.sys.straps, p1mode := strapMode s.sys.straps } }
  trainPorts (lodestoneLanes (event kStart (if r = .forced then sevNotice else sevContain) noSource noInst
    [reasonCode r, failed] (requestTo 800 s)))

/-! ### In reset -/

/-- VCCQ_NAND is in tolerance. -/
def vccqOk (s : State) : Bool := amGetD s.pins.rails 9 true

/-- The pin states of R33, with the lanes powered down; the NAND balls are undriven without VCCQ_NAND. -/
def pinsSafe (s : State) : State :=
  { s with pins := { s.pins with media := if vccqOk s then .safe else .undriven, drst := false }
           eth := { s.eth with up := 0 } }

/-- The device stands in reset, or its start has been stopped: ALIVE is low, nothing runs (R33, R37, R44, R57). -/
def inReset (s : State) : State :=
  let s := pinsSafe s
  { s with
    sys := { s.sys with boot := .start, step := 1, open' := false, transport := false, closedWhy := 1, hold := .no
                        resetWaits := false, afterDump := .reopen }
    pins := { s.pins with alive := .low, coreOff := false } }

end Sys2Proof.Machine
end

