-- ==== Sys2Proof/Machine/Restart.lean ====
section
/-! DEFINITION. The opening of acceptance after a start: what each instance is told (R112, R114), the tasks that R55
executes, the key install of R297; the whole cold start (R54), the warm start (R75–R78) and the begin of a dump (Table
PK-9). -/

namespace Sys2Proof.Machine

open Sys2Proof

/-! ### Acceptance order -/

/-- DONE slots in acceptance order: slot, COMPLETION, trailer and task. -/
def doneInOrder (x : Inst) : List (Nat × Nat × Completion × Option Trailer × Task) :=
  (x.slots.filterMap fun p => match p.2 with
    | .done c _ trl t => some (t.pos, p.1, c, trl, t)
    | .held _ => none).foldr insertPos []

/-- HELD slots in acceptance order. -/
def heldInOrder (x : Inst) : List (Nat × Nat × Task) :=
  (x.slots.filterMap fun p => match p.2 with
    | .held t => some (t.pos, p.1, t)
    | .done .. => none).foldr insertPos []

/-! ### One instance -/

/-- A DATA frame of a slot is not acknowledged yet (R114). -/
def owesData (x : Inst) (slot : Nat) : Bool := (x.unacked ++ x.backlog).any fun d => isData d && d.slot = slot

/-- The front's reservation returns to its buckets (R214). -/
def releaseFront (x : Inst) : Inst :=
  match x.placed with
  | (_, .task f, _) :: _ => if holdsTokens x.waiting then unreserveTask f.record x else x
  | _ => x

/-- An instance as a start leaves it: E at the position after the last frame accepted or refused, the down sequence at the
tenant's last ACK value; frames without an outcome are dropped (R105, R112). A cold start sets Quartz back: windows begin
anew, buckets are full (R216), a grace period is over (log entry 37). -/
def restartInst (cold : Bool) (now : Nat) (x : Inst) : Inst :=
  let x := releaseFront x
  let e := match x.placed with
    | p :: _ => p.1
    | [] => x.e
  let x := { x with
    e := e, ackOut := e, down := x.ackIn, heldUp := [], placed := [], waiting := .no, waited := .other, waitedSpent := []
    stagedBufs := [], gapAt := none, restartLate := false
    unacked := [], backlog := [], expiries := 0, stalled := false }
  if cold then { x with
    rejWindow := 0, rejCount := 0, violWindow := 0, viol := 0, violRecorded := false, graceEnd := none
    misses := List.replicate 16 0, bw := newBucket x.params.bwDepth now, ops := newBucket x.params.opDepth now }
  else x

/-- A DONE slot's COMPLETION goes out again under a new down number. A read with a DATA frame that the tenant has not
acknowledged gets DATA_DROPPED, and its trailer is formed again (R112, R114). -/
def redoDone (i slot : Nat) (c : Completion) (trl : Option Trailer) (t : Task) (owed : Bool) (s : State) : State :=
  match inst? s i with
  | none => s
  | some x =>
    let drop := owed && opReads c.op && !c.dropped
    let c := if drop then { c with dropped := true } else c
    let flags := flag t.trailer.isSome 0
    let trl := if drop then t.trailer.bind fun tr => replyTrailer i x 3 flags slot 32 (completionBody c) tr else trl
    sendSeq i t.link flags slot 0 (.completion c) trl (modInst i (setSlot slot (.done c x.down trl t)) s)

/-- Every program under way has ended with a pass, and its map update is made (R23, R55). -/
def endPrograms (s : State) : State :=
  let ns := s.med.progs.map Prod.fst
  let s := { s with med := { s.med with
    progs := s.med.progs.map fun p => (p.1, { p.2 with left := [] })
    dies := s.med.dies.map fun p => (p.1, { p.2 with
      waitProgs := [], nested := none
      op := match p.2.op with
        | .program _ => .idle
        | o => o }) } }
  ns.foldl (fun s n => progDone n s) s

/-- A FLUSH runs to its end: what it covers is programmed (R146). -/
def endFlush (i slot : Nat) (s : State) : State := tryFlush i slot (endPrograms (endPrograms (padInst i s)))

/-- A task without a completion is executed in a cold start (R55). Reads complete without reading (R114); a TXN_COMMIT's apply was
made in the replay (R200). -/
def runHeld (i slot : Nat) (s : State) : State :=
  match heldTask s i slot, inst? s i with
  | some t, some x =>
    if opReads t.op then
      completeTask i slot stOk 0 true (modTask i slot (fun t => { t with blocks := [], reply := [], heldBack := none }) s)
    else if t.op = 0x0A then completeTask i slot stOk t.result false s
    else if t.op = 0x0D then endFlush i slot s
    else if t.op = 0x10 then deliverMessage i slot s
    else if t.op = 0x12 then loadDone i slot t x s
    else if t.op = 0x14 then rotateDone i slot t x s
    else s
  | _, _ => s

/-- The outcome of a read's block that a warm start meets on its way: a block that the twin buffer holds is sent (R22, R23);
of one that comes from flash it is free: sent, tag failed, poisoned or lost (log entry 38). -/
def endBlock (i slot b : Nat) (s : State) : State :=
  match heldTask s i slot with
  | none => s
  | some t =>
    if !((t.blocks[b]?).any fun rb => match rb.stage with
        | .array _ => true
        | .lane => true
        | _ => false) || t.heldBack = some b then s
    else if (t.blocks[b]?).any fun rb => rb.place.isNone then laneOpen i slot b (dropTwin i slot b s)
    else
      let (f, s) := drawBytes 1 s
      match ofLeBytes (f.take 1) % 4 with
      | 0 => blockFailed i slot b 0 s
      | 1 => blockFailed i slot b 1 s
      | 2 => blockFailed i slot b 2 s
      | _ => laneOpen i slot b s

/-- A HELD task runs to completion at step 3 of a warm start (R75). -/
def endHeld (i slot : Nat) (s : State) : State :=
  match heldTask s i slot with
  | none => s
  | some t =>
    if t.op = 0x01 then (List.range t.blocks.length).foldl (fun s b => endBlock i slot b s) s
    else if opReads t.op then deliverOne i slot t.seq s
    else runHeld i slot s

/-- Do something with every HELD slot of every instance, each instance in acceptance order. -/
def forHeld (f : Nat → Nat → State → State) (s : State) : State :=
  forInsts (fun i s => match inst? s i with
    | none => s
    | some x => (heldInOrder x).foldl (fun s h => f i h.2.1 s) s) s

/-! ### Opening -/

/-- Parts whose restoration Table AR-9 gives as immediate are restored once acceptance opens: lanes and cores (R29). -/
def restoreImmediate (s : State) : State :=
  (s.fcl.unrestored.filter fun p => p ≤ 0xBF || (0x118 ≤ p && p ≤ 0x127)).foldl (fun s p => restored p p s) s

/-- The one record of the RESTART misses of an instance (R209). -/
def recordLates (i : Nat) (s : State) : State :=
  if (inst? s i).any (·.restartLate) then
    event kRestartLate sevNotice noSource i [] (modInst i (fun x => { x with restartLate := false }) s)
  else s

/-- One instance is told of the restart: RESTARTED, directly after it its DONE completions, then the tasks that R55 executes
(R23, R112); last DUMP_UNCONFIRMED, where R27 applies, once. `x0`: the instance as the start found it. -/
def openInst (kind : Nat) (unconfirmed : List (Nat × U32 × U32)) (i : Nat) (x0 : Inst) (s : State) : State :=
  match inst? s i with
  | none => s
  | some x =>
    let s := notify i 0x0003 kind x.down.toNat x.e.toNat s
    let s := (doneInOrder x).foldl (fun s d =>
      redoDone i d.2.1 d.2.2.1 d.2.2.2.1 d.2.2.2.2 (owesData x0 d.2.1) s) s
    let s := (heldInOrder x).foldl (fun s h => runHeld i h.2.1 s) s
    let s := match unconfirmed.find? fun u => u.1 = i with
      | some u => notify i 0x0004 u.2.1.toNat u.2.2.toNat 0 s
      | none => s
    recordLates i s

/-- An OPEN transaction's timeout begins again (R194). -/
def restartTimeouts (s : State) : State :=
  let again := fun (p : Nat × Desc) => (p.1, if p.2.state = .opened then { p.2 with began := s.quartz } else p.2)
  { s with jrn := { s.jrn with descs := s.jrn.descs.map again } }

/-- No accepted task is younger than the opening of acceptance (R27). -/
def clearRecent (s : State) : State := { s with insts := s.insts.map fun p => (p.1, { p.2 with recent := [] }) }

/-- A warm start empties the queues of the transport: the buffers of what it drops are let go. -/
def freeQueues (i : Nat) (s : State) : State :=
  match inst? s i with
  | none => s
  | some x => x.stagedBufs.foldl (fun s t => freeTwin t s)
      (freeBufs 1 ((x.unacked ++ x.backlog).filterMap (·.buf)) (freeLanding (x.heldUp ++ x.placed) s))

/-- The device enters RUN (R54). -/
def enterRun (s : State) : State := { s with sys := { s.sys with boot := .run, open' := true, closedWhy := 0 } }

/-- Acceptance opens after a start of a kind: the instances are told first (R112). Instance 0's last 64 MGMT replies do not
survive a start (DESIGN CHOICE: the spec is silent; log entry 113). -/
def openAcceptance (kind : Nat) (unconfirmed : List (Nat × U32 × U32)) (s : State) : State :=
  let before := s.insts
  let s := forInsts freeQueues s
  let s := { s with
    sys := { s.sys with
      transport := true, due := [], runAt := s.quartz, everRan := true, dumpBegun := false, dumpMarker := false
      dumpKept := false, afterDump := .reopen, resetWaits := false, warmDeferred := none }
    pins := { s.pins with alive := .khz10, media := .active, drst := true }
    insts := s.insts.map fun p => (p.1, restartInst (kind != 2) s.quartz p.2)
    eth := { s.eth with mgmtReplies := [] } }
  let s := restartTimeouts (if kind = 2 then replayJournal [] s else s)
  let s := clearRecent (before.foldl (fun s p => openInst kind unconfirmed p.1 p.2 s) s)
  let s := restoreImmediate s
  enterRun (if s.qtz.unsent || (kind != 2 && s.qtz.step != 0) then
    notifyDerate 0 { s with qtz := { s.qtz with unsent := false } }
  else s)

/-- Held instances are told once acceptance opens (R74, R277). -/
def tellHeld (s : State) : State :=
  if !s.sys.replayHeld then s
  else forInsts (fun i s => if i = 0 then s else notify i 0x0007 0 0 0 s) s

/-! ### Step 12 and the cold start -/

/-- The image in the slot that the start uses. -/
def usedImage (b : Board) (s : State) : Image :=
  imageOf (if s.sys.stest.imageSlot = 1 then b.nor.slotB else b.nor.slotA)

/-- The fuses of R70 and R365. -/
def programFuses (im : Image) (s : State) : State :=
  let fs := match bindingNow s with
    | none => s.fuses.bindings ++ [{ operatorId := im.operatorId, floor := im.keyVersion, void := false }]
    | some p => modNth s.fuses.bindings p.1 fun f => { f with floor := max f.floor im.keyVersion }
  { s with fuses := { bindings := fs, svnFloor := max s.fuses.svnFloor (fwSvn s s.cfl.running) } }

/-- The install of MANAGER_KEY where its serial is higher than the recorded one (R297). -/
def installManagerKey (im : Image) (s : State) : State :=
  match managerKeyOf im with
  | none => s
  | some (serial, w) =>
    if serial ≤ s.sys.keySerial then s
    else match unwrap (dtkOf im.operatorId) w with
      | .ok k => installKey 0 k false { s with sys := { s.sys with keySerial := serial } }
      | _ => s

/-- The ports come up in the mode of the image; a port that a broken line failed stays down (R84, Table SU-1). -/
def trainImagePorts (s : State) : State :=
  let s := trainPorts { s with eth := { s.eth with
    p0mode := entryMode s.sys.straps s.img.ports.mode0, p1mode := entryMode s.sys.straps s.img.ports.mode1 } }
  let lost := fun (p : Nat) => s.fcl.broken.contains (portSource p false) || s.fcl.broken.contains (portSource p true)
  { s with eth := { s.eth with
      up := (List.range 16).foldl (fun a n => if lost (n / 8) then setBit a n false else a) s.eth.up } }

/-- Step 12: the fuses, the ports, the accepted tasks, and RUN (R54, R55, R70). -/
def step12 (b : Board) (s : State) : State :=
  let im := usedImage b s
  let s := trainImagePorts (programFuses im (atStep 12 s))
  let s := openAcceptance s.sys.kind s.sys.unconfirmed s
  let s := tellHeld (installManagerKey im s)
  modStest (fun t => { t with startKind := s.sys.kind }) s

/-- The steps before step 12. -/
def coldSteps (b : Board) : List (State → Except Failed State) :=
  [step2 b, step3 b, step4 b, step5 b, step6 b, step7 b, step8 b, step9 b, step10 b, step11 b]

/-- The incarnation count advances at every start (R112). -/
def nextIncarn (s : State) : State := { s with sys := { s.sys with incarn := (s.sys.incarn + 1) % 256 } }

/-- The device enters the cold start of a kind: step 1 and what it clears. The straps are sampled, but in an internal cold
start (R38, R78). At an edge of RESET_N every rail is in tolerance (Table PK-6). -/
def beginStart (kind cause : Nat) (b : Board) (s : State) : State :=
  let s := nextIncarn (clearVolatile kind { s with sys := { s.sys with kind := kind, cause := cause } })
  { s with
    sys := { s.sys with closedWhy := 1, straps := if kind = 3 then s.sys.straps else b.straps
                        tband := tbandOf b.junction }
    pins := { s.pins with rails := if kind = 3 then s.pins.rails else [], laneInv := b.laneInv }
    thm := { s.thm with junction := b.junction, peak := some b.junction }
    eth := { s.eth with p0mode := strapMode (if kind = 3 then s.sys.straps else b.straps)
                        p1mode := strapMode (if kind = 3 then s.sys.straps else b.straps) } }

/-! ### Dumps (Table PK-9) -/

/-- A dump begins: acceptance closes, erases in progress and code-flash operations are given up (R26, R254, R358). -/
def beginDump (s : State) : State :=
  let s := notice kDump [] (abandonErases (cflAbandon s))
  { s with
    sys := { s.sys with boot := .dump, open' := false, closedWhy := 2, dumpBegun := true, dumpMarker := false
                        dumpKept := false }
    pins := { s.pins with alive := if s.tck.resetN then .khz1 else .low } }

/-! ### The cold start -/

/-- A start ends in LODESTONE; where the twin buffer holds data that are not on flash, behind a dump (R79). Before step 11
the last power loss's dump is not restored, so nothing is in the twin buffer. -/
def failStart (e : Failed) (us : Nat) : State :=
  let s := modStest (fun t => { t with durationUs := us }) e.st
  if 11 ≤ e.step && 0 < dirtyBlocks s then
    beginDump { s with sys := { s.sys with afterDump := .lodestone e.reason e.step } }
  else enterLodestone e.reason e.step s

/-- An assertion of PFAIL_N or RESET_N during a cold start stops it without a dump: the next cold start restores the same
dump again (R57). -/
def cutStart (c : StartCut) (s : State) : State :=
  inReset { s with pins := { s.pins with pfailN := s.pins.pfailN && !c.pfail } }

/-- The steps of a cold start from step 2 on, up to the one that an assertion of PFAIL_N or RESET_N stops (R54, R57). -/
def runStart (b : Board) (s : State) : State :=
  let b := { b with straps := s.sys.straps }
  let steps := match b.cut with
    | some c => (coldSteps b).take (c.step - 2)
    | none => coldSteps b
  match runSteps steps { s with sys := { s.sys with hold := .no } } with
  | .ok s => match b.cut with
    | some c => cutStart c (drainFifo s)
    | none => step12 b (drainFifo s)
  | .error e => failStart e b.test.durationUs

/-- A start behind its wait for SYS_REFCLK looks at the junction: above 158 °C it shuts down, above 145 °C it waits at step
2, and else it runs (R58). -/
def heatCheck (b : Board) (kind : Nat) (s : State) : State :=
  if 632 < b.junction then shutdownAt b.junction { s with sys := { s.sys with step := 2, hold := .no } }
  else if 580 < b.junction then
    notice kStart [] { s with sys := { s.sys with step := 2, hold := .thermal b kind } }
  else runStart b (thermalRise s)

/-- A cold start (R54): it stays in reset without SYS_REFCLK (R37). -/
def coldStart (kind cause : Nat) (b : Board) (s : State) : State :=
  let s := beginStart kind cause b s
  if !s.pins.sysClk then { s with sys := { s.sys with hold := .clock b kind } } else heatCheck b kind s

/-! ### Warm start -/

/-- NAND channels retrain (Table SU-9): one that fails is fenced, a second one ends the start. -/
def retrainAll (t : SelfTest) (s : State) : Except Failed State :=
  let bad := badNand t s
  match trainChannels 8 t s with
  | .error e => .error e
  | .ok s =>
    let s := bad.foldl (fun s n => (s.med.dies.filter fun p => chanOf p.1 = n).foldl (fun s p => dropDie p.1 s) s) s
    if stripeGone s then .error { reason := .nand, step := 8, st := s } else .ok s

/-- DRAM leaves self-refresh with its kept values (Table SU-9): one channel that fails is fenced, its copies rebuilt. -/
def wakeDram (t : SelfTest) (s : State) : Except Failed State :=
  let bad := (List.range 24).filter fun n => t.badDram.any fun b => b.val = n
  let s := { s with dmc := { s.dmc with chs := (List.range 24).map fun n =>
    let c := dmcCh s n
    if c.state = 5 then c else if bad.contains n then { c with state := 4 } else { c with state := 1 } } }
  let s := modStest (fun r => { r with fencedDram := sumNat (bad.map fun n => 2 ^ n) }) s
  if 1 < bad.length then failedWith .dram 8 (dmcCh s (bad.headD 0)).failStep s
  else
    let s : State := { s with dmc := { s.dmc with rebuilding := s.dmc.rebuilding ++ bad } }
    .ok (fenceAll 0x100 bad (if bad.any fun n => s.dmc.rebuilding.contains ((n + 12) % 24) then judgeCopies .lost s else s))

/-- Step 6 of Table SU-9: the bank is chosen without the margin read; the identity (R62, R317). -/
def warmBank (t : SelfTest) (s : State) : Except Failed State :=
  match activeBank s with
  | none => .error { reason := .firmware, step := 6, st := atStep 6 s }
  | some bank => match chooseBank 6 bank false t (atStep 6 s) with
    | .ok s => .ok (formIdentity t.dikOk s)
    | .error e => .error e

/-- Step 7 of Table SU-9: the fault lines. -/
def warmLines (t : SelfTest) (s : State) : Except Failed State := lineTest 7 t (atStep 7 s)

/-- Step 7 of Table SU-9: the landing SRAM. -/
def warmSram (t : SelfTest) (s : State) : Except Failed State :=
  if t.landingOk then .ok s else failedWith .sram 7 t.sramRow s

/-- Step 8 of Table SU-9: DRAM leaves self-refresh. -/
def warmDram (t : SelfTest) (s : State) : Except Failed State := match wakeDram t (atStep 8 s) with
  | .ok s => .ok (reloadKeys s)
  | .error e => .error e

/-- Steps 6 to 8 of Table SU-9, but for the image's measurement. -/
def warmSteps (t : SelfTest) : List (State → Except Failed State) :=
  [warmBank t, warmLines t, coreTests 7 t, warmSram t, warmDram t, retrainAll t]

/-- The oldest HWT unlocks. -/
def unlockOldest (s : State) : State := match s.jrn.locks with
  | [] => s
  | l :: _ => hwtRelease (l.headD 0) s

/-- Every HWT unlocks, those that waited at STAGE included. -/
def unlockAll (s : State) : State :=
  let j := s.jrn
  (List.range (j.locks.length + j.waitingHwt.length + j.waitingApply.length + j.waitingPoison.length + 1)).foldl
    (fun s _ => unlockOldest s) s

/-- The journal writer ends: every group is programmed and every commit applied, in the order of R197. -/
def finishPages (s : State) : State :=
  (List.range (s.jrn.pages.length + s.jrn.group.length)).foldl (fun s _ => pageDone (kickPage (unlockAll s))) (unlockAll s)

/-- Step 3 of Table SU-9: the accepted tasks end, erases in progress are abandoned. -/
def warmEnd (s : State) : State := drainFifo (abandonErases (forHeld endHeld (unlockAll (finishPages s))))

/-- Steps 4 and 5 of Table SU-9: the cache is written back, the core domain is reset. -/
def warmReset (s : State) : State :=
  let s := cflAbandon s
  { s with
    sys := { s.sys with degradedStart := false, formatted := false, dumpUnconfirmed := false, dumpBefore := false
                        dumpComplete := false, stest := { coldStest with imageSlot := s.sys.stest.imageSlot
                                                                         imageVersion := s.sys.stest.imageVersion } }
    mch := { coldMch with ways := s.mch.ways, prefetch := s.mch.prefetch, dist := s.mch.dist, enable := true
                          invDone := true }
    cfl := { s.cfl with fallback := false }
    kec := { s.kec with busy := false, suspended := 0 }
    slt := { s.slt with state := if s.slt.stageLen = 0 then 0 else 1, step := 0, rule := 0, failoff := 0 } }

/-- Steps 1 and 2 of Table SU-9: acceptance closes. -/
def warmClose (cause : Nat) (s : State) : State :=
  nextIncarn { s with
    sys := { s.sys with
      boot := .warm, step := 3, open' := false, closedWhy := 3, kind := 2, cause := cause, reqState := bootCode s.sys.boot
      reqTime := s.quartz, warmDeferred := none, unconfirmed := [] }
    pins := { s.pins with alive := .low } }

/-- Steps 3 to 5 of Table SU-9, with the reset record (Table FE-8). -/
def warmStop (cause : Nat) (s : State) : State :=
  let s := warmReset (warmEnd s)
  eventAt s.quartz kReset sevNotice noSource noInst false false
    (2 + cause * 2 ^ 8 + s.sys.reqState * 2 ^ 16 + s.quartz * 2 ^ 64) s

/-- PFAIL_N or RESET_N is asserted at a step of Table SU-9: the dump begins, and what RESET_N asks for follows it (R77). -/
def cutWarm (c : StartCut) (s : State) : State :=
  beginDump { s with
    sys := { s.sys with resetWaits := s.sys.resetWaits || !c.pfail }
    pins := { s.pins with pfailN := s.pins.pfailN && !c.pfail } }

/-- How many of the parts of steps 6 to 8 end before a step (`warmSteps`). -/
def warmBefore (step : Nat) : Nat := if step ≤ 6 then 0 else if step = 7 then 1 else if step = 8 then 4 else 6

/-- Steps 6 to 9 of Table SU-9. A mismatch of the image leads through a dump to an internal cold start, any other failure
through a dump to LODESTONE (R78). -/
def warmRun (w : WarmInputs) (s : State) : State :=
  let steps := match w.cut with
    | some c => (warmSteps w.test).take (warmBefore c.step)
    | none => warmSteps w.test
  match runSteps steps s with
  | .error e => beginDump (modStest (fun t => { t with durationUs := w.test.durationUs })
      { e.st with sys := { e.st.sys with afterDump := .lodestone e.reason e.step } })
  | .ok s => match w.cut with
    | some c => cutWarm c s
    | none =>
    if !w.imageMatches || s.dmc.imageLost then beginDump { s with sys := { s.sys with afterDump := .internalCold } }
    else
      let s := trainImagePorts (atStep 9 s)
      let s := openAcceptance 2 [] s
      modStest (fun t => { t with startKind := 2, durationUs := w.test.durationUs }) s

/-- A warm start (R75), with an assertion of PFAIL_N or RESET_N at one of its steps where there is one: at step 5 the dump
begins at the core release (R77). -/
def warmStart (cause : Nat) (w : WarmInputs) (s : State) : State :=
  let s := warmClose cause s
  match w.cut with
  | some c =>
    if c.step ≤ 3 then cutWarm c s
    else if c.step = 4 then cutWarm c (warmEnd s)
    else warmRun w (warmStop cause s)
  | none => warmRun w (warmStop cause s)

end Sys2Proof.Machine
end

