-- ==== Sys2Proof/Machine/Pins.lean ====
section
/-! DEFINITION. The control balls: RESET_N, PFAIL_N and the reference clock (R26, R37, R40–R44, R57, R58, R77, R376, R401),
the requests for a warm start and the internal cold start (R75–R78), and the test access port (R52, R53). -/

namespace Sys2Proof.Machine

open Sys2Proof

/-! ### The test access port -/

/-- The TAP instructions that drive the device's balls (R53). -/
def drivesBalls : Tap → Bool
  | .extest => true
  | .extestPulse => true
  | .extestTrain => true
  | .clamp => true
  | .highz => true
  | .bypass => false
  | .idcode => false

/-- IDCODE of stepping B0 (R52). -/
def idcodeValue : Nat := 0x20400B47

def setTap (t : Tap) (dr : Nat) (s : State) : State := { s with tck := { s.tck with tap := t, dr := dr } }

/-- The balls under an instruction that controls them: HIGHZ leaves them to the pulls of R34, the others to the
boundary-scan register, whose content the board's test patterns give (R53, log entry 114). -/
def ballsUnder (t : Tap) (s : State) : State :=
  { s with pins := { s.pins with media := if t = .highz then .released else .boundary, drst := false } }

/-- Such an instruction ends: the states of R33 return, within 1 µs. -/
def ballsReturn (s : State) : State := if drivesBalls s.tck.tap then pinsSafe s else s

/-- An instruction that controls balls takes effect only while RESET_N is low; otherwise the TAP selects BYPASS and a NOTICE
record is written (R53). While a dump still runs behind a falling RESET_N the balls are the dump's (log entry 114). -/
def ballInstruction (t : Tap) (s : State) : State :=
  if s.tck.resetN then notice kTest [] (setTap .bypass 0 s)
  else setTap t 0 (if s.sys.boot = .dump then s else ballsUnder t s)

/-- BYPASS works at any time (R53). -/
def execBypass (s : State) : Host.Outcome State Fault Refusal := .next (setTap .bypass 0 (ballsReturn s))

/-- IDCODE works at any time and returns the code of R52. -/
def execIdcode (s : State) : Host.Outcome State Fault Refusal := .next (setTap .idcode idcodeValue (ballsReturn s))

/-- EXTEST (R53). -/
def execExtest (s : State) : Host.Outcome State Fault Refusal := .next (ballInstruction .extest s)

/-- EXTEST_PULSE (R53). -/
def execExtestPulse (s : State) : Host.Outcome State Fault Refusal := .next (ballInstruction .extestPulse s)

/-- EXTEST_TRAIN (R53). -/
def execExtestTrain (s : State) : Host.Outcome State Fault Refusal := .next (ballInstruction .extestTrain s)

/-- CLAMP (R53). -/
def execClamp (s : State) : Host.Outcome State Fault Refusal := .next (ballInstruction .clamp s)

/-- HIGHZ (R53). -/
def execHighz (s : State) : Host.Outcome State Fault Refusal := .next (ballInstruction .highz s)

/-! ### Pin states -/

/-- Every rail is in tolerance. -/
def railsOk (s : State) : Bool := s.pins.rails.all Prod.snd

/-- PFAIL_N stops a start without a dump, also one that waits (R57). -/
def stopStart (s : State) : State :=
  match s.sys.hold with
  | .clock _ _ => inReset s
  | .no => { inReset s with sys := { (inReset s).sys with afterDump := s.sys.afterDump } }
  | .thermal _ _ => inReset s
  | .reset _ => inReset s

/-! ### The begin of a dump out of RUN (R26, R77, R401) -/

/-- PFAIL_N (wake source 1) or RESET_N (2) in RUN: an entry ends, DOZE and STOW are left, the dump begins; acceptance is closed
before anything that was landed is processed (Table PK-9, R401). -/
def failRun (src : Nat) (s : State) : State :=
  let s := { s with sys := { s.sys with boot := .dump, open' := false, closedWhy := 2 } }
  let s := if inEntry s then endEntry src 0 s else if 2 ≤ s.pwr.state then leaveDeep (wake src 0 s) else s
  settle (processHeld (beginDump s))

/-- PFAIL_N_ASSERT: a dump in RUN; no second one during a dump; a start stops without one; none in HALT, and LODESTONE holds
nothing to dump (R42, R57, R79, R376). -/
def execPfailNAssert (s : State) : Host.Outcome State Fault Refusal :=
  .next (if !s.pins.pfailN then s
    else
      let s := { s with pins := { s.pins with pfailN := false } }
      match s.sys.boot with
      | .run => failRun 1 s
      | .warm => failRun 1 s
      | .start => if s.tck.resetN then stopStart s else s
      | .lodestone => s
      | .dump => s
      | .safe => s
      | .halt => s)

/-- RESET_N_ASSERT: a power-fail warning in RUN, the cold start follows the dump (R26); during a dump it waits for its end
(R43); a start and LODESTONE end without a dump (R57, R80); HALT and SAFE wait for the minimum low time (R42, R376). -/
def execResetNAssert (s : State) : Host.Outcome State Fault Refusal :=
  .next (if !s.tck.resetN then s
    else
      let s := { s with
        tck := { s.tck with resetN := false }
        sys := { s.sys with reqState := bootCode s.sys.boot, reqTime := s.quartz } }
      let waits := { s with sys := { s.sys with resetWaits := true, hold := .no } }
      match s.sys.boot with
      | .run => failRun 2 waits
      | .warm => failRun 2 waits
      | .dump => { waits with pins := { s.pins with alive := .low } }
      | .start => inReset s
      | .lodestone => inReset s
      | .safe => { waits with pins := { s.pins with alive := .low } }
      | .halt => { waits with pins := { s.pins with coreOff := false } })

/-! ### Cold starts -/

/-- The kind and cause of a cold start at a rising edge of RESET_N: power-on, or RESET_N (SYS_LASTRESET). -/
def edgeKind (s : State) : Nat := if s.pins.poweredOn then 0 else 1

/-- The cold start of a rising edge of RESET_N. -/
def edgeStart (b : Board) (s : State) : State := settle (coldStart (edgeKind s) (edgeKind s) b s)

/-- RESET_N is low where its assertion stopped the start just run (R57). -/
def resetCut (c : Option StartCut) (s : State) : State :=
  match c with
  | some c =>
    if !c.pfail && s.sys.boot = .start && s.sys.hold = .no && !s.pins.coreOff then
      { s with tck := { s.tck with resetN := false }, sys := { s.sys with reqState := 1, reqTime := s.quartz } }
    else s
  | none => s

/-- RESET_N is low where its assertion began the dump out of the warm start just run (R77). -/
def resetWarmCut (c : Option StartCut) (s : State) : State :=
  match c with
  | some c =>
    if !c.pfail && s.sys.boot = .dump && s.sys.resetWaits then
      { s with tck := { s.tck with resetN := false }, pins := { s.pins with alive := .low }
               sys := { s.sys with reqState := 5, reqTime := s.quartz } }
    else s
  | none => s

/-- COLD_START: RESET_N rises, a TAP instruction that controls balls ends, the straps are sampled and Table SU-1 runs (R38,
R53, R54). Behind a dump, and in SAFE and HALT before the minimum low time has passed, the start waits (R26, R42, R43, R376). -/
def execColdStart (b : Board) (s : State) : Host.Outcome State Fault Refusal :=
  .next (if s.tck.resetN then s
    else
      let s := { s with tck := { s.tck with resetN := true } }
      let s := if drivesBalls s.tck.tap then setTap .bypass 0 s else s
      match s.sys.boot with
      | .dump => { s with sys := { s.sys with hold := .reset b }, pins := { s.pins with alive := .khz1 } }
      | .safe => { s with sys := { s.sys with hold := .reset b }, pins := { s.pins with alive := .high } }
      | .halt => { s with sys := { s.sys with hold := .reset b } }
      | .start => resetCut b.cut (edgeStart b s)
      | .run => resetCut b.cut (edgeStart b s)
      | .warm => resetCut b.cut (edgeStart b s)
      | .lodestone => resetCut b.cut (edgeStart b s))

/-- The reset that has waited takes effect: the device is in reset, and starts where RESET_N has risen. -/
def resetNow (s : State) : State :=
  match s.sys.hold with
  | .reset b => resetCut b.cut (edgeStart b (inReset s))
  | .no => inReset s
  | .clock _ _ => inReset s
  | .thermal _ _ => inReset s

/-- RESET_N_LOW_TIME_ELAPSED: in HALT and SAFE, RESET_N takes effect (R42, R376). -/
def execResetNLowTimeElapsed (s : State) : Host.Outcome State Fault Refusal :=
  .next (if (s.sys.boot = .halt || s.sys.boot = .safe) && s.sys.resetWaits then resetNow s else s)

/-- SYS_REFCLK_STABLE: a start that waits for it goes on (R37). -/
def execSysRefclkStable (s : State) : Host.Outcome State Fault Refusal :=
  let s := { s with pins := { s.pins with sysClk := true } }
  .next (match s.sys.hold with
    | .clock b kind => resetCut b.cut (settle (heatCheck b kind s))
    | .thermal _ _ => s
    | .reset _ => s
    | .no => s)

/-- Every junction reading is below 135 °C (R58). -/
def junctionCool (s : State) : Bool := s.thm.junction < 540 && s.thm.sites.all (· < 540)

/-- THERMAL_HOLD_END: once every reading is below 135 °C, the start held at step 2 resumes (R58). -/
def execThermalHoldEnd (s : State) : Host.Outcome State Fault Refusal :=
  .next (match s.sys.hold with
    | .thermal b _ => if junctionCool s then resetCut b.cut (settle (runStart b s)) else s
    | .clock _ _ => s
    | .reset _ => s
    | .no => s)

/-- COLD_POWER_UP: the rails come up with RESET_N low (R32, R33, R413). -/
def execColdPowerUp (s : State) : Host.Outcome State Fault Refusal := .next (powerUp s)

/-! ### The end of a dump -/

/-- Acceptance opens again without a reset: the ports retrain (R42). The dumped data stay valid, so no work before it can be
unconfirmed (R27); the core request is again at what the power state allows (R21). -/
def reopen (s : State) : State :=
  let s := trainImagePorts (clearRecent { s with
    sys := { s.sys with boot := .run, open' := true, closedWhy := 0, dumpBegun := false, dumpMarker := false
                        transport := true }
    pins := { s.pins with alive := .khz10, media := .active, drst := true } })
  let s := requestTo (max s.sys.vreq (floorMv s)) s
  settle (if s.qtz.unsent then notifyDerate 0 { s with qtz := { s.qtz with unsent := false } } else s)

/-- SAFE: the pin states of R33, ALIVE high (R42). -/
def enterSafe (s : State) : State :=
  let s := pinsSafe s
  { s with sys := { s.sys with boot := .safe, transport := false }, pins := { s.pins with alive := .high } }

/-- What follows a dump with its end marker while PFAIL_N is high (R42, R78). With a rail out of tolerance the device enters
SAFE (DESIGN CHOICE: R42 names no state for PFAIL_N high with a rail out of tolerance; log entry 115). -/
def afterMarker (s : State) : State :=
  match s.sys.afterDump with
  | .reopen => if railsOk s then reopen s else enterSafe s
  | .reset => inReset s
  | .internalCold =>
    let s := inReset s
    { s with sys := { s.sys with afterDump := .internalCold } }
  | .lodestone r step => enterLodestone r step s

/-- DUMP_END_MARKER: the marker is written and the media pins are safe, DRST0_N and DRST1_N with them (log entry 111); a
reset that waits takes effect (R26, R43); with PFAIL_N low the device enters SAFE (R42). -/
def execDumpEndMarker (s : State) : Host.Outcome State Fault Refusal :=
  .next (if s.sys.boot != .dump || s.sys.dumpMarker then s
    else
      let s := notice kDump [] { s with
        sys := { s.sys with dumpMarker := true }
        pins := { s.pins with media := .safe, drst := false } }
      if s.sys.resetWaits then resetNow s
      else if !s.pins.pfailN then enterSafe s
      else afterMarker s)

/-- PFAIL_N_RELEASE: PFAIL_N rises, in SAFE with every rail in tolerance; what follows the dump takes place (R42, R78). A dump
under way runs to its end marker all the same, and a rail that left tolerance in it is out until then (log entry 115). -/
def execPfailNRelease (s : State) : Host.Outcome State Fault Refusal :=
  let s : State := { s with pins := { s.pins with
    pfailN := true, rails := if s.sys.boot = .safe then [] else s.pins.rails } }
  .next (if s.sys.boot = .safe && s.tck.resetN && !s.sys.resetWaits then afterMarker s else s)

/-- INTERNAL_COLD_START: after the dump that follows a mismatch of the image, Table SU-1 runs from step 1 with no edge of
RESET_N (R78). -/
def execInternalColdStart (b : Board) (s : State) : Host.Outcome State Fault Refusal :=
  .next (if s.sys.boot = .start && s.sys.afterDump = .internalCold && s.tck.resetN then
      resetCut b.cut (settle (coldStart 3 4 b { s with sys := { s.sys with reqState := 5, reqTime := s.quartz } }))
    else s)

/-! ### Warm starts -/

/-- A warm start begins: an entry under way ends first, as at a request for RUN (R75). -/
def beginWarm (cause : Nat) (w : WarmInputs) (s : State) : State :=
  resetWarmCut w.cut (settle (warmStart cause w (if inEntry s then endEntry 9 0 s else s)))

/-- A request for a warm start waits: for the end of an apply (R76), or for the exit of DOZE or STOW. -/
def deferWarm (cause : Nat) (s : State) : State := { s with sys := { s.sys with warmDeferred := some cause } }

/-- A request for a warm start of a cause in RUN. -/
def askWarm (cause : Nat) (w : WarmInputs) (s : State) : State :=
  if s.slt.state = 4 then deferWarm cause s
  else if 2 ≤ s.pwr.state then wake 9 0 (deferWarm cause s)
  else beginWarm cause w s

/-- A request that finds one before it is ignored with a NOTICE record (R76). -/
def ignoreWarm (s : State) : State := notice kReset [2] s

/-- WARM_START: a write of SYS_RESETREQ, or a firmware activation (R75, R76). Outside RUN none is taken; while a warm start
runs its dump, or one waits, a second one is ignored with a record. -/
def execWarmStart (c : WarmCause) (w : WarmInputs) (s : State) : Host.Outcome State Fault Refusal :=
  .next (match c with
    | .manager v =>
      if bits v.toNat 16 16 != 0x57A3 || bits v.toNat 0 4 != 1 then regRefused 0x0000001C v.toNat s
      else if s.sys.boot != .run then (if s.sys.afterDump != .reopen then ignoreWarm s else s)
      else if s.sys.warmDeferred.isSome then ignoreWarm s
      else askWarm 2 w s
    | .activation =>
      if s.sys.boot != .run then (if s.sys.afterDump != .reopen then ignoreWarm s else s)
      else if s.sys.warmDeferred = some 2 then ignoreWarm s
      else askWarm 3 w s)

/-- WARM_START_DEFERRED: the request that waited proceeds once no apply runs (R76). -/
def execWarmStartDeferred (w : WarmInputs) (s : State) : Host.Outcome State Fault Refusal :=
  .next (match s.sys.warmDeferred with
    | none => s
    | some cause => if s.sys.boot = .run && s.slt.state != 4 && s.pwr.state < 2 then beginWarm cause w s else s)

end Sys2Proof.Machine
end

