-- ==== Sys2Proof/Machine/Dispatch.lean ====
section
/-! DEFINITION. The one dispatch: every command of spec/opcode_table.json, in the table's order, to its meaning. -/

namespace Sys2Proof.Machine

open Sys2Proof

def exec (i : Instr) (s : State) : Host.Outcome State Fault Refusal :=
  match i with
  | .coldStart b => Sys2Proof.Machine.execColdStart b s
  | .sysRefclkStable => Sys2Proof.Machine.execSysRefclkStable s
  | .thermalHoldEnd => Sys2Proof.Machine.execThermalHoldEnd s
  | .resetNAssert => Sys2Proof.Machine.execResetNAssert s
  | .pfailNAssert => Sys2Proof.Machine.execPfailNAssert s
  | .dumpEndMarker => Sys2Proof.Machine.execDumpEndMarker s
  | .pfailNRelease => Sys2Proof.Machine.execPfailNRelease s
  | .railOutOfTolerance r => Sys2Proof.Machine.execRailOutOfTolerance r s
  | .sysRefclkLoss => Sys2Proof.Machine.execSysRefclkLoss s
  | .portRefclkLoss port => Sys2Proof.Machine.execPortRefclkLoss port s
  | .linkDown l => Sys2Proof.Machine.execLinkDown l s
  | .linkUp l => Sys2Proof.Machine.execLinkUp l s
  | .warmStart c w => Sys2Proof.Machine.execWarmStart c w s
  | .warmStartDeferred w => Sys2Proof.Machine.execWarmStartDeferred w s
  | .internalColdStart b => Sys2Proof.Machine.execInternalColdStart b s
  | .bypass => Sys2Proof.Machine.execBypass s
  | .idcode => Sys2Proof.Machine.execIdcode s
  | .extest => Sys2Proof.Machine.execExtest s
  | .extestPulse => Sys2Proof.Machine.execExtestPulse s
  | .extestTrain => Sys2Proof.Machine.execExtestTrain s
  | .clamp => Sys2Proof.Machine.execClamp s
  | .highz => Sys2Proof.Machine.execHighz s
  | .pmbAlert status => Sys2Proof.Machine.execPmbAlert status s
  | .avsbusTransactionFail => Sys2Proof.Machine.execAvsbusTransactionFail s
  | .operatingPointAdjust cyclePs => Sys2Proof.Machine.execOperatingPointAdjust cyclePs s
  | .thermalMeasurement m => Sys2Proof.Machine.execThermalMeasurement m s
  | .thermalStepFall => Sys2Proof.Machine.execThermalStepFall s
  | .shutdown reading => Sys2Proof.Machine.execShutdown reading s
  | .derateForce v => Sys2Proof.Machine.execDerateForce v s
  | .dataFrame f => Sys2Proof.Machine.execDataFrame f s
  | .ackFrame f => Sys2Proof.Machine.execAckFrame f s
  | .probe f => Sys2Proof.Machine.execProbe f s
  | .resend f => Sys2Proof.Machine.execResend f s
  | .ackDelayExpiry j => Sys2Proof.Machine.execAckDelayExpiry j s
  | .gapRequestRepeat j => Sys2Proof.Machine.execGapRequestRepeat j s
  | .gapTimeout j => Sys2Proof.Machine.execGapTimeout j s
  | .retransmissionTimeout j => Sys2Proof.Machine.execRetransmissionTimeout j s
  | .regRead f => Sys2Proof.Machine.execRegRead f s
  | .regWrite f => Sys2Proof.Machine.execRegWrite f s
  | .lowWordRead addr => Sys2Proof.Machine.execLowWordRead addr s
  | .diagIdentify f => Sys2Proof.Machine.execDiagIdentify f s
  | .stestReport f => Sys2Proof.Machine.execStestReport f s
  | .recordRead f => Sys2Proof.Machine.execRecordRead f s
  | .certRead f => Sys2Proof.Machine.execCertRead f s
  | .measure f => Sys2Proof.Machine.execMeasure f s
  | .releaseBinding f => Sys2Proof.Machine.execReleaseBinding f s
  | .echo f => Sys2Proof.Machine.execEcho f s
  | .linkStatus f => Sys2Proof.Machine.execLinkStatus f s
  | .arpRequest l target vlan src => Sys2Proof.Machine.execArpRequest l target vlan src s
  | .neighborSolicitation l target vlan src => Sys2Proof.Machine.execNeighborSolicitation l target vlan src s
  | .pauseFrame l priority quanta => Sys2Proof.Machine.execPauseFrame l priority quanta s
  | .xoffRefresh port => Sys2Proof.Machine.execXoffRefresh port s
  | .read f => Sys2Proof.Machine.execRead f s
  | .write f => Sys2Proof.Machine.execWrite f s
  | .append f => Sys2Proof.Machine.execAppend f s
  | .zoneOpen f => Sys2Proof.Machine.execZoneOpen f s
  | .zoneClose f => Sys2Proof.Machine.execZoneClose f s
  | .zoneFinish f => Sys2Proof.Machine.execZoneFinish f s
  | .zoneReset f => Sys2Proof.Machine.execZoneReset f s
  | .zoneReport f => Sys2Proof.Machine.execZoneReport f s
  | .txnBegin f => Sys2Proof.Machine.execTxnBegin f s
  | .txnCommit f => Sys2Proof.Machine.execTxnCommit f s
  | .txnAbort f => Sys2Proof.Machine.execTxnAbort f s
  | .abort f => Sys2Proof.Machine.execAbort f s
  | .flush f => Sys2Proof.Machine.execFlush f s
  | .identify f => Sys2Proof.Machine.execIdentify f s
  | .counters f => Sys2Proof.Machine.execCounters f s
  | .mailboxSend f => Sys2Proof.Machine.execMailboxSend f s
  | .mailboxRead f => Sys2Proof.Machine.execMailboxRead f s
  | .keyLoad f => Sys2Proof.Machine.execKeyLoad f s
  | .keyErase f => Sys2Proof.Machine.execKeyErase f s
  | .keyRotate f => Sys2Proof.Machine.execKeyRotate f s
  | .acceptanceInstant j => Sys2Proof.Machine.execAcceptanceInstant j s
  | .twinWaitTimeout j => Sys2Proof.Machine.execTwinWaitTimeout j s
  | .keyUnwrapComplete j => Sys2Proof.Machine.execKeyUnwrapComplete j s
  | .txnTimeout j txnId => Sys2Proof.Machine.execTxnTimeout j txnId s
  | .journalPageProgrammed => Sys2Proof.Machine.execJournalPageProgrammed s
  | .nandReadComplete die plane o => Sys2Proof.Machine.execNandReadComplete die plane o s
  | .cipherBlockComplete j slot blk o => Sys2Proof.Machine.execCipherBlockComplete j slot blk o s
  | .missSubwindowEnd j => Sys2Proof.Machine.execMissSubwindowEnd j s
  | .nandProgramComplete die pass => Sys2Proof.Machine.execNandProgramComplete die pass s
  | .nandEraseComplete die pass => Sys2Proof.Machine.execNandEraseComplete die pass s
  | .operationLimit die => Sys2Proof.Machine.execOperationLimit die s
  | .dieResetTimeout die => Sys2Proof.Machine.execDieResetTimeout die s
  | .suspensionTimeout die => Sys2Proof.Machine.execSuspensionTimeout die s
  | .stagingExtentTimeout j zone => Sys2Proof.Machine.execStagingExtentTimeout j zone s
  | .patrolScrub j conv addr o => Sys2Proof.Machine.execPatrolScrub j conv addr o s
  | .rebuildComplete die => Sys2Proof.Machine.execRebuildComplete die s
  | .zqCalibrationShort ch retrainOk => Sys2Proof.Machine.execZqCalibrationShort ch retrainOk s
  | .retrain ch v ok => Sys2Proof.Machine.execRetrain ch v ok s
  | .flipBits ch v => Sys2Proof.Machine.execFlipBits ch v s
  | .failProgramStatus ch v => Sys2Proof.Machine.execFailProgramStatus ch v s
  | .failEraseStatus ch v => Sys2Proof.Machine.execFailEraseStatus ch v s
  | .holdDieBusy ch v => Sys2Proof.Machine.execHoldDieBusy ch v s
  | .failTraining ch v => Sys2Proof.Machine.execFailTraining ch v s
  | .handshakeTimeout src stage master => Sys2Proof.Machine.execHandshakeTimeout src stage master s
  | .faultLineError src addr master access => Sys2Proof.Machine.execFaultLineError src addr master access s
  | .lineBroken src => Sys2Proof.Machine.execLineBroken src s
  | .captureWindowClose => Sys2Proof.Machine.execCaptureWindowClose s
  | .internalDeadlineMiss src row step => Sys2Proof.Machine.execInternalDeadlineMiss src row step s
  | .firstValidClear v => Sys2Proof.Machine.execFirstValidClear v s
  | .faultInjection v => Sys2Proof.Machine.execFaultInjection v s
  | .recordWrite => Sys2Proof.Machine.execRecordWrite s
  | .obsRdwinRead word => Sys2Proof.Machine.execObsRdwinRead word s
  | .obsHeadRead => Sys2Proof.Machine.execObsHeadRead s
  | .bpmFreeRead pool => Sys2Proof.Machine.execBpmFreeRead pool s
  | .talClr v => Sys2Proof.Machine.execTalClr v s
  | .bandwidthWindowEnd rx tx => Sys2Proof.Machine.execBandwidthWindowEnd rx tx s
  | .dramRefresh ch onTime => Sys2Proof.Machine.execDramRefresh ch onTime s
  | .mr4Read ch rate => Sys2Proof.Machine.execMr4Read ch rate s
  | .trainingGather ch drift marginOk => Sys2Proof.Machine.execTrainingGather ch drift marginOk s
  | .setPointChange v => Sys2Proof.Machine.execSetPointChange v s
  | .dramScrub ch addr corrected => Sys2Proof.Machine.execDramScrub ch addr corrected s
  | .dramUncorrectableRead half addr port otherOk corr => Sys2Proof.Machine.execDramUncorrectableRead half addr port otherOk corr s
  | .copyRebuildComplete ch => Sys2Proof.Machine.execCopyRebuildComplete ch s
  | .dramRequestInSelfRefresh port => Sys2Proof.Machine.execDramRequestInSelfRefresh port s
  | .writeDataOnly v => Sys2Proof.Machine.execWriteDataOnly v s
  | .writeCheckBlockOnly v => Sys2Proof.Machine.execWriteCheckBlockOnly v s
  | .rawRead v => Sys2Proof.Machine.execRawRead v s
  | .cacheFillComplete part line way poison write => Sys2Proof.Machine.execCacheFillComplete part line way poison write s
  | .mchEnable v => Sys2Proof.Machine.execMchEnable v s
  | .invall v => Sys2Proof.Machine.execInvall v s
  | .mchLock way => Sys2Proof.Machine.execMchLock way s
  | .clean v => Sys2Proof.Machine.execClean v s
  | .inval v => Sys2Proof.Machine.execInval v s
  | .cleanInval v => Sys2Proof.Machine.execCleanInval v s
  | .hwtLockRelease line => Sys2Proof.Machine.execHwtLockRelease line s
  | .trngHealthWindow repetitionOk proportionOk => Sys2Proof.Machine.execTrngHealthWindow repetitionOk proportionOk s
  | .trngRetest pass => Sys2Proof.Machine.execTrngRetest pass s
  | .maskReseed half => Sys2Proof.Machine.execMaskReseed half s
  | .gracePeriodEnd j => Sys2Proof.Machine.execGracePeriodEnd j s
  | .attestationRequest v => Sys2Proof.Machine.execAttestationRequest v s
  | .attestationDone => Sys2Proof.Machine.execAttestationDone s
  | .installTestKey v => Sys2Proof.Machine.execInstallTestKey v s
  | .zeroSlot v => Sys2Proof.Machine.execZeroSlot v s
  | .laneTest v katPass => Sys2Proof.Machine.execLaneTest v katPass s
  | .cflProgram p => Sys2Proof.Machine.execCflProgram p s
  | .cflErase p => Sys2Proof.Machine.execCflErase p s
  | .eraseBank p => Sys2Proof.Machine.execEraseBank p s
  | .cflRead p => Sys2Proof.Machine.execCflRead p s
  | .verify p sigOk => Sys2Proof.Machine.execVerify p sigOk s
  | .activate p => Sys2Proof.Machine.execActivate p s
  | .cflOperationComplete bank withinLimit => Sys2Proof.Machine.execCflOperationComplete bank withinLimit s
  | .cflResume bank => Sys2Proof.Machine.execCflResume bank s
  | .release j v => Sys2Proof.Machine.execRelease j v s
  | .doorbell j v => Sys2Proof.Machine.execDoorbell j v s
  | .slateStageWrite addr v => Sys2Proof.Machine.execSlateStageWrite addr v s
  | .check v => Sys2Proof.Machine.execCheck v s
  | .apply v => Sys2Proof.Machine.execApply v s
  | .discard v => Sys2Proof.Machine.execDiscard v s
  | .slateDrainComplete => Sys2Proof.Machine.execSlateDrainComplete s
  | .slateDrainTimeout => Sys2Proof.Machine.execSlateDrainTimeout s
  | .epochRecordProgrammed => Sys2Proof.Machine.execEpochRecordProgrammed s
  | .commitMarkProgrammed copyA copyB => Sys2Proof.Machine.execCommitMarkProgrammed copyA copyB s
  | .pwrReqRun v => Sys2Proof.Machine.execPwrReqRun v s
  | .pwrReqTrim v => Sys2Proof.Machine.execPwrReqTrim v s
  | .pwrReqDoze v => Sys2Proof.Machine.execPwrReqDoze v s
  | .pwrReqStow v => Sys2Proof.Machine.execPwrReqStow v s
  | .powerPolicyWrite v => Sys2Proof.Machine.execPowerPolicyWrite v s
  | .idleTimeout => Sys2Proof.Machine.execIdleTimeout s
  | .timerWake => Sys2Proof.Machine.execTimerWake s
  | .prepare o => Sys2Proof.Machine.execPrepare o s
  | .frameWake l => Sys2Proof.Machine.execFrameWake l s
  | .exitComplete => Sys2Proof.Machine.execExitComplete s
  | .coldPowerUp => Sys2Proof.Machine.execColdPowerUp s
  | .resetNLowTimeElapsed => Sys2Proof.Machine.execResetNLowTimeElapsed s
  | .dieSuspended die => Sys2Proof.Machine.execDieSuspended die s
  | .suspensionCapReached die => Sys2Proof.Machine.execSuspensionCapReached die s
  | .dieResetAnswered die => Sys2Proof.Machine.execDieResetAnswered die s
  | .avsbusAcknowledge mv => Sys2Proof.Machine.execAvsbusAcknowledge mv s
  | .evictionWritebackComplete part line => Sys2Proof.Machine.execEvictionWritebackComplete part line s
  | .silentlyDroppedFrame l f => Sys2Proof.Machine.execSilentlyDroppedFrame l f s
  | .badHeaderFrame e type => Sys2Proof.Machine.execBadHeaderFrame e type s

end Sys2Proof.Machine
end

