-- ==== Sys2Proof/Machine/Idle.lean ====
section
/-! DEFINITION. The idle tick: Quartz time advances while no command waits (R7, log entry 1). -/

namespace Sys2Proof.Machine

open Sys2Proof

/-- Links whose pause ends now. -/
def endedPauses (s : State) : List Nat := (s.pins.paused.filter fun p => p.2 ≤ s.quartz).map Prod.fst

/-- The counters of time in group 0x0109: the power state while the device is in RUN, and the derate step (Table FE-12). -/
def countTime (s : State) : State :=
  if s.sys.boot = .run then tally noInst 0x0109 (min 3 s.pwr.state) 1 (tally noInst 0x0109 (6 + min 4 s.qtz.step) 1 s)
  else s

/-- One nanosecond of Quartz time; none where the count of 64 bits is spent (R7). The DIAG responder has answered what
waited (R82), in RUN a checkpoint segment is written (R268, log entry 125), frames held by a pause that has ended leave
(R88), and reports and mailbox messages are delivered (R149, log entry 118). -/
def idleTick (s : State) : Option State :=
  if s.quartz + 1 < 2 ^ 64 then
    let s := countTime { s with quartz := s.quartz + 1, sys := { s.sys with diagQueue := [0, 0] } }
    let s := if s.sys.boot = .run then checkpoint s else s
    some (deliverDue ((endedPauses s).foldl (fun s l => flushPaused l s) s))
  else none

end Sys2Proof.Machine
end

