-- ==== Sys2Proof/Machine/Step.lean ====
section
/-! DEFINITION. One step: the command at the front of the queue, or one tick of Quartz time while none waits. -/

namespace Sys2Proof.Machine

open Sys2Proof

/-- The state with the command that a table word spells at the front of its queue; unchanged where it spells none. -/
def State.withFetchWord (s : State) (nbits w : Nat) : State :=
  match decodeTableWord nbits w with
  | some c => { s with pending := c :: s.pending }
  | none => s

/-- One step: the front command's effect with the queue's rest; on an empty queue, one idle tick (log entry 1). -/
def step (s : State) : Host.Outcome State Fault Refusal :=
  match s.pending with
  | c :: rest => exec c { s with pending := rest }
  | [] => match idleTick s with
    | some s' => .next s'
    | none => .fault .quartzSpent

end Sys2Proof.Machine
end

