-- ==== Sys2Proof/Safety.lean ====
section
/-! DEFINITION. What counts as a safe state, in the terms the statements use. -/

namespace Sys2Proof.Safety

open Sys2Proof Sys2Proof.Machine

/-- The test access port drives balls only while RESET_N is low (R53). -/
def TapInv (s : State) : Prop := drivesBalls s.tck.tap = true → s.tck.resetN = false

/-- Bounds of the event FIFO and of the severe-record ring (R382, R383). -/
def RingsOk (o : Obs) : Prop := o.fifo.length ≤ 64 ∧ o.severe.length ≤ 32

/-- Fuses only go up: a binding stays bound to its operator, its floor and the firmware floor do not fall, and a void
binding stays void (R69, R71, R364). -/
def FusesLe (a b : Fuses) : Prop :=
  a.svnFloor ≤ b.svnFloor ∧ ∀ (n : Nat) (x : Binding), a.bindings[n]? = some x →
    ∃ y, b.bindings[n]? = some y ∧ y.operatorId = x.operatorId ∧ x.floor ≤ y.floor ∧ (x.void = true → y.void = true)

/-- The addressed memories are in their canonical form: the granules and the sector headers of the code flash (R357), the
DRAM test window and its check blocks (R340), the Slate staging window (R285). -/
def BuffersOk (s : State) : Prop :=
  memWf (BitVec.allOnes 2048) s.cfl.mem = true ∧ memWf blankHdr s.cfl.hdrs = true ∧ memWf 0 s.dmc.window = true ∧
    amSorted s.dmc.checks = true ∧ memWf 0 s.slt.stage = true

/-- What records and counters may change between two states: the recorder, the tally counters, the units counted in the
bandwidth window and FCL_STATUS.CONTAINED; everything else is the same. -/
def Recorded (s t : State) : Prop :=
  t = { s with obs := t.obs
               tal := { s.tal with ctrs := t.tal.ctrs, rxUnits := t.tal.rxUnits, txUnits := t.tal.txUnits }
               fcl := { s.fcl with contained := t.fcl.contained } }

/-- What frames that leave may change between two states: the instances' transport, the frames sent and those that a pause
holds, the counts of the Ethernet block, and what records and counters change; everything else is the same. -/
def Transported (s t : State) : Prop :=
  t = { s with
    insts := t.insts, wire := t.wire, obs := t.obs, pins := { s.pins with pauseQ := t.pins.pauseQ }
    eth := { s.eth with silent := t.eth.silent, ovfSilent := t.eth.ovfSilent, rejsupp := t.eth.rejsupp
                        ovfRej := t.eth.ovfRej, unknownSrc := t.eth.unknownSrc }
    tal := { s.tal with ctrs := t.tal.ctrs, rxUnits := t.tal.rxUnits, txUnits := t.tal.txUnits }
    fcl := { s.fcl with contained := t.fcl.contained } }

/-! ### Up frames -/

/-- The OPCODE and the command of each task type (Table CM-2). -/
def taskTypes : List (Nat × (TaskFrame → Instr)) :=
  [(0x01, .read), (0x02, .write), (0x03, .append), (0x04, .zoneOpen), (0x05, .zoneClose), (0x06, .zoneFinish),
   (0x07, .zoneReset), (0x08, .zoneReport), (0x09, .txnBegin), (0x0A, .txnCommit), (0x0B, .txnAbort), (0x0C, .abort),
   (0x0D, .flush), (0x0E, .identify), (0x0F, .counters), (0x10, .mailboxSend), (0x11, .mailboxRead), (0x12, .keyLoad),
   (0x13, .keyErase), (0x14, .keyRotate)]

/-- The commands that bring a sequenced up frame, each with its frame: the 20 task types, DATA and the MGMT requests. -/
def upCommands (f : TaskFrame) (d : DataFrame) (m : MgmtFrame) : List (Instr × Up) :=
  taskTypes.map (fun p => (p.2 f, Up.task f)) ++ [(.dataFrame d, .data d), (.regRead m, .mgmt m), (.regWrite m, .mgmt m)]

/-- The DIAG commands, by OP. -/
def diagTypes : List (Nat × (DiagFrame → Instr)) :=
  [(1, .diagIdentify), (2, .stestReport), (3, .recordRead), (4, .certRead), (5, .measure), (6, .releaseBinding), (7, .echo),
   (8, .linkStatus)]

/-- The state after a sequenced frame is counted on its link. -/
def counted (u : Up) (s : State) : State := countIn (upEnv u).link.val (upBytes s (upEnv u)) s

/-- A sequenced frame reaches the device: its link is up, the device runs and is awake, and the encapsulation is enabled. -/
def Reaches (u : Up) (s : State) : Prop :=
  linkUp s (upEnv u).link.val = true ∧ s.sys.boot = .run ∧ s.pwr.state < 2 ∧ outerOk s (upEnv u) = true

/-- A sequenced frame is valid for an instance: acceptance is open, the header is sound, and the instance it names is
created and has this source and link (R93, R95). -/
def ValidFor (u : Up) (x : Inst) (s : State) : Prop :=
  s.sys.open' = true ∧ upHeaderBad u = none ∧ inst? s (upEnv u).hdr.inst.toNat = some x ∧
    sourceOk (upEnv u).hdr.inst.toNat x (upType u) (upEnv u) = true

/-- The state after a valid frame is counted, its sender kept and its ACK field taken (R91, R105). -/
def received (u : Up) (s : State) : State :=
  takeAck (upEnv u).hdr.inst.toNat (upEnv u) (upType u)
    (markValid (upEnv u).hdr.inst.toNat (upEnv u) (counted u s))

end Sys2Proof.Safety
end

