-- ==== Sys2Proof/Certificates/Slice0/Obligations.lean ====
section
/-! DEFINITION. The statements for the provers. -/

open Sys2Proof Sys2Proof.Machine Sys2Proof.Safety

/-! ### The queue and the whole machine -/

/-- A step takes the command at the front of the queue: it is `exec` of that command with the queue's rest. The queue
is the model's (log entry 2). -/
def Obligations.StepRunsTheFrontCommand : Prop :=
  ∀ (c : Instr) (l : List Instr) (s : State),
    step { s with pending := c :: l } = exec c { s with pending := l }

/-- With no command waiting, a step lets one nanosecond of Quartz time pass; at the last count of 64 bits it stops with
the fault of its own name. The tick is the model's choice (log entry 1). -/
def Obligations.EmptyQueueLetsOneNanosecondPass : Prop :=
  ∀ s : State, s.pending = [] →
    (s.quartz + 1 < 2 ^ 64 → ∃ t, step s = .next t ∧ t.quartz = s.quartz + 1 ∧ t.pending = []) ∧
    (2 ^ 64 ≤ s.quartz + 1 → step s = .fault .quartzSpent)

/-- Every command completes in every state, and touches no other command that waits. -/
def Obligations.EveryCommandAnswersANextState : Prop :=
  ∀ (c : Instr) (s : State), ∃ t, exec c s = .next t ∧ t.pending = s.pending

/-- The machine right after reset meets the invariants of the statements below: the test access port drives no ball
while RESET_N is high, the recorder's rings keep their bounds, the addressed memories are canonical. -/
def Obligations.ResetMeetsTheInvariants : Prop :=
  TapInv State.reset ∧ RingsOk State.reset.obs ∧ BuffersOk State.reset

/-- R53: a TAP instruction that controls balls is in force only while RESET_N is low; every step keeps it so. -/
def Obligations.TapDrivesBallsOnlyInReset : Prop :=
  ∀ s t : State, TapInv s → step s = .next t → TapInv t

/-- R382, R383: the event FIFO never holds more than 64 entries, and the severe-record ring never more than 32; every
step keeps it so. -/
def Obligations.RecorderRingsKeepTheirBounds : Prop :=
  ∀ s t : State, RingsOk s.obs → step s = .next t → RingsOk t.obs

/-- The granules and sector headers of the code flash, the DRAM test window with its check blocks and the Slate staging
window stay in their canonical form: keys rising, no entry equal to what an unlisted key reads as. -/
def Obligations.AddressedMemoriesStayCanonical : Prop :=
  ∀ s t : State, BuffersOk s → step s = .next t → BuffersOk t

/-- R381: SEQ counts every record of the device and does not go back; only the removal of power ends the count. -/
def Obligations.RecordNumbersNeverGoBack : Prop :=
  ∀ s t : State, s.pending.head? ≠ some .coldPowerUp → step s = .next t → s.obs.seq ≤ t.obs.seq

/-- R71, R364: fuses only go up, whatever is commanded and across every start: a binding keeps its operator, its
key-version floor does not fall and its void mark stays; the firmware floor does not fall. -/
def Obligations.FusesNeverGoBack : Prop :=
  ∀ s t : State, step s = .next t → FusesLe s.fuses t.fuses

/-! ### The test port, the records and the starts -/

/-- BYPASS and IDCODE work at any time, IDCODE with the code of stepping B0; nothing else changes, but that balls which an
instruction has controlled return to the states of R33 (R52, R53). EXTEST, EXTEST_PULSE, EXTEST_TRAIN and CLAMP hand the
balls to the boundary-scan register and HIGHZ releases them, while RESET_N is low; while a dump still runs the balls are
the dump's (log entry 114). While RESET_N is high the TAP selects BYPASS instead and one record of severity NOTICE is
written; nothing else changes (R53). -/
def Obligations.TestPortInstructions : Prop :=
  (∀ s : State, drivesBalls s.tck.tap = false →
     exec .bypass s = .next { s with tck := { s.tck with tap := .bypass, dr := 0 } } ∧
     exec .idcode s = .next { s with tck := { s.tck with tap := .idcode, dr := 0x20400B47 } }) ∧
  (∀ s : State, drivesBalls s.tck.tap = true →
     (∃ t, exec .bypass s = .next t ∧ t.tck = { s.tck with tap := .bypass, dr := 0 } ∧
       (vccqOk s = true → t.pins.media = .safe) ∧ t.pins.drst = false ∧ t.insts = s.insts ∧ t.med = s.med) ∧
     (∃ t, exec .idcode s = .next t ∧ t.tck = { s.tck with tap := .idcode, dr := 0x20400B47 } ∧
       (vccqOk s = true → t.pins.media = .safe) ∧ t.pins.drst = false ∧ t.insts = s.insts ∧ t.med = s.med)) ∧
  (∀ (c : Instr) (k : Tap) (s : State),
     (c, k) ∈ [(Instr.extest, Tap.extest), (.extestPulse, .extestPulse), (.extestTrain, .extestTrain), (.clamp, .clamp),
       (.highz, .highz)] →
     (s.tck.resetN = false → s.sys.boot ≠ .dump → exec c s = .next { s with
       tck := { s.tck with tap := k, dr := 0 }
       pins := { s.pins with media := if k = .highz then .released else .boundary, drst := false } }) ∧
     (s.tck.resetN = false → s.sys.boot = .dump →
       exec c s = .next { s with tck := { s.tck with tap := k, dr := 0 } }) ∧
     (s.tck.resetN = true →
       exec c s = .next (notice kTest [] { s with tck := { s.tck with tap := .bypass, dr := 0 } })))

/-- A record changes the recorder, its counters and FCL_STATUS.CONTAINED, and nothing else; it takes the next SEQ, and
the next ISEQ of the instance it names (R381); a CONTAIN record sets CONTAINED (Table FE-1). Where the FIFO has
room for its severity, a record enters it as the newest entry with the fields of Table FE-6: the last four of the
64 entries take only CONTAIN and HALT events (R382). RECORD_WRITE: with no event lost, the writer takes the oldest
entry of the FIFO and no other, and writes it into its recorders; no number changes. On an empty FIFO nothing
happens (R382). -/
def Obligations.RecordsEnterAndLeaveTheFifoInOrder : Prop :=
  (∀ (code sev source inst : Nat) (args : List Nat) (s : State),
     ∃ o : Obs, ∃ cs : List (Nat × Ctr),
       event code sev source inst args s =
         { s with obs := o, tal := { s.tal with ctrs := cs }
                  fcl := { s.fcl with contained := s.fcl.contained || decide (sev = sevContain) } } ∧
       o.seq = s.obs.seq + 1 ∧
       (inst ≠ noInst → amGetD o.iseq inst 0 = amGetD s.obs.iseq inst 0 + 1) ∧
       (∀ i, i ≠ inst → amGetD o.iseq i 0 = amGetD s.obs.iseq i 0)) ∧
  (∀ (code sev source inst : Nat) (args : List Nat) (s : State),
     (s.obs.fifo.length < 60 ∨ (s.obs.fifo.length < 64 ∧ sevContain ≤ sev) →
       ∃ r : Rec, (event code sev source inst args s).obs.fifo = s.obs.fifo ++ [r] ∧
         r.seq = s.obs.seq ∧ r.time = s.quartz ∧ r.code = code ∧ r.severity = sev ∧ r.source = source ∧
         r.inst = inst ∧ r.incarn = s.sys.incarn ∧ r.derate = s.qtz.step ∧ r.payload = argsPayload args) ∧
     (¬ (s.obs.fifo.length < 60 ∨ (s.obs.fifo.length < 64 ∧ sevContain ≤ sev)) →
       (event code sev source inst args s).obs.fifo = s.obs.fifo ∧
         (event code sev source inst args s).obs.lostLast = s.obs.seq)) ∧
  (∀ s : State,
     (s.obs.fifo = [] → exec .recordWrite s = .next s) ∧
     (∀ r l, s.obs.fifo = r :: l → s.obs.lostCount = 0 → ∃ t, exec .recordWrite s = .next t ∧
       t = { s with obs := t.obs, tal := { s.tal with ctrs := t.tal.ctrs } } ∧ t.obs.fifo = l ∧ t.obs.seq = s.obs.seq))

/-- RESET_N_ASSERT in a start and in LODESTONE: the device stands in reset without a dump, with the pin states of R33
and ALIVE low; acceptance is closed, no link is up (R44, R57, R80). RESET_N or PFAIL_N asserted in RUN, with no
power entry under way: acceptance closes and the dump of Table PK-9 begins, before anything that was landed is
processed; behind a RESET_N assertion the cold start waits for its end (R26, R42, R77). What such a begin leaves:
DUMP, the instances' accepted work and the media maps untouched, ALIVE at 1 kHz while RESET_N is high (R26, R44). A
second assertion of PFAIL_N changes nothing, and neither does one of RESET_N while it is low; during a dump a RESET_N
assertion only makes the cold start wait for its end, with ALIVE low (R43, R44). -/
def Obligations.ControlBallAssertions : Prop :=
  (∀ s : State, s.tck.resetN = true → (s.sys.boot = .start ∨ s.sys.boot = .lodestone) →
     ∃ t, exec .resetNAssert s = .next t ∧ t.tck.resetN = false ∧ t.sys.boot = .start ∧ t.sys.open' = false ∧
       t.pins.alive = .low ∧ (vccqOk s = true → t.pins.media = .safe) ∧ t.pins.drst = false ∧ t.eth.up = 0 ∧
       t.insts = s.insts ∧ t.med = s.med ∧ t.fuses = s.fuses ∧ t.obs = s.obs) ∧
  (∀ s : State, s.sys.boot = .run → s.pwr.phase = 0 → s.pwr.state < 2 →
     (s.tck.resetN = true → ∃ u, exec .resetNAssert s = .next (settle (processHeld u)) ∧
       u = beginDump { s with
         tck := { s.tck with resetN := false }
         sys := { s.sys with reqState := bootCode .run, reqTime := s.quartz, resetWaits := true, hold := .no
                             boot := .dump, open' := false, closedWhy := 2 } } ∧
       u.sys.boot = .dump ∧ u.sys.open' = false ∧ u.sys.resetWaits = true ∧ u.pins.alive = .low ∧ u.insts = s.insts ∧
       u.med.sbs = s.med.sbs ∧ u.fuses = s.fuses) ∧
     (s.pins.pfailN = true → ∃ u, exec .pfailNAssert s = .next (settle (processHeld u)) ∧
       u = beginDump { s with
         pins := { s.pins with pfailN := false }
         sys := { s.sys with boot := .dump, open' := false, closedWhy := 2 } } ∧
       u.sys.boot = .dump ∧ u.sys.open' = false ∧ u.sys.resetWaits = s.sys.resetWaits ∧ u.insts = s.insts ∧
       (s.tck.resetN = true → u.pins.alive = .khz1) ∧ u.med.sbs = s.med.sbs ∧ u.fuses = s.fuses)) ∧
  (∀ s : State,
     (s.pins.pfailN = false → exec .pfailNAssert s = .next s) ∧
     (s.tck.resetN = false → exec .resetNAssert s = .next s) ∧
     (s.sys.boot = .dump → s.tck.resetN = true → exec .resetNAssert s = .next { s with
       tck := { s.tck with resetN := false }
       sys := { s.sys with reqState := bootCode .dump, reqTime := s.quartz, resetWaits := true, hold := .no }
       pins := { s.pins with alive := .low } }))

/-- What the begin of a dump does: the state is DUMP, acceptance is closed, ALIVE is at 1 kHz, or low while RESET_N is low,
no end marker stands; no instance's accepted work and no media map entry is touched (R26, R44). DUMP_END_MARKER: the
marker is set, one DUMP record is written and the media pins are safe. Then, with no reset waiting: with PFAIL_N low
the device enters SAFE, with ALIVE high and the pin states of R33 (R42). -/
def Obligations.DumpClosesAcceptanceAndEndsInSafe : Prop :=
  (∀ s : State, (beginDump s).sys.boot = .dump ∧ (beginDump s).sys.open' = false ∧
     (beginDump s).sys.dumpBegun = true ∧ (beginDump s).sys.dumpMarker = false ∧
     (beginDump s).pins.alive = (if s.tck.resetN then .khz1 else .low) ∧
     (beginDump s).insts = s.insts ∧ (beginDump s).jrn = s.jrn ∧ (beginDump s).med.sbs = s.med.sbs ∧
     (beginDump s).fuses = s.fuses) ∧
  (∀ s : State, s.sys.boot = .dump → s.sys.dumpMarker = false → s.sys.resetWaits = false → s.pins.pfailN = false →
     ∃ t, exec .dumpEndMarker s = .next t ∧ t.sys.boot = .safe ∧ t.sys.dumpMarker = true ∧ t.sys.transport = false ∧
       t.pins.alive = .high ∧ (vccqOk s = true → t.pins.media = .safe) ∧ t.pins.drst = false ∧ t.eth.up = 0 ∧
       t.insts = s.insts ∧ t.obs.seq = s.obs.seq + 1)

/-- PFAIL_N_RELEASE in SAFE, with every rail in tolerance and no reset waiting: what follows the dump takes place; where it
is the return to service, the device is in RUN with acceptance open, the media pins active and ALIVE at 10 kHz, and what
waits goes on. In a dump only the level of PFAIL_N changes (R42).
RESET_N_LOW_TIME_ELAPSED in HALT and SAFE: the reset that has waited takes effect; where RESET_N has not risen yet
the device stands in reset (R42, R376). -/
def Obligations.ReleaseAndResetAfterTheDump : Prop :=
  (∀ s : State, s.sys.boot = .safe → s.tck.resetN = true → s.sys.resetWaits = false → s.sys.afterDump = .reopen →
     s.qtz.unsent = false → ∃ u,
       exec .pfailNRelease s = .next (settle u) ∧
       exec .pfailNRelease s = .next (reopen { s with pins := { s.pins with pfailN := true, rails := [] } }) ∧
       u.sys.boot = .run ∧ u.sys.open' = true ∧ u.sys.transport = true ∧ u.pins.alive = .khz10 ∧
       u.pins.media = .active ∧ u.pins.pfailN = true ∧ u.med = s.med ∧ u.fuses = s.fuses ∧
       u.insts.map Prod.fst = s.insts.map Prod.fst) ∧
  (∀ s : State, s.sys.boot = .dump → exec .pfailNRelease s = .next { s with pins := { s.pins with pfailN := true } }) ∧
  (∀ s : State, (s.sys.boot = .halt ∨ s.sys.boot = .safe) → s.sys.resetWaits = true →
     (∀ b, s.sys.hold ≠ .reset b) →
     ∃ t, exec .resetNLowTimeElapsed s = .next t ∧ t.sys.boot = .start ∧ t.sys.resetWaits = false ∧
       t.pins.alive = .low ∧ (vccqOk s = true → t.pins.media = .safe) ∧ t.insts = s.insts ∧ t.fuses = s.fuses)

/-- COLD_START while SYS_REFCLK is absent: the device stays in reset with ALIVE low and the pin states of R33, and the
start waits for the clock with the straps as sampled; Quartz time is 0 and acceptance is closed (R7, R37, R38). A
TAP instruction that controls balls has ended (R53). SYS_REFCLK_STABLE lets the start that waits for it go on, with a
junction above 145 °C as far as step 2, where it is held; THERMAL_HOLD_END lets that one go on once every reading is
below 135 °C (R37, R58); with no start waiting, SYS_REFCLK_STABLE only says that the clock is there. COLD_START with
the clock present and the junction at or below 145 °C: step 1 clears what Table SU-14 clears, the steps of Table SU-1
run from step 2, and the device settles (R38, R54). INTERNAL_COLD_START does the same with no edge of RESET_N and the
straps kept (R78). A start whose logic self-test fails ends in LODESTONE with reason LBIST at step 3: acceptance is
closed, the media pins are safe, ALIVE is at 100 Hz, and no fuse is programmed (R70, R80, Table SU-2). -/
def Obligations.ColdStartWaitsOrRunsItsSteps : Prop :=
  (∀ (b : Board) (s : State), s.tck.resetN = false → s.sys.boot = .start → s.pins.sysClk = false →
     (s.slt.state ≠ 4 ∨ s.slt.step ≠ 7) →
     ∃ t, exec (.coldStart b) s = .next t ∧ t.tck.resetN = true ∧ drivesBalls t.tck.tap = false ∧
       t.sys.boot = .start ∧ t.sys.hold = .clock b (if s.pins.poweredOn then 0 else 1) ∧ t.sys.straps = b.straps ∧
       t.sys.open' = false ∧ t.quartz = 0 ∧ t.pins.alive = .low ∧ t.pins.media = .safe ∧ t.fuses = s.fuses) ∧
  (∀ (b : Board) (k : Nat) (s : State),
     (s.sys.hold = .clock b k → b.junction ≤ 580 → b.cut = none → exec .sysRefclkStable s =
       .next (settle (runStart b (thermalRise { s with pins := { s.pins with sysClk := true } })))) ∧
     (s.sys.hold = .clock b k → 580 < b.junction → b.junction ≤ 632 → s.sys.boot = .start →
       ∃ t, exec .sysRefclkStable s = .next t ∧ t.sys.boot = .start ∧ t.sys.step = 2 ∧ t.sys.hold = .thermal b k ∧
         t.pins.sysClk = true ∧ t.obs.seq = s.obs.seq + 1 ∧ t.fuses = s.fuses ∧ t.insts = s.insts) ∧
     (s.sys.hold = .thermal b k →
       (junctionCool s = true → b.cut = none → exec .thermalHoldEnd s = .next (settle (runStart b s))) ∧
       (junctionCool s = false → exec .thermalHoldEnd s = .next s)) ∧
     (s.sys.hold = .no → exec .sysRefclkStable s = .next { s with pins := { s.pins with sysClk := true } })) ∧
  (∀ (b : Board) (s : State), s.pins.sysClk = true → b.junction ≤ 580 → b.cut = none →
     (s.slt.state ≠ 4 ∨ s.slt.step ≠ 7) →
     (s.tck.resetN = false → s.sys.boot = .start → drivesBalls s.tck.tap = false →
       exec (.coldStart b) s = .next (settle (runStart b (thermalRise (beginStart (edgeKind s) (edgeKind s) b
         { s with tck := { s.tck with resetN := true } }))))) ∧
     (s.sys.boot = .start → s.sys.afterDump = .internalCold → s.tck.resetN = true →
       exec (.internalColdStart b) s = .next (settle (runStart b (thermalRise (beginStart 3 4 b
         { s with sys := { s.sys with reqState := 5, reqTime := s.quartz } })))))) ∧
  (∀ (b : Board) (s : State), b.test.lbistOk = false → b.cut = none →
     (runStart b s).sys.boot = .lodestone ∧ (runStart b s).sys.reason = .lbist ∧
     (runStart b s).sys.stest.failedStep = 3 ∧ (runStart b s).sys.open' = false ∧
     (runStart b s).pins.media = .safe ∧ (runStart b s).pins.alive = .hz100 ∧ (runStart b s).fuses = s.fuses)

/-- COLD_POWER_UP: what fuses, code flash, instances and media hold is kept; SEQ, Quartz time and every register are at
power-on, RESET_N is low and the media pins are safe (R7, R32, R33, R381, R413). WARM_START by the manager or by a
firmware activation: a wrong key or command is refused with a record and an error flag; one that finds a request before
it is ignored with a record; with an apply running it waits for it (R75, R76); in DOZE or STOW it waits for the exit;
else the warm start begins, and so does one that has waited. A warm start closes acceptance with reason 3 and counts an
incarnation; step 3 ends the accepted tasks; steps 4 and 5 clear what Table SU-9 clears and write one reset record.
Where steps 6 to 8 pass and the image matches, the device is in RUN again with acceptance open, the media pins active
and ALIVE at 10 kHz, before it settles; a step that fails leads through a dump to LODESTONE, a mismatch of the image
through one to an internal cold start, and one that PFAIL_N or RESET_N stops at steps 1 to 3 begins its dump at once
(R75, R77, R78, R112). -/
def Obligations.PowerUpAndWarmStartRequests : Prop :=
  (∀ s : State, ∃ t, exec .coldPowerUp s = .next t ∧ t.pending = s.pending ∧ FusesLe s.fuses t.fuses ∧ t.obs = coldObs ∧
     t.quartz = 0 ∧ t.tck.resetN = false ∧ t.pins.media = .safe ∧ t.pins.alive = .low ∧ t.sys.open' = false ∧
     t.eth.up = 0 ∧
     (s.slt.state ≠ 4 ∨ s.slt.step ≠ 7 → t.fuses = s.fuses ∧ t.slt.epoch = s.slt.epoch ∧
       (s.cfl.unit0 = coldUnit → s.cfl.unit1 = coldUnit → t.cfl.mem = s.cfl.mem ∧ t.cfl.hdrs = s.cfl.hdrs) ∧
       ((∀ p ∈ s.med.progs, p.2.sources = []) → t.med.sbs = s.med.sbs))) ∧
  (∀ (p : WarmCause × Nat) (v : U32) (w : WarmInputs) (s : State),
     p ∈ [(WarmCause.manager v, 2), (WarmCause.activation, 3)] → bits v.toNat 16 16 = 0x57A3 → bits v.toNat 0 4 = 1 →
     (s.sys.boot ≠ .run →
       (s.sys.afterDump = .reopen → exec (.warmStart p.1 w) s = .next s) ∧
       (s.sys.afterDump ≠ .reopen → exec (.warmStart p.1 w) s = .next (notice kReset [2] s))) ∧
     (s.sys.boot = .run → s.sys.warmDeferred = some 2 → exec (.warmStart p.1 w) s = .next (notice kReset [2] s)) ∧
     (s.sys.boot = .run → s.sys.warmDeferred = none →
       (s.slt.state = 4 → exec (.warmStart p.1 w) s =
         .next { s with sys := { s.sys with warmDeferred := some p.2 } }) ∧
       (s.slt.state ≠ 4 → 2 ≤ s.pwr.state → ∃ t, exec (.warmStart p.1 w) s = .next t ∧
         t.sys.warmDeferred = some p.2 ∧ t.sys.boot = .run ∧ t.insts = s.insts ∧ (s.pwr.phase = 0 → t.pwr.phase = 5)) ∧
       (s.slt.state ≠ 4 → s.pwr.state < 2 → s.pwr.phase = 0 → w.cut = none →
         exec (.warmStart p.1 w) s = .next (settle (warmStart p.2 w s))))) ∧
  (∀ (v : U32) (w : WarmInputs) (s : State),
     (bits v.toNat 16 16 ≠ 0x57A3 ∨ bits v.toNat 0 4 ≠ 1 →
       exec (.warmStart (.manager v) w) s = .next (regRefused 0x0000001C v.toNat s)) ∧
     (s.sys.warmDeferred = none → exec (.warmStartDeferred w) s = .next s) ∧
     (∀ cause, s.sys.warmDeferred = some cause →
       (s.sys.boot ≠ .run ∨ s.slt.state = 4 ∨ 2 ≤ s.pwr.state → exec (.warmStartDeferred w) s = .next s) ∧
       (s.sys.boot = .run → s.slt.state ≠ 4 → s.pwr.state < 2 → s.pwr.phase = 0 → w.cut = none →
         exec (.warmStartDeferred w) s = .next (settle (warmStart cause w s))))) ∧
  (∀ (c : Instr) (cause : Nat) (w : WarmInputs) (s u : State), s.sys.boot = .run → s.slt.state ≠ 4 → s.pwr.state < 2 →
     s.pwr.phase = 0 →
     ((c = .warmStart (.manager 0x57A30001) w ∧ cause = 2 ∧ s.sys.warmDeferred = none) ∨
       (c = .warmStart .activation w ∧ cause = 3 ∧ s.sys.warmDeferred = none) ∨
       (c = .warmStartDeferred w ∧ s.sys.warmDeferred = some cause)) →
     (w.cut = none → runSteps (warmSteps w.test) (warmStop cause (warmClose cause s)) = .ok u →
       (w.imageMatches = true → u.dmc.imageLost = false → ∃ t, exec c s = .next (settle t) ∧ t.sys.boot = .run ∧
         t.sys.open' = true ∧ t.sys.closedWhy = 0 ∧ t.sys.stest.startKind = 2) ∧
       (w.imageMatches = false ∨ u.dmc.imageLost = true → ∃ t, exec c s = .next (settle t) ∧ t.sys.boot = .dump ∧
         t.sys.open' = false ∧ t.sys.afterDump = .internalCold)) ∧
     (∀ e, w.cut = none → runSteps (warmSteps w.test) (warmStop cause (warmClose cause s)) = .error e →
       ∃ t, exec c s = .next (settle t) ∧ t.sys.boot = .dump ∧ t.sys.open' = false ∧
         t.sys.afterDump = .lodestone e.reason e.step) ∧
     (∀ k, w.cut = some k → k.step ≤ 3 → k.pfail = true → ∃ t, exec c s = .next (settle t) ∧ t.sys.boot = .dump ∧
       t.sys.open' = false ∧ t.pins.pfailN = false ∧ t.insts = s.insts)) ∧
  (∀ (cause : Nat) (s : State),
     (∃ t, t = warmClose cause s ∧ t.sys.boot = .warm ∧ t.sys.open' = false ∧ t.sys.closedWhy = 3 ∧ t.sys.cause = cause ∧
       t.sys.incarn = (s.sys.incarn + 1) % 256 ∧ t.pins.alive = .low ∧ t.insts = s.insts ∧ t.med = s.med) ∧
     (∃ u t, t = warmStop cause s ∧ u = warmReset (warmEnd s) ∧ u.mch.lines = [] ∧ u.mch.enable = true ∧
       u.kec.busy = false ∧ u.cfl.fallback = false ∧ u.insts = (warmEnd s).insts ∧ u.med = (warmEnd s).med ∧
       t.obs.seq = u.obs.seq + 1 ∧ t.insts = u.insts) ∧
     ∀ k, (openAcceptance k [] s).sys.boot = .run ∧ (openAcceptance k [] s).sys.open' = true)

/-! ### Faults and links -/

/-- A fault joins the capture window that is open, or opens one at the present time; nothing else changes. Its severity
is raised to CONTAIN exactly while its class of Table AR-9 holds an unrestored fault of another part (R371, R374).
The arbiter's order within a window is total: of two faults one comes first, by the higher severity, and by the
lower source number among equal severities (R374). -/
def Obligations.FaultsJoinTheWindowInOrder : Prop :=
  (∀ (part : Nat) (f : Fault') (s : State), ∃ g : Fault',
     raise part f s = { s with fcl := { s.fcl with
       window := s.fcl.window ++ [g], windowAt := if s.fcl.window = [] then s.quartz else s.fcl.windowAt } } ∧
     g = { f with severity := g.severity } ∧ f.severity ≤ g.severity ∧
     (classHeld s part = false → g = f) ∧ (classHeld s part = true → sevContain ≤ g.severity)) ∧
  (∀ f g : Fault', (faultBefore f g = true ∨ faultBefore g f = true) ∧
     (faultBefore f g = true ↔ g.severity < f.severity ∨ (f.severity = g.severity ∧ f.source ≤ g.source)))

/-- The lines of power and clock raise their fault with the source and severity of Table FE-2: the board's alert
(0x175, DEGRADE, with the status word in the payload), a thermal shutdown (0x176, HALT, with the core regulator
commanded off), a rail out of tolerance while PFAIL_N is high, with RESET_N high or in the dump that its fall began (0x170,
HALT, with the media pins safe; in reset the NAND balls are undriven without VCCQ_NAND, R33), and the loss of SYS_REFCLK (0x171, HALT, with the media pins safe) (R36, R46, R408, Table PK-7). The third failed
AVSBus transaction in a row is a DEGRADE fault of source 0x174 and stops every further request; the one before only
counts, and an acknowledged request ends the row and gives VACK_MV (R46, R360). -/
def Obligations.PowerClockAndAvsbusFaults : Prop :=
  (∀ (st : U16) (reading : Int) (r : Rail) (s : State),
     (∃ f : Fault', f.source = 0x175 ∧ f.severity = sevDegrade ∧ f.payload = st.toNat ∧
       exec (.pmbAlert st) s = .next (raise 0x175 f s)) ∧
     (∃ f : Fault', f.source = 0x176 ∧ f.severity = sevHalt ∧
       exec (.shutdown reading) s = .next (raise 0x176 f { s with
         pins := { s.pins with coreOff := true }
         thm := { s.thm with junction := reading, peak := peakWith reading s } })) ∧
     (s.pins.pfailN = true → (s.tck.resetN = true ∨ s.sys.boot = .dump) → s.fcl.halted = false →
       ∃ f : Fault', f.source = 0x170 ∧ f.severity = sevHalt ∧ f.addr = railNum r ∧
         exec (.railOutOfTolerance r) s = .next (raise 0x170 f { s with pins := { s.pins with
           rails := amSet s.pins.rails (railNum r) false, media := .safe, drst := false } })) ∧
     (s.pins.pfailN = false →
       (s.tck.resetN = true ∨ s.sys.boot ≠ .start ∨ r ≠ .vccqNand →
         exec (.railOutOfTolerance r) s = .next { s with pins := { s.pins with
           rails := amSet s.pins.rails (railNum r) false } }) ∧
       (s.tck.resetN = false → s.sys.boot = .start → r = .vccqNand →
         exec (.railOutOfTolerance r) s = .next { s with pins := { s.pins with
           rails := amSet s.pins.rails (railNum r) false, media := .undriven } })) ∧
     (s.pins.sysClk = true → s.tck.resetN = true → s.fcl.halted = false → s.sys.hold = .no →
       ∃ f : Fault', f.source = 0x171 ∧ f.severity = sevHalt ∧
         exec .sysRefclkLoss s = .next (raise 0x171 f { s with
           pins := { s.pins with sysClk := false, media := .safe, drst := false } }))) ∧
  (∀ (mv : Nat) (s : State),
     (s.sys.avsFails ≠ 2 → exec .avsbusTransactionFail s =
       .next { s with sys := { s.sys with avsFails := s.sys.avsFails + 1 } }) ∧
     (s.sys.avsFails = 2 → s.sys.avsStopped = false → ∃ f : Fault', f.source = 0x174 ∧ f.severity = sevDegrade ∧
       exec .avsbusTransactionFail s = .next (raise 0x174 f { s with
         sys := { s.sys with avsFails := 3, avsStopped := true, vreq := s.sys.vack } })) ∧
     (∃ t, exec (.avsbusAcknowledge mv) s = .next t ∧ t.sys.vack = mv % 1024 ∧ t.sys.avsFails = 0 ∧
       t = { s with sys := { s.sys with vack := mv % 1024, avsFails := 0 }
                    cfl := { s.cfl with adelay := t.cfl.adelay } }))

/-- An error on a fault line: in HALT and on a broken line nothing happens; a line of Table FE-2 whose part only
collects (0x148–0x14F excepted, which name none) raises its fault with the address, master and access type that the
line carries; a source that names no part raises nothing (R370, R372). A pair at (0, 0) or (1, 1): the line is
broken, and its LINE_BROKEN fault of severity DEGRADE reaches the arbiter; a part whose default severity is DEGRADE
is handled as faulted, another stays in use. A line that is broken already raises nothing (R372). A missed
handshake and a missed internal deadline are faults of their source, a handshake's with access type 4 and the stage
as its address, a deadline's with the severity of its row in Table LT-7; each counts in the device window (R19, R20,
R229, R373). FAULT_INJECTION without INJEN is refused
with a record and an error flag; without GO it only sets the register. With GO and INJEN, a pattern that breaks the
line is handled as a real one, behind its TEST record (R372, FCL_INJ). -/
def Obligations.FaultLinesReachTheArbiter : Prop :=
  (∀ (src : Fin 384) (addr : U64) (m : Byte) (a : BitVec 4) (s : State),
     (s.fcl.halted = true ∨ src.val ∈ s.fcl.broken → exec (.faultLineError src addr m a) s = .next (settle s)) ∧
     (s.fcl.halted = false → src.val ∉ s.fcl.broken → defaultSev src.val = 0 →
       exec (.faultLineError src addr m a) s = .next (settle s)) ∧
     (s.fcl.halted = false → src.val ∉ s.fcl.broken → defaultSev src.val ≠ 0 →
       ∃ f : Fault', f.source = src.val ∧ f.severity = defaultSev src.val ∧ f.addr = addr.toNat ∧
         f.master = m.toNat ∧ f.access = a.toNat ∧
         exec (.faultLineError src addr m a) s = .next (settle (handlePart src.val (raise src.val f s))))) ∧
  (∀ (src : Fin 384) (s : State), s.fcl.halted = false → defaultSev src.val ≠ 0 →
     (src.val ∈ s.fcl.broken → exec (.lineBroken src) s = .next (settle s)) ∧
     (src.val ∉ s.fcl.broken → ∃ f : Fault', f.source = src.val ∧ f.severity = sevDegrade ∧ f.code = kLineBroken ∧
       ∃ t, t = raise src.val f { s with fcl := { s.fcl with broken := insertNat src.val s.fcl.broken } } ∧
         exec (.lineBroken src) s =
           .next (settle (if defaultSev src.val = sevDegrade then handlePart src.val t else t)))) ∧
  (∀ (src : Fin 384) (stage : U64) (m : Byte) (row : InternalDeadline) (step : Nat) (s : State), s.fcl.halted = false →
     (defaultSev src.val ≠ 0 → ∃ f : Fault', f.source = src.val ∧ f.access = 4 ∧ f.addr = stage.toNat ∧
       exec (.handshakeTimeout src stage m) s =
         .next (settle (missInternal (handlePart src.val (raise src.val f s))))) ∧
     (∃ f : Fault', f.source = src.val ∧ f.code = kInternalMiss ∧ f.access = 9 ∧
       f.severity = (if row = .handshake then defaultSev src.val
         else if row = .hwtWait ∨ row = .startStep then sevDegrade
         else if row = .dumpStep then sevContain else sevNotice) ∧
       exec (.internalDeadlineMiss src row step) s = .next (missInternal (raise src.val f s)))) ∧
  (∀ (v : U32) (s : State), ∀ src pat : Nat, src = bits v.toNat 0 9 → pat = bits v.toNat 9 2 →
     ∀ u, u = { s with fcl := { s.fcl with injSource := src, injPattern := pat } } →
     (v.getLsbD 11 = false → exec (.faultInjection v) s = .next (settle u)) ∧
     (v.getLsbD 11 = true → s.fcl.injen = false →
       exec (.faultInjection v) s = .next (settle (regRefused 0x00300038 v.toNat u))) ∧
     (v.getLsbD 11 = true → s.fcl.injen = true → pat = 0 →
       exec (.faultInjection v) s = .next (settle (notice kTest [] u))) ∧
     (v.getLsbD 11 = true → s.fcl.injen = true → pat = 1 → src ∉ s.fcl.broken → ∃ k a, k < 12 ∧
       exec (.faultInjection v) s =
         .next (settle (lineError src k 0x20 a (drawBytes 9 (notice kTest [] u)).2))) ∧
     (v.getLsbD 11 = true → s.fcl.injen = true → 2 ≤ pat →
       exec (.faultInjection v) s = .next (settle (lineBroken src 0x20 (notice kTest [] u)))))

/-- The capture window closes on one fault of severity DEGRADE or CONTAIN, at or above CAPMIN, with nothing captured
yet and the device awake: the fault is captured with the SEQ of its record, and the window is closed, before what
waits goes on (R374, R375). A window that closes on one HALT fault brings the device to HALT: acceptance closes,
nothing is sent any more, the media pins are safe and ALIVE is low; the instances, the media maps and the fuses are
untouched (R376). FIRST_VALID_CLEAR: a write of 1 to FIRST_VALID clears it and FCL_FOLLOW, and one to CONTAINED
clears that; a bit written 0 changes nothing, and nothing else of the device changes (R375). -/
def Obligations.CaptureAndHalt : Prop :=
  (∀ (f : Fault') (s : State), s.fcl.window = [f] → s.fcl.firstValid = false → s.fcl.capmin ≤ f.severity →
     sevDegrade ≤ f.severity → f.severity < sevHalt → s.pwr.state < 2 →
     ∃ t, exec .captureWindowClose s = .next (settle t) ∧ t.fcl.window = [] ∧ t.fcl.firstValid = true ∧
       t.fcl.fSource = f.source ∧ t.fcl.fSeverity = f.severity ∧ t.fcl.fAddr = f.addr ∧ t.fcl.fMaster = f.master ∧
       t.fcl.fAccess = f.access ∧ t.fcl.fTime = s.fcl.windowAt ∧ t.fcl.fSeq = s.obs.seq ∧ t.fcl.fSimul = false ∧
       t.fcl.follow = s.fcl.follow ∧ t.obs.seq = s.obs.seq + 1 ∧ t.insts = s.insts ∧ t.fcl.halted = s.fcl.halted) ∧
  (∀ (f : Fault') (s : State), s.fcl.window = [f] → f.severity = sevHalt →
     ∃ t, exec .captureWindowClose s = .next t ∧ t.sys.boot = .halt ∧ t.fcl.halted = true ∧ t.sys.open' = false ∧
       t.sys.transport = false ∧ t.pins.media = .safe ∧ t.pins.drst = false ∧ t.pins.alive = .low ∧
       t.insts = s.insts ∧ t.med = s.med ∧ t.fuses = s.fuses ∧ t.wire = s.wire ∧ t.obs.seq = s.obs.seq + 1) ∧
  (∀ (v : U32) (s : State), ∃ t, exec (.firstValidClear v) s = .next t ∧
     t = { s with fcl := { s.fcl with firstValid := t.fcl.firstValid, follow := t.fcl.follow
                                      contained := t.fcl.contained } } ∧
     (v.getLsbD 0 = true → t.fcl.firstValid = false ∧ t.fcl.follow = 0) ∧
     (v.getLsbD 0 = false → t.fcl.firstValid = s.fcl.firstValid ∧ t.fcl.follow = s.fcl.follow) ∧
     (v.getLsbD 1 = true → t.fcl.contained = false) ∧ (v.getLsbD 1 = false → t.fcl.contained = s.fcl.contained))

/-- A link that is down already does not go down again, one that is up or that the mode in force has not does not come
up: nothing changes. A link that goes down is down, and LINKDOWN marks it, whether or not its port fails with it
(R87, R111). In RUN a link that goes down is lost to the instances allowed on it. While another link of its port is
up, that is all; a port whose last link goes down is a host port that has failed, with a DEGRADE fault of its
source (R111, Table AR-9; log entry 31). The loss of a port's reference clock is a DEGRADE fault of its source, and
every link of the port goes down; a clock that is absent already is no second fault (Table PK-7, R111). -/
def Obligations.LinkAndPortLoss : Prop :=
  (∀ (l : Fin 16) (s : State),
     (linkUp s l.val = false → exec (.linkDown l) s = .next s) ∧
     (linkUp s l.val = true ∨ linkExists s l.val = false → exec (.linkUp l) s = .next s) ∧
     (linkUp s l.val = true → s.sys.transport = false → s.sys.boot ≠ .run →
       exec (.linkDown l) s = .next { s with eth := { s.eth with
         up := setBit s.eth.up l.val false, wentDown := setBit s.eth.wentDown l.val true } }) ∧
     (linkUp s l.val = false → linkExists s l.val = true → s.sys.boot ≠ .halt → s.sys.transport = false →
       s.fcl.unrestored = [] → exec (.linkUp l) s = .next { s with
         eth := { s.eth with up := setBit s.eth.up l.val true }
         pins := { s.pins with portClk := setNth s.pins.portClk (l.val / 8) true } }) ∧
     (linkUp s l.val = false → linkExists s l.val = true → s.sys.boot ≠ .halt → s.sys.transport = true →
       s.fcl.unrestored = [] → ∃ t, exec (.linkUp l) s = .next t ∧ Transported { s with
         eth := { s.eth with up := setBit s.eth.up l.val true }
         pins := { s.pins with portClk := setNth s.pins.portClk (l.val / 8) true } } t)) ∧
  (∀ (l : Fin 16) (s : State), linkUp s l.val = true → s.sys.boot = .run →
     ((∃ n ∈ portLinks (l.val / 8), n ≠ l.val ∧ linkUp s n = true) →
       exec (.linkDown l) s = .next (loseLink l.val s)) ∧
     ((∀ n ∈ portLinks (l.val / 8), n ≠ l.val → linkUp s n = false) →
       portSource (l.val / 8) true ∉ s.fcl.unrestored →
       ∃ f : Fault', f.source = 0x12C + l.val / 8 ∧ f.severity = sevDegrade ∧
         exec (.linkDown l) s = .next (unrestore (0x12C + l.val / 8) (raise (0x12C + l.val / 8) f (loseLink l.val s)))) ∧
     Transported { s with eth := { s.eth with up := setBit s.eth.up l.val false
                                              wentDown := setBit s.eth.wentDown l.val true } } (loseLink l.val s)) ∧
  (∀ (p : Fin 2) (s : State),
     (s.pins.portClk.getD p.val true = false → exec (.portRefclkLoss p) s = .next s) ∧
     (s.pins.portClk.getD p.val true = true → ∃ f : Fault', f.source = 0x172 + p.val ∧ f.severity = sevDegrade ∧
       exec (.portRefclkLoss p) s = .next (unrestore (0x172 + p.val) (darkenPort p.val (raise (0x172 + p.val) f
         { s with pins := { s.pins with portClk := setNth s.pins.portClk p.val false } })))))

/-- PAUSE_FRAME on a link that is up, with the option on: one of another priority is only counted; one of the
configured priority stops the link for its quanta of 512 bit times, and 0 quanta lets the frames that wait go (R88;
the quantum is log entry 64's); with the option off it is dropped silently (R89). XOFF_REFRESH sends the pause frame
again on every link of the port that is up, while XOFF is sent and too few landing buffers are free, and nothing otherwise.
A frame that the device drops silently is counted as received and as dropped, and changes nothing else; on a link
that is down it has no effect (R85, R89, R390). ARP requests and neighbor solicitations for the link's own address
are answered on the link and to the sender they came from; others are dropped silently (R89, R91). -/
def Obligations.PauseDropAndAddressFrames : Prop :=
  (∀ (l : Fin 16) (p : BitVec 3) (q : U16) (port : Fin 2) (s : State), pfcOn s = true →
     (linkUp s l.val = true →
       (p.toNat ≠ pfcPriority s → exec (.pauseFrame l p q) s = .next (countIn l.val 64 s)) ∧
       (p.toNat = pfcPriority s → q = 0 →
         exec (.pauseFrame l p q) s = .next (flushPaused l.val (countIn l.val 64 s))) ∧
       (p.toNat = pfcPriority s → q ≠ 0 → ∃ t, exec (.pauseFrame l p q) s = .next t ∧
         amGet? t.pins.paused l.val = some (s.quartz + pauseNs s l.val q.toNat) ∧
         Recorded { s with pins := { s.pins with paused := t.pins.paused } } t)) ∧
     (s.sys.boot ≠ .halt → s.pins.xoff.getD port.val false = true → landingShort s port.val = true →
       ∃ t, exec (.xoffRefresh port) s = .next t ∧ Transported s t ∧
         ∀ n ∈ portLinks port.val, linkUp s n = true →
           ∃ d ∈ t.wire, d.link = n ∧ d.body = .pause 0xFFFF (pfcPriority s)) ∧
     (s.pins.xoff.getD port.val false = false ∨ landingShort s port.val = false →
       exec (.xoffRefresh port) s = .next s)) ∧
  (∀ (l : Fin 16) (p : BitVec 3) (q : U16) (s : State), pfcOn s = false → linkUp s l.val = true →
     exec (.pauseFrame l p q) s = .next (silentDrop l.val (countIn l.val 64 s))) ∧
  (∀ (l : Fin 16) (f : Dropped) (s : State),
     (linkUp s l.val = false → exec (.silentlyDroppedFrame l f) s = .next s) ∧
     (linkUp s l.val = true → ∃ t, exec (.silentlyDroppedFrame l f) s = .next t ∧
       Recorded { s with eth := { s.eth with silent := t.eth.silent, ovfSilent := t.eth.ovfSilent } } t)) ∧
  (∀ (l : Fin 16) (a : BitVec 32) (b : BitVec 128) (vlan : Option U16) (src : Source) (s : State),
     linkUp s l.val = true → s.sys.boot = .run → s.pwr.state < 2 →
     (vlanOk s vlan = true → linkIp4 s l.val = some a → a ≠ 0 →
       exec (.arpRequest l a vlan src) s = .next (answer l.val (.arp a) src (countIn l.val 64 s))) ∧
     (vlanOk s vlan = false ∨ linkIp4 s l.val ≠ some a ∨ a = 0 →
       exec (.arpRequest l a vlan src) s = .next (silentDrop l.val (countIn l.val 64 s))) ∧
     (vlanOk s vlan = true → linkIp6 s l.val = some b → b ≠ 0 →
       exec (.neighborSolicitation l b vlan src) s = .next (answer l.val (.neighbor b) src (countIn l.val 90 s))) ∧
     (vlanOk s vlan = false ∨ linkIp6 s l.val ≠ some b ∨ b = 0 →
       exec (.neighborSolicitation l b vlan src) s = .next (silentDrop l.val (countIn l.val 90 s))) ∧
     (linkPaused s l.val = false → vlanOk s vlan = true →
       (linkIp4 s l.val = some a → a ≠ 0 → ∃ t d, exec (.arpRequest l a vlan src) s = .next t ∧
         t.wire = s.wire ++ [d] ∧ d.body = .arp a ∧ d.link = l.val ∧ d.dst = some src ∧ Transported s t) ∧
       (linkIp6 s l.val = some b → b ≠ 0 → ∃ t d, exec (.neighborSolicitation l b vlan src) s = .next t ∧
         t.wire = s.wire ++ [d] ∧ d.body = .neighbor b ∧ d.link = l.val ∧ d.dst = some src ∧ Transported s t)))

/-! ### Operating point, temperature and power states -/

/-- OPERATING_POINT_ADJUST in RUN: a cycle above 0.90 ns raises the request by 5 mV for each 10 ps, by 25 mV at most, above
1.40 ns in TRIM; the request stays within 0.72–0.85 V, in TRIM from 0.68 V, and never lies below the band's minimum; no
request moves the voltage by more than 25 mV, and the reading is what SYS_HSCYCLE shows (R21, R45, R230, R394). Once
AVSBus has failed the request stays (R46). R231: a cycle above 0.96 ns at a request of 0.85 V and a junction at or
below 125 °C raises a DEGRADE fault and applies at least derate step 1. The step's hold ends only once the cycle has
been at or below 0.96 ns for 1 s. A reading of a junction site takes the higher of its two diodes; the junction
temperature is the highest of the sites, PEAK keeps the highest, and above 158 °C the core power goes off (R408); the
thermal step never falls at a reading, and is at least the one that the junction asks for (R405, R407). A remote
input that reads open or short is marked so, and its reading is replaced under the configured policy; one that is
declared unused, or of the other type, is not measured (R406). THERMAL_STEP_FALL lowers the step by exactly one, and
only while every reading that could hold it lies 3 °C below its limit (R407). -/
def Obligations.OperatingPointAndThermalReadings : Prop :=
  (∀ (c : U16) (s : State), s.sys.boot = .run → s.pwr.state < 2 → s.sys.vreq ≤ 850 →
     ∃ t, exec (.operatingPointAdjust c) s = .next t ∧ t.sys.cyclePs = c.toNat ∧
       (s.sys.avsStopped = true → t.sys.vreq = s.sys.vreq) ∧
       (s.sys.avsStopped = false → floorMv s ≤ t.sys.vreq ∧ t.sys.vreq ≤ 850 ∧
         t.sys.vreq ≤ max (s.sys.vreq + 25) (floorMv s) ∧ s.sys.vreq ≤ t.sys.vreq + 25 ∧
         (s.pwr.state = 0 → 900 < c.toNat → t.sys.vreq =
           max (floorMv s) (min 850 (s.sys.vreq + min 25 ((c.toNat - 900) / 10 * 5)))) ∧
         (s.pwr.state = 1 → 1400 < c.toNat → t.sys.vreq =
           max (floorMv s) (min 850 (s.sys.vreq + min 25 ((c.toNat - 1400) / 10 * 5)))) ∧
         (t.sys.vreq ≠ s.sys.vreq → ∀ k a b, (s.sys.vreq :: t.sys.vsteps)[k]? = some a →
           (s.sys.vreq :: t.sys.vsteps)[k + 1]? = some b → a ≤ b + 25 ∧ b ≤ a + 25))) ∧
  (∀ s : State, (s.pwr.state = 1 → floorMv s = 680) ∧ (s.pwr.state ≠ 1 → 720 ≤ floorMv s ∧
     lowestMv s.sys.tband ≤ floorMv s ∧ (floorMv s = 720 ∨ floorMv s = lowestMv s.sys.tband))) ∧
  (∀ (c : U16) (s : State), s.sys.boot = .run → s.pwr.state = 0 → s.sys.vreq = 850 →
     (960 < c.toNat → s.thm.junction ≤ 500 → s.sys.cycleDerate = false →
       ∃ t f, exec (.operatingPointAdjust c) s = .next t ∧ t.fcl.window = s.fcl.window ++ [f] ∧
         f.severity = sevDegrade ∧ t.sys.cycleDerate = true ∧ 1 ≤ t.qtz.step) ∧
     (s.sys.cycleDerate = true → ∃ t, exec (.operatingPointAdjust c) s = .next t ∧
       (t.sys.cycleDerate = false ↔
         c.toNat ≤ 960 ∧ ∃ since, s.sys.cycleOkSince = some since ∧ since + 1000000000 ≤ s.quartz))) ∧
  (∀ (n : Fin 8) (d0 d1 : Int) (s : State), s.thm.sites.length = 8 →
     ∃ t, exec (.thermalMeasurement (.site n d0 d1)) s = .next t ∧ t.thm.sites = setNth s.thm.sites n.val (max d0 d1) ∧
       t.thm.junction ∈ t.thm.sites ∧ (∀ x ∈ t.thm.sites, x ≤ t.thm.junction) ∧
       t.thm.peak = peakWith t.thm.junction s ∧ s.thm.step ≤ t.thm.step ∧
       stepOf junctionLimit t.thm.junction ≤ t.thm.step ∧ t.thm.sensors = s.thm.sensors ∧
       (632 < t.thm.junction → t.pins.coreOff = true) ∧
       (t.thm.junction ≤ 632 → t.pins.coreOff = s.pins.coreOff)) ∧
  (∀ (n : Fin 24) (mv : Nat) (temp : Int) (s : State) (p : SensorInput), s.thm.sensors.length = 24 →
     s.img.sensors.inputs[n.val]? = some p →
     (p.type ≠ 1 → exec (.thermalMeasurement (.diode n mv temp)) s = .next s) ∧
     (p.type = 1 → 1000 ≤ mv → ∃ t, exec (.thermalMeasurement (.diode n mv temp)) s = .next t ∧
       (sensor t n.val).st = 2 ∧ (sensor t n.val).subst = true ∧ (sensor t n.val).temp = substitute s n.val) ∧
     (p.type = 1 → mv ≤ 100 → ∃ t, exec (.thermalMeasurement (.diode n mv temp)) s = .next t ∧
       (sensor t n.val).st = 3 ∧ (sensor t n.val).subst = true ∧ (sensor t n.val).temp = substitute s n.val)) ∧
  (∀ s : State,
     (s.thm.step = 0 ∨ stepCool s = false → exec .thermalStepFall s = .next s) ∧
     (0 < s.thm.step → stepCool s = true → ∃ t, exec .thermalStepFall s = .next t ∧ t.thm.step = s.thm.step - 1 ∧
       t.qtz.thermal = s.thm.step - 1 ∧ t.qtz.step = wantedStep t ∧ t.thm.junction = s.thm.junction ∧ t.med = s.med))

/-- DERATE_FORCE: a step above 4 is refused; else it is the one forced, and the step in force follows at once: at least
the forced and at least the thermal one (R233). -/
def Obligations.ForcedDerateTakesEffectAtOnce : Prop :=
  ∀ (v : U32) (s : State),
    (4 < bits v.toNat 6 3 → exec (.derateForce v) s = .next (regRefused 0x00E00008 v.toNat s)) ∧
    (bits v.toNat 6 3 ≤ 4 → ∃ t, exec (.derateForce v) s = .next t ∧ t.qtz.force = bits v.toNat 6 3 ∧
      t.qtz.step = wantedStep t ∧ t.qtz.force ≤ t.qtz.step ∧ t.qtz.thermal ≤ t.qtz.step ∧ t.qtz.thermal = s.qtz.thermal ∧
      t.pwr = s.pwr ∧ t.med = s.med)

/-- The four writes of PWR_REQ: refused with a wrong key, for the state in force, for one that the image does not permit, or
behind an entry; a request for RUN under way is kept. Else TRIM, DOZE and STOW are entered, for STOW with its DRAIN, TRIM
is left with a request of at least 0.72 V, and DOZE and STOW begin their exit (R393, R395, R401). POWER_POLICY_WRITE: a
field out of range, or the idle policy where DOZE is not permitted, leaves the register unchanged with a record and an
error flag; else the fields are in force (R395, PWR_POLICY). IDLE_TIMEOUT: with the idle policy on in RUN or TRIM, no
entry under way, no apply, DOZE permitted and no task HELD, the entry to DOZE begins; with a task HELD or the policy
off, nothing happens (R396). -/
def Obligations.PowerRequestsAndPolicy : Prop :=
  (∀ (c : U32 → Instr) (v : U32) (s : State) (st : Nat), c ∈ [Instr.pwrReqRun, .pwrReqTrim, .pwrReqDoze, .pwrReqStow] →
     st = bits v.toNat 0 2 →
     (bits v.toNat 16 16 ≠ 0x50E5 → exec (c v) s = .next (settle (regRefused 0x00100004 v.toNat s))) ∧
     (bits v.toNat 16 16 = 0x50E5 → s.pwr.phase = 0 →
       (st = s.pwr.state ∨ permitted s st = false →
         exec (c v) s = .next (settle (regRefused 0x00100004 v.toNat s))) ∧
       (s.pwr.state < 2 → st ≠ s.pwr.state → permitted s st = true → st ≠ 0 →
         exec (c v) s = .next (settle (enter st s)) ∧
         ∃ u, exec (c v) s = .next (settle (if st = 3 then forInsts padInst u else u)) ∧ u.pwr.target = st ∧
           u.pwr.phase = (if st = 3 then 2 else 1) ∧ u.pwr.state = s.pwr.state ∧ u.pwr.fromState = s.pwr.state ∧
           u.pwr.reqAt = s.quartz ∧ u.med = s.med ∧ u.jrn = s.jrn) ∧
       (s.pwr.state = 1 → st = 0 → exec (c v) s = .next (settle (exitTrim s)) ∧
         ∃ t, exec (c v) s = .next (settle t) ∧ t.pwr.state = 0 ∧ t.pwr.wakeSource = 9 ∧ t.pwr.wakeTime = s.quartz ∧
           (s.sys.avsStopped = false → s.sys.boot = .run → 720 ≤ t.sys.vreq) ∧ t.med = s.med) ∧
       (2 ≤ s.pwr.state → st = 0 → exec (c v) s = .next (settle (wake 9 0 s)) ∧
         ∃ t, exec (c v) s = .next (settle t) ∧ t.pwr.phase = 5 ∧ t.pwr.exitCause = some 9 ∧ t.pwr.wakeSource = 9 ∧
           t.pwr.state = s.pwr.state ∧ t.insts = s.insts ∧ t.med = s.med)) ∧
     (bits v.toNat 16 16 = 0x50E5 → 1 ≤ s.pwr.phase → s.pwr.phase ≤ 5 →
       (st = 0 → exec (c v) s = .next (settle { s with pwr := { s.pwr with pendingReq := some 0 } })) ∧
       (st ≠ 0 → exec (c v) s = .next (settle (regRefused 0x00100004 v.toNat s))))) ∧
  (∀ (v : U32) (s : State),
     (bits v.toNat 1 15 < 1 ∨ 30000 < bits v.toNat 1 15 ∨ bits v.toNat 16 10 < 1 ∨ 1000 < bits v.toNat 16 10 ∨
       (v.getLsbD 0 = true ∧ permitted s 2 = false) →
       exec (.powerPolicyWrite v) s = .next (regRefused 0x00100008 v.toNat s)) ∧
     (1 ≤ bits v.toNat 1 15 → bits v.toNat 1 15 ≤ 30000 → 1 ≤ bits v.toNat 16 10 → bits v.toNat 16 10 ≤ 1000 →
       (v.getLsbD 0 = true → permitted s 2 = true) →
       ∃ t, exec (.powerPolicyWrite v) s = .next t ∧ t.pwr.idleEn = v.getLsbD 0 ∧ t.pwr.idleMs = bits v.toNat 1 15 ∧
         t.pwr.timerS = bits v.toNat 16 10 ∧ t.pwr.state = s.pwr.state ∧ t.med = s.med ∧ t.mgmt = s.mgmt)) ∧
  (∀ s : State,
     (s.sys.boot = .run → s.pwr.idleEn = true → s.pwr.state < 2 → s.pwr.phase = 0 → s.slt.state ≠ 4 →
       permitted s 2 = true → anyHeld s (fun _ => true) = false → exec .idleTimeout s = .next (enter 2 s) ∧
       ∃ t, exec .idleTimeout s = .next t ∧ t.pwr.target = 2 ∧ t.pwr.phase = 1 ∧ t.pwr.state = s.pwr.state ∧
         t.pwr.reqAt = s.quartz ∧ t.med = s.med) ∧
     (s.pwr.idleEn = false ∨ anyHeld s (fun _ => true) = true ∨ permitted s 2 = false →
       exec .idleTimeout s = .next s))

/-- Every cause of a wake starts the exit of DOZE or STOW with its own source code and detail: TIMER 10 in DOZE, a
frame 8 with its link, a DRAM request 5 with its port (R331, R396, R398, R404). Awake, none has an effect on the
power state. EXIT_COMPLETE in the exit of DOZE or STOW: the domains return to the state from which the entry began,
the frames held are processed in arrival order, and what waits goes on; else nothing happens (R395, R398, R400). -/
def Obligations.WakesAndExits : Prop :=
  (∀ (l : Fin 16) (p : Fin 8) (s : State), s.pwr.phase = 0 →
     (s.pwr.state = 2 → ∃ t, exec .timerWake s = .next t ∧ t.pwr.phase = 5 ∧ t.pwr.exitCause = some 10 ∧
       t.pwr.wakeSource = 10 ∧ t.pwr.wakeTime = s.quartz ∧ t.pwr.state = 2) ∧
     (2 ≤ s.pwr.state → ∃ t, exec (.dramRequestInSelfRefresh p) s = .next t ∧ t.pwr.phase = 5 ∧
       t.pwr.wakeSource = 5 ∧ t.pwr.wakeDetail = p.val ∧ t.pwr.state = s.pwr.state) ∧
     (2 ≤ s.pwr.state → linkUp s l.val = true → s.sys.boot ≠ .halt → ∃ t, exec (.frameWake l) s = .next t ∧
       t.pwr.phase = 5 ∧ t.pwr.wakeSource = 8 ∧ t.pwr.wakeDetail = l.val ∧ t.pwr.state = s.pwr.state) ∧
     (s.pwr.state < 2 → exec .timerWake s = .next s ∧ exec (.frameWake l) s = .next s)) ∧
  (∀ s : State,
     (2 ≤ s.pwr.state → s.pwr.phase = 5 → exec .exitComplete s = .next (settle (processHeld (leaveDeep s))) ∧
       ∃ u, exec .exitComplete s = .next (settle (processHeld (kickAll u))) ∧ u.pwr.phase = 0 ∧ u.pins.media = .active ∧
         u.pwr.holdLists = [[], []] ∧ u.pwr.landed = s.pwr.landed ∧ (∀ c ∈ u.dmc.chs, c.state ≠ 2) ∧
         (s.pwr.pendingReq = none → u.pwr.state = s.pwr.fromState) ∧ u.jrn = s.jrn ∧ u.med = s.med) ∧
     (s.pwr.state < 2 ∨ s.pwr.phase ≠ 5 → exec .exitComplete s = .next s))

/-- PREPARE: while a task accepted before the request is HELD nothing happens; an erase still running at the end of STOW's
DRAIN is abandoned; the first refusal in the order of Table PW-3 ends the entry with wake source 4 and the domain; with
all agreeing, COMMIT switches the domains (R397, R400). COMMIT of DOZE or STOW: the state is the one asked for, every
DRAM channel in service is in self-refresh, the pads are latched and each port holds at most 512 buffers; instances,
journal and media maps are untouched (R397–R399, R402). COMMIT of TRIM: TRIM is in force, unless a request for RUN
waited (R394). -/
def Obligations.PrepareAndCommit : Prop :=
  (∀ (o : PrepareOutcome) (s u : State), u = (if s.pwr.target = 3 then abandonErases s else s) →
     (prepareReady s = false → exec (.prepare o) s = .next (settle s)) ∧
     (∀ d, prepareReady s = true → refuser u o = some d →
       exec (.prepare o) s = .next (settle (tally noInst 0x0109 4 1 (kickAll (closeEntry 4 d u)))) ∧
       (s.pwr.pendingReq = none → ∃ t, t = closeEntry 4 d u ∧ t.pwr.phase = 0 ∧ t.pwr.wakeSource = 4 ∧
         t.pwr.wakeDetail = d % 256 ∧ t.pwr.state = s.pwr.state ∧ t.jrn = s.jrn)) ∧
     (prepareReady s = true → refuser u o = none → s.pwr.target = 1 →
       exec (.prepare o) s = .next (settle (commitTrim u))) ∧
     (prepareReady s = true → refuser u o = none → s.pwr.target ≠ 1 →
       exec (.prepare o) s = .next (settle (commitDeep u)))) ∧
  (∀ s : State, (s.pwr.target = 2 ∨ s.pwr.target = 3) →
     (commitDeep s).pwr.state = s.pwr.target ∧ (∀ c ∈ (commitDeep s).dmc.chs, c.state ≠ 1) ∧
     (commitDeep s).pins.media = (if s.pwr.target = 3 then .latchedStow else .latchedDoze) ∧
     (∀ l ∈ (commitDeep s).pwr.holdLists, l.length ≤ 512) ∧ (commitDeep s).insts = s.insts ∧
     (commitDeep s).jrn = s.jrn ∧ (commitDeep s).med = s.med) ∧
  (∀ s : State, (s.pwr.pendingReq = none → (commitTrim s).pwr.state = 1) ∧ (s.pwr.pendingReq ≠ none →
     (commitTrim s).pwr.state = 0) ∧ (commitTrim s).med = s.med ∧ (commitTrim s).pwr.phase = 0)

/-! ### Frames, acceptance, MGMT and DIAG -/

/-- A valid sequenced frame that finds a landing buffer in its half, and whose instance is not held or quarantined, acts on
the order by D = S − E: behind E it is a copy and its landing buffer is let go, at E it takes its position, within 64
beyond E it is held, further on it is refused with OVERRUN and E as DETAIL; where the half has no landing buffer it is
refused with NO_BUFFER (R88, R101). The 20 task types, DATA and MGMT requests alike. A frame at E with none held behind
it stands last in the order, E is one higher, and the order is judged; one beyond E waits in sequence order and E
stays; the first one beyond a gap starts the gap's timer. A copy of a held frame only repeats the ACK (R101, R103,
R104). -/
def Obligations.UpFramesActOnTheOrderByDistance : Prop :=
  (∀ (f : TaskFrame) (d : DataFrame) (m : MgmtFrame) (c : Instr) (u : Up) (s r : State) (x y : Inst) (i : Nat) (q : Int)
     (b : Nat), (c, u) ∈ upCommands f d m → Reaches u s → ValidFor u x s → i = (upEnv u).hdr.inst.toNat →
     inst? (received u s) i = some y → q = seqDiff (upEnv u).hdr.seq y.e →
     (allocBuf (landingPool u) (landingPool u) false (received u s) = (none, r) →
       exec c s = .next (settle (refuse i (upEnv u) (upType u) rjNoBuffer 0 r))) ∧
     (allocBuf (landingPool u) (landingPool u) false (received u s) = (some b, r) →
       (∀ k, stateRefusal y = some k →
         exec c s = .next (settle (refuse i (upEnv u) (upType u) k 0 (dropLanding u b r)))) ∧
       (stateRefusal y = none →
         (q < 0 → exec c s = .next (settle (copyFrame i u (dropLanding u b r)))) ∧
         (q = 0 → exec c s = .next (settle (placeFrame i u b r))) ∧
         (q = 0 → y.heldUp = [] → ∃ t z, exec c s = .next (settle (drive i t)) ∧ inst? t i = some z ∧ z.e = y.e + 1 ∧
           z.placed = y.placed ++ [((upEnv u).hdr.seq, u, { at' := s.quartz, buf := some b })] ∧
           z.echo = (upEnv u).hdr.time ∧ z.gapAt = none ∧ z.slots = y.slots ∧ t.med = r.med ∧ t.wire = r.wire) ∧
         (0 < q → q ≤ 64 → exec c s = .next (settle (holdFrame i u b r))) ∧
         (0 < q → q ≤ 64 → (y.heldUp.any fun p => p.1 = (upEnv u).hdr.seq) = false → ∃ t z,
           exec c s = .next (settle t) ∧ inst? t i = some z ∧ z.e = y.e ∧ z.placed = y.placed ∧
           z.heldUp = insertHeld y.e ((upEnv u).hdr.seq, u, { at' := s.quartz, buf := some b }) y.heldUp ∧
           z.gapAt = (if y.heldUp = [] then some s.quartz else y.gapAt) ∧ z.slots = y.slots ∧ t.med = r.med) ∧
         (64 < q → exec c s = .next (settle
           (refuse i (upEnv u) (upType u) rjOverrun y.e.toNat (dropLanding u b r))))))) ∧
  (∀ (i : Nat) (u : Up) (b : Nat) (s : State) (x : Inst), inst? s i = some x →
     (∃ y, inst? (holdFrame i u b s) i = some y ∧ y.e = x.e ∧ y.placed = x.placed ∧ y.slots = x.slots ∧
       ((x.heldUp.any fun p => p.1 = (upEnv u).hdr.seq) = true → y.heldUp = x.heldUp ∧ y.gapAt = x.gapAt) ∧
       ((x.heldUp.any fun p => p.1 = (upEnv u).hdr.seq) = false →
         y.heldUp = insertHeld x.e ((upEnv u).hdr.seq, u, { at' := s.quartz, buf := some b }) x.heldUp ∧
         y.gapAt = if x.heldUp = [] then some s.quartz else x.gapAt)) ∧
     ((x.heldUp.any fun p => p.1 = (upEnv u).hdr.seq) = false → Transported s (holdFrame i u b s)) ∧
     ((x.heldUp.any fun p => p.1 = (upEnv u).hdr.seq) = true →
       Transported (dropLanding u b s) (holdFrame i u b s)))

/-- Frames that are not valid change no instance's order. With acceptance closed the refusal is NOT_ACCEPTING with the
reason of the closure; a bad header, an instance that is not created, a source or link that is not bound are
refused in this order; a frame whose TYPE no up frame has is a bad header (R56, R93, R95). -/
def Obligations.InvalidFramesAreRefused : Prop :=
  ∀ (f : TaskFrame) (d : DataFrame) (m : MgmtFrame) (c : Instr) (u : Up) (s : State) (i : Nat),
    (c, u) ∈ upCommands f d m → Reaches u s → i = (upEnv u).hdr.inst.toNat →
    (s.sys.open' = false → (inst? s i).isNone = true → exec c s = .next (settle
      (sendRejectTo (upEnv u) (rejectEnv (upEnv u) (upType u) rjNotAccepting s.sys.closedWhy) (counted u s)))) ∧
    (∀ n, s.sys.open' = true → upHeaderBad u = some n →
      exec c s = .next (settle (refuseHeader (upEnv u) (upType u) n (counted u s)))) ∧
    (s.sys.open' = true → upHeaderBad u = none → (inst? s i).isNone = true → exec c s = .next (settle
      (sendRejectTo (upEnv u) (rejectEnv (upEnv u) (upType u) rjUnknownInstance 0) (counted u s)))) ∧
    (∀ x, s.sys.open' = true → upHeaderBad u = none → inst? s i = some x → sourceOk i x (upType u) (upEnv u) = false →
      exec c s = .next (settle (refuseWide (upEnv u) (upType u) rjInstanceSource 0 (counted u s)))) ∧
    (∀ (e : Env) (type : Byte), linkUp s e.link.val = true → outerOk s e = true → s.sys.transport = true →
      exec (.badHeaderFrame e type) s = .next (settle (refuseHeader e type.toNat
        (if e.hdr.version.toNat ≠ 1 then 0x00 else 0x01) (countIn e.link.val (upBytes s e) s))) ∧
      (inst? s e.hdr.inst.toNat = none → ∃ t, exec (.badHeaderFrame e type) s = .next (settle t) ∧
        t.eth.unknownSrc = s.eth.unknownSrc + 1 ∧ t.insts = s.insts ∧ Transported s t))

/-- The ACK field moves only forward and only up to the next down number: what it passes is let go and its DONE slots
become FREE; a value behind it changes nothing, one beyond it is answered with BAD_ACK and changes neither (R105).
ACK_FRAME, PROBE and RESEND of a valid sender take it and are answered: a probe with E, a resend with every
unacknowledged frame (R106, R107). -/
def Obligations.AckFramesReleaseWhatTheyPass : Prop :=
  (∀ (i : Nat) (e : Env) (type : Nat) (s : State) (x : Inst), inst? s i = some x →
    (seqDiff e.hdr.ack x.down ≤ 0 → seqDiff e.hdr.ack x.ackIn ≤ 0 → takeAck i e type s = s) ∧
    (seqDiff e.hdr.ack x.down ≤ 0 → 0 < seqDiff e.hdr.ack x.ackIn →
      ∃ y, inst? (takeAck i e type s) i = some y ∧ y.ackIn = e.hdr.ack ∧ y.e = x.e ∧ y.down = x.down ∧
        y.slots = x.slots.filter (fun p => !ackedSlot e.hdr.ack p) ∧
        (∀ d ∈ y.unacked, 0 ≤ seqDiff d.seq e.hdr.ack)) ∧
    (0 < seqDiff e.hdr.ack x.down → takeAck i e type s = refuse i e type rjBadAck x.down.toNat s)) ∧
  (∀ (i : Nat) (f : AckFrame) (c : Instr) (e : Env) (s : State) (x : Inst), inst? s i = some x →
    c ∈ [Instr.ackFrame f, .probe f, .resend f] → f.env = e →
    i = e.hdr.inst.toNat → linkUp s e.link.val = true → s.sys.boot = .run → s.pwr.state < 2 →
    s.sys.transport = true → outerOk s e = true → ackHeaderBad f = none → sourceOk i x 4 e = true →
    exec c s = .next (settle (answerAck i f (takeAck i e 4
      (markValid i e (countIn e.link.val (upBytes s e) s))))) ∧
    (seqDiff e.hdr.ack x.down ≤ 0 → ∃ t y, exec c s = .next (settle t) ∧ inst? t i = some y ∧ y.e = x.e ∧
      y.down = x.down ∧ amGet? y.lastValid e.link.val = some e.src ∧ y.lastLink = some e.link.val ∧
      (0 < seqDiff e.hdr.ack x.ackIn → y.ackIn = e.hdr.ack ∧
        y.slots = x.slots.filter fun p => !ackedSlot e.hdr.ack p) ∧
      (seqDiff e.hdr.ack x.ackIn ≤ 0 → y.ackIn = x.ackIn ∧ y.slots = x.slots) ∧
      (f.env.hdr.flags.getLsbD 6 = true → linkPaused s e.link.val = false → ∃ d ∈ t.wire,
        d.link = e.link.val ∧ d.inst = i ∧ d.ack = x.e ∧ d.body = .ack (sackOf x) x.down 0)))

/-- The transport's timers. ACK_DELAY sends an ACK only while an advance of E has not gone out; the gap request repeats
while the gap remains, with E and SACK and the gap; GAP_TIMEOUT releases every held frame with one REJECT and leaves E;
the retransmission timer counts an expiry and sends every unacknowledged frame again, and the 16th expiry in a row
stalls the instance with a record (R103, R104, R106). -/
def Obligations.TransportTimersActOnTheirInstance : Prop :=
  ∀ (i : Fin 1024) (s : State) (x : Inst), inst? s i.val = some x → s.sys.transport = true →
    (x.ackOut ≠ x.e → exec (.ackDelayExpiry i) s = .next (settle (sendAck i.val s))) ∧
    (∀ l, x.ackOut ≠ x.e → x.lastLink = some l → (amGet? x.lastValid l).isSome = true → linkUp s l = true →
      linkPaused s l = false → s.sys.boot ≠ .halt → ∃ t y d, exec (.ackDelayExpiry i) s = .next (settle t) ∧
        inst? t i.val = some y ∧ y.ackOut = x.e ∧ y.e = x.e ∧ y.slots = x.slots ∧ t.wire = s.wire ++ [d] ∧
        d.link = l ∧ d.inst = i.val ∧ d.ack = x.e ∧ (∃ g k, d.body = .ack (sackOf x) g k) ∧ Transported s t) ∧
    (x.ackOut = x.e → exec (.ackDelayExpiry i) s = .next (settle s)) ∧
    (x.gapAt.isSome = true → x.heldUp ≠ [] → exec (.gapRequestRepeat i) s = .next (settle (sendAck i.val s))) ∧
    (∀ l, x.gapAt.isSome = true → x.heldUp ≠ [] → x.lastLink = some l → (amGet? x.lastValid l).isSome = true →
      linkUp s l = true → linkPaused s l = false → s.sys.boot ≠ .halt → ∃ t y d k,
        exec (.gapRequestRepeat i) s = .next (settle t) ∧ inst? t i.val = some y ∧ y.e = x.e ∧ y.heldUp = x.heldUp ∧
        y.gapAt = x.gapAt ∧ t.wire = s.wire ++ [d] ∧ d.link = l ∧ d.inst = i.val ∧ firstHeld x = some k ∧
        d.body = .ack (sackOf x) x.e k ∧ Transported s t) ∧
    (x.gapAt = none → exec (.gapRequestRepeat i) s = .next (settle s)) ∧
    (x.gapAt.isSome = true → x.heldUp ≠ [] → ∃ t y, exec (.gapTimeout i) s = .next (settle t) ∧
      Transported (freeLanding x.heldUp s) t ∧
      inst? t i.val = some y ∧ y.heldUp = [] ∧ y.gapAt = none ∧ y.e = x.e ∧ y.placed = x.placed) ∧
    (x.unacked ≠ [] → x.stalled = false → x.expiries < 15 →
      exec (.retransmissionTimeout i) s = .next (settle (resendWhere i.val (fun _ => true)
        (setInst i.val { x with expiries := x.expiries + 1 } s))) ∧
      ∃ t y, exec (.retransmissionTimeout i) s = .next (settle t) ∧ inst? t i.val = some y ∧
        y.expiries = x.expiries + 1 ∧ y.stalled = false ∧ y.e = x.e ∧ y.slots = x.slots ∧ Transported s t) ∧
    (x.unacked ≠ [] → x.stalled = false → 15 ≤ x.expiries →
      exec (.retransmissionTimeout i) s = .next (settle (event kTransport sevNotice noSource i.val
        [] (setInst i.val { x with expiries := x.expiries + 1, stalled := true } s))))

/-- The acceptance instant is one update: the slot becomes HELD with the task's record, its number, its ready instant
and the time of the update; the frames leave the order, the cost leaves the reservation, and behind a trailer the
counter becomes the last accepted one. Only then does the type's own effect follow (R130, R206). -/
def Obligations.AcceptanceIsOneUpdate : Prop :=
  ∀ (i : Nat) (f : TaskFrame) (l : List DataFrame) (ready : Nat) (s : State) (x : Inst), inst? s i = some x →
    ∃ u y t, acceptTask i f l ready s = taskEffect (recOp f.record) i f.env.hdr.slot.toNat l u ∧
      inst? u i = some y ∧ slotOf y f.env.hdr.slot.toNat = some (.held t) ∧ t.op = recOp f.record ∧
      t.record = f.record ∧ t.seq = f.env.hdr.seq ∧ t.ready = ready ∧ t.acceptTime = s.quartz ∧ t.pos = x.pos ∧
      y.pos = x.pos + 1 ∧ y.placed = x.placed.drop (1 + l.length) ∧
      y.ops = consume (taskCost f.record).1 (credited s x).ops ∧ y.bw = consume (taskCost f.record).2 (credited s x).bw ∧
      (hasTrailer f.env.hdr = true → ∀ k, x.cmd = some k → k.gen = f.trailer.keyGen.toNat →
        (y.cmd.map CmdKey.lac) = some f.trailer.counter.toNat) ∧
      (hasTrailer f.env.hdr = false → y.cmd = x.cmd)

/-- The task at the front is judged by the rows once its DATA positions are filled: refused with the reason and DETAIL
of the first row that does not pass, with every position of the task; or it waits; with rows 1 to 11 passed it is
throttled where its buckets do not cover it, and else accepted, but for WRITE and APPEND, which take twin buffers at row
13 and wait for their copies there (R127–R130, R173, R215). ACCEPTANCE_INSTANT: the front whose copies stand in the twin
buffer is judged again by rows 1 to 11, and accepted, refused or made to wait by them; its slot is then HELD; while an
HWT holds a line that it reads it waits (R203). TWIN_WAIT_TIMEOUT refuses the front that has waited for twin space with
TASK_REFUSED and NO_BUFFER; it leaves the order and takes no slot. Neither does anything for another front (R129, R130,
R173). -/
def Obligations.FrontTaskIsJudgedByTheRows : Prop :=
  (∀ (i : Nat) (f : TaskFrame) (n : U32) (t : Land) (rest l : List (U32 × Up × Land)) (x z : Inst) (s r : State),
     inst? s i = some x → x.placed = (n, .task f, t) :: rest → noCount f.record = false → x.waiting = .no →
     (rest.length < upData f.record → judgeFront i s = s) ∧
     (upData f.record ≤ rest.length → l = rest.take (upData f.record) →
       (∀ reason detail, taskRows s i x f (l.map fun p => p.2.1) = .refuse reason detail →
         judgeFront i s = refuseTask i f l.length reason detail 0
           (taggedData f.record (l.map fun p => p.2.1)) (releaseTokens i f.record s)) ∧
       (∀ w, taskRows s i x f (l.map fun p => p.2.1) = .wait w →
         judgeFront i s = waitFront i w (releaseTokens i f.record s)) ∧
       (∀ k, taskRows s i x f (l.map fun p => p.2.1) = .pass → tokensShort s (credited s x) f.record = k → 0 < k →
         judgeFront i s = refuseTask i f l.length rjThrottled 0 k (taggedData f.record (l.map fun p => p.2.1))
           (tally i 0x0005 12 1 (setInst i (credited s x) s))) ∧
       (taskRows s i x f (l.map fun p => p.2.1) = .pass → tokensShort s (credited s x) f.record = 0 →
         z = reserveTask f.record (credited s x) → r = setInst i z s →
         (twinType (recOp f.record) = false →
           judgeFront i s = acceptTask i f (dataFrames (l.map fun p => p.2.1))
             ((l.getLast?.map fun p => p.2.2.at').getD t.at') (countTag i (.task f)
               (taggedData f.record (l.map fun p => p.2.1)) r)) ∧
         (twinType (recOp f.record) = true → twinFits r z (recNblk f.record) = true →
           judgeFront i s = setInst i { z with waiting := .staged, stagedBufs := (takeTwins (recNblk f.record) r).1 }
             (takeTwins (recNblk f.record) r).2)))) ∧
  (∀ (i : Fin 1024) (f : TaskFrame) (l : List Up) (ready since : Nat) (x : Inst) (s : State),
     inst? s i.val = some x → s.sys.open' = true → frontTask x = some (f, l, ready) →
     (x.waiting = .staged → (taskLines i.val f.record).any (hwtLocked s) = true →
       exec (.acceptanceInstant i) s = .next (settle s)) ∧
     (x.waiting = .staged → (taskLines i.val f.record).any (hwtLocked s) = false →
       (taskRows s i.val x f l = .pass → exec (.acceptanceInstant i) s = .next (settle
         (acceptTask i.val f (dataFrames l) ready (countTag i.val (.task f) (taggedData f.record l) s))) ∧
         ∃ u y t, exec (.acceptanceInstant i) s = .next (settle
             (taskEffect (recOp f.record) i.val f.env.hdr.slot.toNat (dataFrames l) u)) ∧
           inst? u i.val = some y ∧ slotOf y f.env.hdr.slot.toNat = some (.held t) ∧ t.record = f.record ∧
           t.seq = f.env.hdr.seq ∧ t.ready = ready ∧ t.acceptTime = s.quartz) ∧
       (∀ reason detail, taskRows s i.val x f l = .refuse reason detail → exec (.acceptanceInstant i) s = .next (settle
         (refuseTask i.val f l.length reason detail 0 (taggedData f.record l) (releaseTokens i.val f.record s)))) ∧
       (∀ w, taskRows s i.val x f l = .wait w →
         exec (.acceptanceInstant i) s = .next (settle (waitFront i.val w (releaseTokens i.val f.record s))))) ∧
     (x.waiting ≠ .staged → exec (.acceptanceInstant i) s = .next (settle s)) ∧
     (x.waiting = .twin since → exec (.twinWaitTimeout i) s = .next (settle
       (refuseTask i.val f l.length rjTaskRefused stNoBuffer 0 (taggedData f.record l) (releaseTokens i.val f.record s))) ∧
       ∃ t y, exec (.twinWaitTimeout i) s = .next (settle t) ∧ inst? t i.val = some y ∧
         y.placed = x.placed.drop (l.length + 1) ∧ y.waiting = .no ∧ y.slots = x.slots ∧ y.e = x.e) ∧
     (x.waiting = .no → exec (.twinWaitTimeout i) s = .next (settle s)))

/-- A task without up DATA frames that takes its position in an empty order, whose rows pass and whose buckets cover
it, is accepted by the command that brings it: its slot is HELD, and its type's effect follows (R127, R129, R130). -/
def Obligations.TaskWithoutDataIsAcceptedAtOnce : Prop :=
  ∀ (p : Nat × (TaskFrame → Instr)) (f : TaskFrame) (s r t : State) (x y z : Inst) (i b : Nat),
    p ∈ taskTypes → recOp f.record = p.1 → upData f.record = 0 → noCount f.record = false → twinType p.1 = false →
    Reaches (.task f) s → ValidFor (.task f) x s → i = f.env.hdr.inst.toNat →
    inst? (received (.task f) s) i = some y →
    allocBuf (landingPool (.task f)) (landingPool (.task f)) false (received (.task f) s) = (some b, r) →
    stateRefusal y = none → f.env.hdr.seq = y.e → y.placed = [] → y.heldUp = [] → y.waiting = .no →
    r.sys.open' = true →
    z = { y with placed := [(f.env.hdr.seq, .task f, { at' := s.quartz, buf := some b })], e := y.e + 1
                 echo := f.env.hdr.time, gapAt := none } →
    t = setInst i z r → taskRows t i z f [] = .pass → tokensShort t (credited t z) f.record = 0 →
    exec (p.2 f) s = .next (settle (acceptTask i f [] s.quartz (countTag i (.task f) (taggedData f.record [])
      (setInst i (reserveTask f.record (credited t z)) t)))) ∧
    ∃ u v k, exec (p.2 f) s = .next (settle (taskEffect p.1 i f.env.hdr.slot.toNat [] u)) ∧ inst? u i = some v ∧
      slotOf v f.env.hdr.slot.toNat = some (.held k) ∧ k.op = p.1 ∧ k.record = f.record ∧ k.seq = f.env.hdr.seq ∧
      k.acceptTime = s.quartz ∧ v.placed = [] ∧ v.e = y.e + 1

/-- An accepted MGMT request: the words of a REG_READ are the reads of its addresses in ascending order, each on the
state the one before left; a REG_WRITE writes its words in ascending order; the reply carries the words and the
ERROR flag as the accesses left it (R98). -/
def Obligations.MgmtRequestsAccessInAscendingOrder : Prop :=
  (∀ (n a : Nat) (s : State), a + 4 * n ≤ 2 ^ 32 →
    (readWords n a s).1.length = n ∧
    ∀ k, k < n → (readWords n a s).1[k]? =
      some (BitVec.ofNat 32 (regRead (a + 4 * k) (readWords k a s).2).1)) ∧
  (∀ (a : Nat) (v : U32) (l : List U32) (s : State), a + 4 * l.length < 2 ^ 32 →
    writeWords a [] s = s ∧
    writeWords a (l ++ [v]) s = regWrite (a + 4 * l.length) v.toNat (writeWords a l s)) ∧
  (∀ (i : Nat) (f : MgmtFrame) (s : State), ∃ u,
    (f.op = 1 → acceptMgmt i f s = mgmtReply f (readWords f.count.toNat f.addr.toNat u).1
      (readWords f.count.toNat f.addr.toNat u).2) ∧
    (f.op ≠ 1 → acceptMgmt i f s = mgmtReply f [] (writeWords f.addr.toNat f.data u)) ∧ u.mgmt.err = false ∧
    u.med = s.med ∧ u.dmc = s.dmc ∧ u.cfl = s.cfl ∧ u.slt = s.slt ∧ u.pwr = s.pwr) ∧
  (∀ (f : MgmtFrame) (c : Instr) (s r t : State) (x y z : Inst) (b : Nat), c ∈ [Instr.regRead f, .regWrite f] →
    Reaches (.mgmt f) s → ValidFor (.mgmt f) x s → f.env.hdr.inst = 0 → inst? (received (.mgmt f) s) 0 = some y →
    allocBuf (landingPool (.mgmt f)) (landingPool (.mgmt f)) false (received (.mgmt f) s) = (some b, r) →
    stateRefusal y = none → r.sys.open' = true → f.env.hdr.seq = y.e → y.placed = [] → y.heldUp = [] →
    z = { y with placed := [(f.env.hdr.seq, .mgmt f, { at' := s.quartz, buf := some b })], e := y.e + 1
                 echo := f.env.hdr.time, gapAt := none } →
    t = setInst 0 z r → mgmtRows t 0 z f = .pass →
    exec c s = .next (settle (acceptMgmt 0 f t)) ∧
    ∃ u, u.mgmt.err = false ∧ u.med = t.med ∧ u.dmc = t.dmc ∧ u.cfl = t.cfl ∧ u.slt = t.slt ∧ u.pwr = t.pwr ∧
      (f.op = 1 → exec c s = .next (settle (mgmtReply f (readWords f.count.toNat f.addr.toNat u).1
        (readWords f.count.toNat f.addr.toNat u).2))) ∧
      (f.op ≠ 1 → exec c s = .next (settle (mgmtReply f [] (writeWords f.addr.toNat f.data u))))) ∧
  (∀ (f : MgmtFrame) (words : List U32) (s : State) (x : Inst), inst? s 0 = some x → ∃ y d,
    inst? (mgmtReply f words s) 0 = some y ∧ y.down = x.down + 1 ∧ y.e = x.e ∧ y.slots = x.slots ∧
    d ∈ y.unacked ++ y.backlog ∧ d.seq = x.down ∧ d.body = .mgmt f.op.toNat f.count.toNat f.addr words ∧
    d.flags = flag (hasTrailer f.env.hdr) 0 + flag s.mgmt.err 8)

/-- A DIAG request in LODESTONE that its responder takes, with its port's queue not full: ops 1 to 5 are answered with
their data, op 6 with the outcome of the release, ops 7 and 8 with UNKNOWN_OP, a count; with 16 waiting it is dropped
and counted; one that the responder does not take is dropped silently (R82). A DIAG request in RUN from a source bound
to instance 0: ops 1 to 5 are answered with their data, RELEASE_BINDING is not permitted, ECHO returns the request's
bytes, LINK_STATUS the link register and free bytes for the lanes (log entry 48). From another source nothing is
answered (R99, R270). An answer leaves on the link of its request and repeats OP, REQ_ID and ARG. RELEASE_BINDING
programs the void mark of the binding in force and nothing else, and only for a certificate that verifies (R71). -/
def Obligations.DiagRequestsAreAnswered : Prop :=
  (∀ (p : Nat × (DiagFrame → Instr)) (f : DiagFrame) (s r q : State), p ∈ diagTypes → f.op.toNat = p.1 →
     s.sys.boot = .lodestone → s.pwr.state < 2 → linkUp s f.env.link.val = true →
     r = countIn f.env.link.val (upBytes s f.env) s →
     (lodestoneTakes s f = false → exec (p.2 f) s = .next (silentDrop f.env.link.val r)) ∧
     (lodestoneTakes s f = true → 16 ≤ nthNat s.sys.diagQueue (f.env.link.val / 8) →
       exec (p.2 f) s = .next { r with sys := { r.sys with
         stest := { r.sys.stest with diagDropped := r.sys.stest.diagDropped + 1 } } }) ∧
     (lodestoneTakes s f = true → nthNat s.sys.diagQueue (f.env.link.val / 8) < 16 →
       q = { r with sys := { r.sys with diagQueue := modNth r.sys.diagQueue (f.env.link.val / 8) (· + 1) } } →
       (∀ n, diagHeaderBad f = some n →
         exec (p.2 f) s = .next (rejectNobody f.env (rejectEnv f.env 8 rjBadHeader n) q)) ∧
       (diagHeaderBad f = none → p.1 ≤ 5 →
         exec (p.2 f) s = .next (diagReply f diagOk (diagData q 0xFFFE f) q) ∧
         (linkPaused s f.env.link.val = false → ∃ t d, exec (p.2 f) s = .next t ∧ t.wire = s.wire ++ [d] ∧
           d.link = f.env.link.val ∧ d.dst = some f.env.src ∧
           d.body = .diag p.1 0 f.reqId f.arg (diagData q 0xFFFE f) f.env.outer.tags ∧ Transported q t)) ∧
       (diagHeaderBad f = none → p.1 = 6 →
         exec (p.2 f) s = .next (diagReply f (releaseBinding f q).1 [] (releaseBinding f q).2) ∧
         (linkPaused s f.env.link.val = false → ∃ t d, exec (p.2 f) s = .next t ∧ t.wire = s.wire ++ [d] ∧
           d.body = .diag 6 (releaseBinding f q).1 f.reqId f.arg [] f.env.outer.tags ∧
           t.fuses = (releaseBinding f q).2.fuses)) ∧
       (diagHeaderBad f = none → 7 ≤ p.1 → exec (p.2 f) s = .next (diagReply f diagUnknownOp []
         { q with sys := { q.sys with diagUnknown := q.sys.diagUnknown + 1 } })))) ∧
  (∀ (p : Nat × (DiagFrame → Instr)) (f : DiagFrame) (s r : State) (x : Inst), p ∈ diagTypes → f.op.toNat = p.1 →
     s.sys.boot = .run → s.pwr.state < 2 → linkUp s f.env.link.val = true → outerOk s f.env = true →
     inst? s 0 = some x → r = countIn f.env.link.val (upBytes s f.env) s →
     (x.params.sources.any (sourceMatch f.env.src) = false → exec (p.2 f) s = .next (settle r)) ∧
     (x.params.sources.any (sourceMatch f.env.src) = true → diagHeaderBad f = none →
       (p.1 ≤ 5 → exec (p.2 f) s = .next (settle (diagReply f diagOk (diagData r 0xFFFF f) r))) ∧
       (p.1 = 6 → exec (p.2 f) s = .next (settle (diagReply f diagNotPermitted [] r))) ∧
       (p.1 = 7 → exec (p.2 f) s = .next (settle (diagReply f diagOk (diagBytes f) r)) ∧
         (linkPaused s f.env.link.val = false → ∃ t d, exec (p.2 f) s = .next (settle t) ∧ t.wire = s.wire ++ [d] ∧
           d.link = f.env.link.val ∧ d.dst = some f.env.src ∧
           d.body = .diag 7 0 f.reqId f.arg (diagBytes f) f.env.outer.tags ∧ Transported s t)) ∧
       (p.1 = 8 → ∃ bytes : List Byte, bytes.length = 16 ∧ exec (p.2 f) s = .next (settle (diagReply f diagOk
         (leBytes 4 (s.eth.up + s.eth.wentDown * 2 ^ 16) ++ bytes) { r with free := s.free + 1 })) ∧
         (linkPaused s f.env.link.val = false → ∃ t d, exec (p.2 f) s = .next (settle t) ∧ t.wire = s.wire ++ [d] ∧
           d.link = f.env.link.val ∧ d.dst = some f.env.src ∧ d.body = .diag 8 0 f.reqId f.arg
             (leBytes 4 (s.eth.up + s.eth.wentDown * 2 ^ 16) ++ bytes) f.env.outer.tags)))) ∧
  (∀ (f : DiagFrame) (s : State),
     (releaseBinding f s).2 = s ∨ ((releaseBinding f s).1 = diagOk ∧ (f.release.any (·.sigOk)) = true ∧
       ∃ n b, bindingNow s = some (n, b) ∧ (releaseBinding f s).2 = { s with fuses := { s.fuses with
         bindings := modNth s.fuses.bindings n fun b => { b with void := true } } }))

/-- R9: a read of the low word of a 64-bit quantity returns it and latches the high word; the next read of the high
word returns the latched value and ends the latch; a read of the high word with no latch returns the live one. -/
def Obligations.LowWordLatchesTheHighWord : Prop :=
  ∀ (a : U32) (v : Nat) (s : State), wide s a.toNat = some v → domainOff s (blockDomain a.toNat) = false →
    (amGet? s.mgmt.hi a.toNat = none → ∃ t, exec (.lowWordRead a) s = .next t ∧
      regRead a.toNat s = (v % 2 ^ 32, t) ∧ amGet? t.mgmt.hi (a.toNat + 4) = some (BitVec.ofNat 32 (v / 2 ^ 32)) ∧
      t = { s with mgmt := { s.mgmt with hi := t.mgmt.hi } }) ∧
    (∀ (h : U32) (u : State), domainOff u (blockDomain (a.toNat + 4)) = false →
      amGet? u.mgmt.hi (a.toNat + 4) = some h →
      (regRead (a.toNat + 4) u).1 = h.toNat ∧ amGet? (regRead (a.toNat + 4) u).2.mgmt.hi (a.toNat + 4) = none) ∧
    (domainOff s (blockDomain (a.toNat + 4)) = false → amGet? s.mgmt.hi (a.toNat + 4) = none → v < 2 ^ 64 →
      regRead (a.toNat + 4) s = (v / 2 ^ 32, s))

/-- The reads that act. Word 0 of the record window latches a record of the chosen recorder, word 31 moves the read
position past it; a read of OBS_HEAD latches its high word and the oldest number; a read of BPM_FREE latches OWNED
and IN_FLIGHT. No other part of the state changes (R354, R385). TAL_CLR removes every count of its group and target
and no other; a group or target that does not exist is refused with a record and an error flag. The end of a
bandwidth window sets each link's rate from the units counted in it, but for those of a frame that lies across the
boundary, and counts on with those (R386, R390; which those are is an operand, log entry 135). What BPM_FREE counts: an
allocation takes the head of the free list, with a count of 1 and POISON clear, unless FREE has come down to the reserved
minimum, or to 0 for a reserved one; an increment past 65,535 fails with a record; a decrement to 0 makes the buffer the
head of the free list; one of a buffer that is free is ignored and raises a fault that names it (R351–R353). -/
def Obligations.LatchingReadsAndCounterClears : Prop :=
  (∀ (w : Fin 32) (p : Fin 64) (s : State),
     (∃ t, exec (.obsRdwinRead w) s = .next t ∧ t = { s with obs := { s.obs with
         latch := t.obs.latch, found := t.obs.found, skipped := t.obs.skipped, rdSeq := t.obs.rdSeq } } ∧
       (w.val = 0 → t.obs.latch = findRecord s s.obs.rdInst s.obs.rdSeq ∧ t.obs.rdSeq = s.obs.rdSeq) ∧
       (w.val ≠ 0 → w.val ≠ 31 → t = s) ∧
       (w.val = 31 → ∀ r, s.obs.latch = some r → t.obs.rdSeq = recNum s.obs.rdInst r + 1 ∧ t.obs.latch = some r)) ∧
     (∃ t, exec .obsHeadRead s = .next t ∧ t = { s with mgmt := { s.mgmt with hi := t.mgmt.hi } } ∧
       amGet? t.mgmt.hi 0x0040000C = some (BitVec.ofNat 32 (s.obs.published / 2 ^ 32)) ∧
       amGet? t.mgmt.hi 0x00400010 = some (BitVec.ofNat 32 (oldestSeq s))) ∧
     (∃ t, exec (.bpmFreeRead p) s = .next t ∧ t = { s with bpm := { s.bpm with pools := t.bpm.pools } })) ∧
  (∀ (v : U32) (g target : Nat) (s : State), g = bits v.toNat 0 16 → target = bits v.toNat 16 16 →
     (groupExists g = false ∨ targetOk s g target = false →
       exec (.talClr v) s = .next (regRefused 0x00500004 v.toNat s)) ∧
     (groupExists g = true → targetOk s g target = true → ∃ t, exec (.talClr v) s = .next t ∧
       (∀ f, f < 65536 → tallyGet t target g f = { value := 0, ovf := false }) ∧
       (∀ target' g' f, g' < 65536 → f < 65536 → (target', g') ≠ (target, g) →
         tallyGet t target' g' f = tallyGet s target' g' f) ∧
       t.obs = s.obs ∧ t.med = s.med ∧ (g ≠ 5 → t.insts = s.insts)) ∧
     (∀ rx tx : List Nat, ∃ t, exec (.bandwidthWindowEnd rx tx) s = .next t ∧ t.tal.rx.length = 16 ∧
       t.tal.tx.length = 16 ∧
       (∀ n, n < 16 → nthNat t.tal.rx n = linkRate (nthNat s.tal.rxUnits n - nthNat rx n) s.tal.bwWin ∧
         nthNat t.tal.tx n = linkRate (nthNat s.tal.txUnits n - nthNat tx n) s.tal.bwWin ∧
         nthNat t.tal.rxUnits n = min (nthNat s.tal.rxUnits n) (nthNat rx n) ∧
         nthNat t.tal.txUnits n = min (nthNat s.tal.txUnits n) (nthNat tx n)) ∧
       t = { s with tal := { s.tal with rx := t.tal.rx, tx := t.tal.tx, rxUnits := t.tal.rxUnits
                                        txUnits := t.tal.txUnits } })) ∧
  (∀ (p b port : Nat) (reserved : Bool) (s : State), p < s.bpm.pools.length →
     (poolFree s p ≤ (if reserved then 0 else (poolAt s p).min) → ∃ t, allocBuf p port reserved s = (none, t) ∧
       poolOwned t p = poolOwned s p ∧ (poolAt t p).fail = ((poolAt s p).fail + 1) % 2 ^ 32) ∧
     ((if reserved then 0 else (poolAt s p).min) < poolFree s p → b = (poolAt s p).head →
       amGet? (poolAt s p).used b = none → ∃ t, allocBuf p port reserved s = (some b, t) ∧
         amGet? (poolAt t p).used b = some { count := 1, poison := false, port := port } ∧
         (poolAt t p).head = nextFree (poolAt s p) b ∧ poolOwned t p = poolOwned s p + 1 ∧
         ∀ q, q ≠ p → poolAt t q = poolAt s q) ∧
     (amGet? (poolAt s p).used b = none →
       decRef p b port s = raise 0x165 (ruleFault kMemory sevDegrade 0x165 noInst [p, b, port]) s) ∧
     (∀ d, amGet? (poolAt s p).used b = some d →
       (d.count < 65535 → ∃ t, incRef p b s = (true, t) ∧
         amGet? (poolAt t p).used b = some { d with count := d.count + 1 }) ∧
       (65535 ≤ d.count → ∃ t, incRef p b s = (false, t) ∧ poolAt t p = poolAt s p ∧ s.obs.seq < t.obs.seq) ∧
       (1 < d.count → amGet? (poolAt (decRef p b port s) p).used b = some { d with count := d.count - 1 }) ∧
       (d.count ≤ 1 → amGet? (poolAt (decRef p b port s) p).used b = none ∧
         (poolAt (decRef p b port s) p).head = b ∧
         nextFree (poolAt (decRef p b port s) p) b = (poolAt s p).head) ∧
       ∀ q, q ≠ p → poolAt (decRef p b port s) q = poolAt s q))

/-! ### Tasks, zones, transactions and keys -/

/-- R212: a task costs the operation tokens and the 4096 bytes per block of Table LT-2, whatever its META, and a task
of zero cost always passes row 12. -/
def Obligations.TaskCostsFollowTheTable : Prop :=
  ∀ (r : BitVec 512),
    (recOp r = 0x01 ∨ recOp r = 0x02 ∨ recOp r = 0x03 ∨ recOp r = 0x08 → taskCost r = (1, 4096 * recNblk r)) ∧
    (recOp r = 0x0F → taskCost r = (1, 4096 * recField r 0x0C 2)) ∧
    (recOp r = 0x0E ∨ recOp r = 0x10 ∨ recOp r = 0x11 ∨ recOp r = 0x12 ∨ recOp r = 0x14 → taskCost r = (1, 4096)) ∧
    (recOp r = 0x0B ∨ recOp r = 0x0C → taskCost r = (0, 0)) ∧
    (recOp r = 0x04 ∨ recOp r = 0x05 ∨ recOp r = 0x06 ∨ recOp r = 0x07 ∨ recOp r = 0x09 ∨ recOp r = 0x0A ∨
      recOp r = 0x0D ∨ recOp r = 0x13 → taskCost r = (1, 0)) ∧
    taskCost (r ^^^ BitVec.ofNat 512 (2 ^ 9)) = taskCost r ∧
    (taskCost r = (0, 0) → ∀ (s : State) (x : Inst), tokensShort s x r = 0)

/-- R125 and R145: each critical type of Table CM-3 requires a trailer, so a record of one without it fails the keyed
check with AUTH_REQUIRED; a FLUSH of a ZONE that is neither 0xFFFF_FFFF nor below the zone count is refused with
ZONE_BOUNDARY. -/
def Obligations.CriticalTypesNeedATrailerAndFlushAZone : Prop :=
  ∀ (s : State) (i : Nat) (x : Inst) (f : TaskFrame) (l : List Up),
    (recOp f.record ∈ [0x06, 0x07, 0x0A, 0x10, 0x12, 0x13, 0x14] → hasTrailer f.env.hdr = false →
      dataOk f l.length 0 l = true → recordBad x f = none → x.params.typeMask.testBit (recOp f.record) = true →
      f.env.hdr.slot.toNat < slotsNow s i x → taskRows s i x f l = .refuse rjAuthRequired 0) ∧
    (recOp f.record = 0x0D → recZoneIdx f.record ≠ 0xFFFFFFFF → x.params.zoneCount ≤ recZoneIdx f.record →
      judgeContent s i x f.record = .refuse stZoneBoundary) ∧
    (recOp f.record = 0x0D → (recZoneIdx f.record = 0xFFFFFFFF ∨ recZoneIdx f.record < x.params.zoneCount) →
      judgeContent s i x f.record = .pass)

/-- A token bucket's account holds through every operation on it: what it holds, has reserved, has consumed and has
spilled is what it began with and was credited (R214). -/
def Obligations.TokenBucketsBalance : Prop :=
  ∀ (b : Bucket) (n d : Nat), bucketEq b →
    (n ≤ b.level → bucketEq (reserve n b)) ∧ (n ≤ b.reserved → bucketEq (consume n b)) ∧
    (n ≤ b.reserved → bucketEq (unreserve d n b) ∧ (unreserve d n b).level ≤ max b.level d) ∧
    bucketEq (clipBucket d b) ∧ (clipBucket d b).level ≤ d ∧
    (∀ (s : State) (x : Inst), bucketEq x.bw → bucketEq x.ops →
      bucketEq (credited s x).bw ∧ bucketEq (credited s x).ops)

/-- The COMPLETION of a HELD task takes the next down number and its slot is DONE in the same update, with the task's
number, its acceptance time and RESULT 0 where the status gives none; an OK or OK_UNWRITTEN outcome past the due
instant becomes OK_LATE (R118, R124, R155, R207). What its blocks hold in the buffer pools is let go. -/
def Obligations.CompletionTakesTheNextNumber : Prop :=
  ∀ (i slot st result : Nat) (dropped : Bool) (s : State) (x : Inst) (t : Task),
    inst? s i = some x → slotOf x slot = some (.held t) →
    (∃ y c trl u, inst? (completeTask i slot st result dropped s) i = some y ∧
      slotOf y slot = some (.done c x.down trl u) ∧ c.op = t.op ∧ c.taskSeq = t.seq ∧ c.dropped = dropped ∧
      c.acceptTime = t.acceptTime ∧
      c.status = (if isLate s t = true ∧ (st = stOk ∨ st = stUnwritten) then stLate else st) ∧
      c.result = resultFor t.op st result ∧ (∀ n, n ≠ slot → slotOf y n = slotOf x n) ∧
      (isLate s t = false → y.down = x.down + 1)) ∧
    (isLate s t = false → ∃ u, u = { s with bpm := u.bpm, fcl := { s.fcl with window := u.fcl.window
                                                                              windowAt := u.fcl.windowAt } } ∧
      (t.blocks = [] → u = s) ∧ Transported u (completeTask i slot st result dropped s)) ∧
    (isLate s t = true ↔ recDeadline t.record ≠ 0 ∧
      (t.cause = .restart ∨ t.ready + recDeadline t.record * 1000 < s.quartz))

/-- The zone operations move a zone as Tables ZN-3 and ZN-4 say; of another zone they change nothing but where its blocks
lie, and of another instance nothing. OPEN makes it EXPLICIT_OPEN, CLOSE closes it or, at write pointer 0, empties it; FINISH fills it and
moves the blocks passed over to WASTE; RESET empties it into its next generation, and at the last one retires it
(R137, R159, R179). -/
def Obligations.ZoneOperationsMoveTheZone : Prop :=
  ∀ (i z key : Nat) (hint : Byte) (s : State) (x : Inst) (zn : Zone), inst? s i = some x → zn = zoneOf x z →
    (∃ y, inst? (zoneOp i 0x04 z key hint s) i = some y ∧ (zoneOf y z).state = .explicitOpen ∧ (zoneOf y z).wp = zn.wp ∧
      (zoneOf y z).gen = zn.gen ∧ (zoneOf y z).blocks = zn.blocks ∧ ∀ w, w ≠ z → zoneOf y w = zoneOf x w) ∧
    (∃ y, inst? (zoneOp i 0x05 z key hint s) i = some y ∧
      (zn.state = .explicitOpen → zn.wp = 0 → (zoneOf y z).state = .empty ∧ (zoneOf y z).gen = zn.gen) ∧
      (zn.state ≠ .explicitOpen ∨ zn.wp ≠ 0 → (zoneOf y z).state = .closed ∧ (zoneOf y z).wp = zn.wp) ∧
      ∀ w, w ≠ z → ∃ l, zoneOf y w = { zoneOf x w with blocks := l }) ∧
    (zn.state ≠ .full → ∃ y, inst? (zoneOp i 0x06 z key hint s) i = some y ∧ (zoneOf y z).state = .full ∧
      (zoneOf y z).wp = x.params.zoneCap ∧ (zoneOf y z).waste = zn.waste + (x.params.zoneCap - zn.wp) ∧
      (zoneOf y z).blocks = zn.blocks ∧ ∀ w, w ≠ z → zoneOf y w = zoneOf x w) ∧
    (zn.state = .empty → zn.blocks = [] → zoneOp i 0x07 z key hint s = s) ∧
    (zn.state ≠ .empty → zn.gen ≠ 2 ^ 42 - 1 → ∃ y, inst? (zoneOp i 0x07 z key hint s) i = some y ∧
      (zoneOf y z).state = .empty ∧ (zoneOf y z).gen = zn.gen + 1 ∧ (zoneOf y z).wp = 0 ∧ (zoneOf y z).waste = 0 ∧
      (zoneOf y z).blocks = [] ∧ ∀ w, w ≠ z → ∃ l, zoneOf y w = { zoneOf x w with blocks := l }) ∧
    (zn.state ≠ .empty → zn.gen = 2 ^ 42 - 1 → zn.genExhausted = false → zn.txn = none →
      ∃ y, inst? (zoneOp i 0x07 z key hint s) i = some y ∧ (zoneOf y z).state = .offline ∧
        (zoneOf y z).genExhausted = true ∧ (zoneOf y z).gen = zn.gen) ∧
    (∀ j, j ≠ i → inst? (zoneOp i 0x05 z key hint s) j = inst? s j ∧ inst? (zoneOp i 0x06 z key hint s) j = inst? s j)

/-- An accepted write stores its blocks, sealed under the zone's key and the nonce of their place, in the twin buffers
reserved for them, in order from the write pointer, which moves past them; at ZONE_CAP the zone is
FULL, else an EXPLICIT_OPEN zone stays so and another one is IMPLICIT_OPEN. As members of a transaction the blocks
count as PENDING (R136, R157, R161, R172, R178). -/
def Obligations.WritesAdvanceTheWritePointer : Prop :=
  ∀ (i z key pos : Nat) (hint : Byte) (desc : Option Nat) (l : List DataFrame) (s : State) (x : Inst) (zn : Zone),
    inst? s i = some x → zn = zoneOf x z →
    ∃ y, inst? (storeZone i z key pos hint desc l s) i = some y ∧ (zoneOf y z).wp = zn.wp + l.length ∧
      (zoneOf y z).state = (if x.params.zoneCap ≤ zn.wp + l.length then .full
        else if zn.state = .explicitOpen then .explicitOpen else .implicitOpen) ∧
      (zoneOf y z).gen = zn.gen ∧ (zoneOf y z).waste = zn.waste ∧
      (zoneOf y z).pending = (if desc.isSome then zn.pending + l.length else zn.pending) ∧
      (∀ n d, l[n]? = some d → ∃ b, amGet? (zoneOf y z).blocks (zn.wp + n) = some b ∧
        b.box = sealFor x (zoneOf y z).key (zoneNonce i z (zn.wp + n) zn.gen) 0 d ∧ b.twin = x.stagedBufs[n]? ∧
        b.onFlash = false ∧ b.pos = pos ∧ b.desc = desc ∧ b.harm = .whole) ∧
      y.e = x.e ∧ y.slots = x.slots ∧ ∀ w, w ≠ z → zoneOf y w = zoneOf x w

/-- A block of a READ: unwritten, or written in a transaction that has not committed, it is fill; a poisoned or lost one
fails; one in the twin buffer goes to a lane as it stands; one at rest is read from its place. The status of the read is
the first of lost, poisoned, a failed tag and unwritten that occurred. A lane's answer for the last open block ends the
READ: the block is sent where its tag verifies under the key and nonce of its place, else it has failed (R133, R134,
R171, R175, R178, R189, R310). -/
def Obligations.ReadsReturnWhatStands : Prop :=
  (∀ (s : State) (x : Inst) (k : BlkKey) (b : Stored), stored? s k = some b →
    (b.desc.isSome = true → (readBlock s x k).stage = .fill ∧ (readBlock s x k).data = fillBlock x.params.fill) ∧
    (b.desc = none → b.harm ≠ .whole → (readBlock s x k).stage = .failed ∧ (readBlock s x k).harm = b.harm) ∧
    (b.desc = none → b.harm = .whole → b.onFlash = false → (readBlock s x k).stage = .lane ∧
      (readBlock s x k).box = some b.box ∧ (readBlock s x k).twin = b.twin) ∧
    (b.desc = none → b.harm = .whole → b.onFlash = true → (readBlock s x k).stage = .array 0 ∧
      (readBlock s x k).box = some b.box ∧ (readBlock s x k).place = b.place) ∧
    (b.desc = none → k.conv = false →
      (readBlock s x k).nonce = zoneNonce k.inst k.zone k.offset (zoneOf x k.zone).gen)) ∧
  (∀ (s : State) (x : Inst) (k : BlkKey), stored? s k = none →
    (readBlock s x k).stage = .fill ∧ (readBlock s x k).data = fillBlock x.params.fill) ∧
  (∀ t : Task, (t.lost = true → readStatus t = stUnrecovered) ∧
    (t.lost = false → t.poison = true → readStatus t = stPoisoned) ∧
    (t.lost = false → t.poison = false → t.authFail = true → readStatus t = stDataAuth) ∧
    (t.lost = false → t.poison = false → t.authFail = false → 0 < t.fillCount → readStatus t = stUnwritten) ∧
    (t.lost = false → t.poison = false → t.authFail = false → t.fillCount = 0 → readStatus t = stOk)) ∧
  (∀ (i : Fin 1024) (slot blk : Fin 256) (s : State) (x : Inst) (t : Task) (b : ReadBlock) (a : Sealed),
    inst? s i.val = some x → heldTask s i.val slot.val = some t → t.blocks[blk.val]? = some b → b.stage = .lane →
    b.box = some a → t.looked = true → t.holds = [] → t.op = 0x01 → t.heldBack = none → openBlocks t = 1 →
    (∀ p, openData x.params.metaFmt (amGetD x.keys a.key 0) b.nonce a = some p →
      ∃ u y c n r e, exec (.cipherBlockComplete i slot blk .pass) s = .next (settle u) ∧ inst? u i.val = some y ∧
        slotOf y slot.val = some (.done c n r e) ∧ c.op = 0x01 ∧ c.taskSeq = t.seq ∧ c.result = readResult t ∧
        c.status = (if isLate s t = true ∧ canBeLate (readStatus t) = true then stLate else readStatus t)) ∧
    (∃ u y c n r e, exec (.cipherBlockComplete i slot blk .tagFail) s = .next (settle u) ∧ inst? u i.val = some y ∧
      slotOf y slot.val = some (.done c n r e) ∧ c.op = 0x01 ∧ c.taskSeq = t.seq ∧
      c.status = readStatus { t with authFail := true } ∧ u.cph.tagfail = (s.cph.tagfail + 1) % 2 ^ 32 ∧
      c.result = readResult { t with failedCount := t.failedCount + 1
                                     failedFirst := if t.failedCount = 0 then blk.val else min t.failedFirst blk.val }) ∧
    (∃ u y c n r e, exec (.cipherBlockComplete i slot blk .poison) s = .next (settle u) ∧ inst? u i.val = some y ∧
      slotOf y slot.val = some (.done c n r e) ∧ c.op = 0x01 ∧ c.taskSeq = t.seq ∧
      c.status = readStatus { t with poison := true } ∧ u.cph = s.cph))

/-- ABORT catches a running task of an abortable type that carries the number it names, and no other; RESULT says what
it found (R143). MAILBOX_SEND and MAILBOX_READ wait for their delivery; then a message that the recipient cannot take
answers INSTANCE_STATE or SLOT_BUSY, another joins its mailbox, and a read takes the oldest message away; KEY_ERASE empties
its key slot and no other (R149, R150, R308). That a delivery comes at the next idle moment is the model's choice (log
entry 118). -/
def Obligations.AbortMailboxAndKeyErase : Prop :=
  (∀ (x : Inst) (n : Nat) (q : U32) (t : Task) (c : Completion) (d : U32) (r : Option Trailer),
    (slotOf x n = none → abortOutcome x n q = (false, 0x40)) ∧
    (slotOf x n = some (.held t) →
      (t.seq ≠ q → abortOutcome x n q = (false, 0x40)) ∧
      (t.seq = q → opAbortable t.op = false → abortOutcome x n q = (false, 0x20)) ∧
      (t.seq = q → opAbortable t.op = true → t.latch ≠ .running → abortOutcome x n q = (false, 0x10)) ∧
      (t.seq = q → opAbortable t.op = true → t.latch = .running → abortOutcome x n q = (true, 1))) ∧
    (slotOf x n = some (.done c d r t) → abortOutcome x n q = (false, if c.taskSeq = q then 0x30 else 0x40))) ∧
  (∀ (i slot to' : Nat) (s : State) (t : Task) (x y : Inst), heldTask s i slot = some t → inst? s i = some x →
    to' = recField t.record 0x08 2 →
    acceptMailboxSend i slot s = { s with sys := { s.sys with due := s.sys.due ++ [(i, slot, t.seq)] } } ∧
    acceptMailboxRead i slot s = { s with sys := { s.sys with due := s.sys.due ++ [(i, slot, t.seq)] } } ∧
    (t.latch = .running → t.holds = [] → t.op = 0x10 → deliverOne i slot t.seq s = deliverMessage i slot s) ∧
    (t.latch = .running → t.holds = [] → t.op = 0x11 → deliverOne i slot t.seq s = readMailbox i slot s) ∧
    (t.latch ≠ .running → deliverOne i slot t.seq s = s) ∧
    (inst? s to' = none → deliverMessage i slot s = completeTask i slot stInstState 0 false s) ∧
    (inst? s to' = some y → inService y = false →
      deliverMessage i slot s = completeTask i slot stInstState 0 false s) ∧
    (inst? s to' = some y → inService y = true → y.params.mboxDepth ≤ y.mbox.length →
      deliverMessage i slot s = completeTask i slot stSlotBusy 0 false s) ∧
    (inst? s to' = some y → inService y = true → y.mbox.length < y.params.mboxDepth →
      ∃ u z, deliverMessage i slot s =
          completeTask i slot stOk (Config.messageNumber to' y.mboxCount).toNat false u ∧
        inst? u to' = some z ∧ z.mbox = y.mbox ++ [{ sender := i, num := y.mboxCount, harm := .whole
                                                     bytes := (bytesOf 4096 t.payload).take (recField t.record 0x0A 2) }]) ∧
    (x.mbox = [] → readMailbox i slot s = completeTask i slot stOk 0 false s) ∧
    (∀ m l, x.mbox = m :: l → ∃ u z e, readMailbox i slot s = sendReport i slot u ∧ inst? u i = some z ∧ z.mbox = l ∧
      heldTask u i slot = some e ∧ e.reply = [blockOf m.bytes] ∧
      e.result = m.sender + m.bytes.length * 2 ^ 16 + l.length * 2 ^ 32) ∧
    (∃ u z, acceptKeyErase i slot s = completeTask i slot stOk 0 false u ∧ inst? u i = some z ∧
      amGet? z.keys (recField t.record 0x08 2) = none ∧
      ∀ k, k ≠ recField t.record 0x08 2 → amGet? z.keys k = amGet? x.keys k))

/-- TXN_BEGIN opens the lowest free descriptor with its own timeout or the instance's, and stages one journal record. A
transaction that times out is aborted by the device: its state is DEV_ABORTED, the blocks its members wrote move
from PENDING to WASTE in the same update, and a NOTICE record says so; a number that names no open transaction
changes nothing (R140, R183, R191, R192, R195). -/
def Obligations.TransactionsOpenAndTimeOut : Prop :=
  (∀ (i txn timeout : Nat) (seq : U32) (s : State) (x : Inst), inst? s i = some x →
    (amGet? s.jrn.descs (freeDesc s)).isNone = true ∧
    ∃ d, amGet? (beginTxn i txn timeout seq s).jrn.descs (freeDesc s) = some d ∧ d.state = .opened ∧ d.inst = i ∧
      d.txnId = txn ∧ d.members = [] ∧ d.began = s.quartz ∧
      d.timeoutMs = (if timeout = 0 then x.params.txnTimeoutMs else timeout) ∧
      (beginTxn i txn timeout seq s).jrn.jseq = s.jrn.jseq + 1 ∧
      (beginTxn i txn timeout seq s).jrn.staging.length = s.jrn.staging.length + 1 ∧
      beginTxn i txn timeout seq s = { s with jrn := (beginTxn i txn timeout seq s).jrn }) ∧
  (∀ (n i z : Nat) (s : State) (x y : Inst), inst? s i = some x → inst? (wastePending n i s) i = some y →
    (∀ zn, amGet? x.zones z = some zn → zn.txn = some n →
      (zoneOf y z).waste = zn.waste + zn.pending ∧ (zoneOf y z).pending = 0 ∧ (zoneOf y z).wp = zn.wp ∧
      ∀ b ∈ (zoneOf y z).blocks, b.2.desc ≠ some n) ∧
    (∀ zn, amGet? x.zones z = some zn → zn.txn ≠ some n → zoneOf y z = zn)) ∧
  (∀ (i : Fin 1024) (id : U16) (n : Nat) (d : Desc) (s : State),
    (s.jrn.descs.find? (fun p => p.2.inst = i.val && p.2.txnId = id.toNat && p.2.state = .opened) = none →
      exec (.txnTimeout i id) s = .next (settle s)) ∧
    (s.jrn.descs.find? (fun p => p.2.inst = i.val && p.2.txnId = id.toNat && p.2.state = .opened) = some (n, d) →
      amGet? s.jrn.descs n = some d → ∃ t e, exec (.txnTimeout i id) s = .next (settle t) ∧
        amGet? t.jrn.descs n = some e ∧ e.state = .devAborted ∧ e.members = d.members ∧
        s.obs.seq < t.obs.seq ∧ t.med = s.med ∧ t.wire = s.wire))

/-- JOURNAL_PAGE_PROGRAMMED ends the oldest page; with none in flight nothing happens. A programmed abort frees its
descriptor with its records. A programmed commit whose lines no HWT holds is applied: its zones' lines are locked, its
descriptor is free, and its TXN_COMMIT completes with what it counted at acceptance; one whose lines an HWT has locked
waits (R190, R196, R197, R202, R203). HWT_LOCK_RELEASE ends the locks of the HWT that holds the line, and no other. -/
def Obligations.JournalPagesTakeEffectInOrder : Prop :=
  ∀ (s : State) (line : U64),
    (s.jrn.pages = [] → exec .journalPageProgrammed s = .next (settle s)) ∧
    (∀ page rest n d, s.jrn.pages = page :: rest → page.descs = [n] → amGet? s.jrn.descs n = some d →
      (d.state ≠ .committing → ∃ u, exec .journalPageProgrammed s = .next (settle u) ∧
        amGet? u.jrn.descs n = none ∧ (∀ r ∈ u.jrn.staging ++ u.jrn.slc, ofDesc n r = false) ∧
        (∀ p ∈ u.jrn.pages, n ∉ p.descs) ∧ u.med = s.med ∧ u.wire = s.wire) ∧
      (∀ t, d.state = .committing → (txnLines d).any (hwtLocked s) = false → heldTask s d.inst d.slot = some t →
        t.desc = some n → ∃ u y c m r e, exec .journalPageProgrammed s = .next (settle u) ∧
          amGet? u.jrn.descs n = none ∧ (∀ q ∈ u.jrn.staging ++ u.jrn.slc, ofDesc n q = false) ∧
          (txnLines d ≠ [] → txnLines d ∈ u.jrn.locks) ∧ inst? u d.inst = some y ∧
          slotOf y d.slot = some (.done c m r e) ∧ c.op = t.op ∧ c.taskSeq = t.seq ∧
          c.status = (if isLate s t = true then stLate else stOk) ∧ c.result = t.result)) ∧
    (∀ n d, amGet? s.jrn.descs n = some d →
      (d.state ≠ .committing → d.undo = [] → (groupDone n s).insts = s.insts) ∧
      (d.state = .committing → (txnLines d).any (hwtLocked s) = true → n ∉ s.jrn.waitingApply →
        groupDone n s = { s with jrn := { s.jrn with waitingApply := s.jrn.waitingApply ++ [n] } })) ∧
    (s.mch.waiting = [] → s.jrn.waitingApply = [] → s.jrn.waitingHwt = [] → s.jrn.waitingPoison = [] →
      s.jrn.waitingReads = [] → ¬(s.slt.state = 4 ∧ s.slt.step = 7) →
      exec (.hwtLockRelease line) s = .next (settle { s with jrn := { s.jrn with
        locks := s.jrn.locks.filter fun l => !l.contains line.toNat } }))

/-- KEY_UNWRAP_COMPLETE ends the key task that was accepted first: a malformed key gives BAD_RECORD, a failed check
DATA_AUTH, a whole one the key in its slot and OK. A rotation that is confirmed installs the next generation, the
one in force becomes the previous one, and no grace period follows it (R152, R302–R305). -/
def Obligations.UnwrappedKeysTakeTheirSlot : Prop :=
  ∀ (i : Fin 1024) (s : State) (x : Inst) (slot : Nat) (t : Task) (b : List Byte), inst? s i.val = some x →
    b = bytesOf 4096 t.payload →
    (keyTask x = none → exec (.keyUnwrapComplete i) s = .next (settle s)) ∧
    (keyTask x = some (slot, t) → slotOf x slot = some (.held t) →
      (∀ w u, t.op = 0x12 → w = b.take (recField t.record 0x0A 2) →
        u = unwrapUnder x.cmd 1 0 i.val (recField t.record 0x08 2) w →
        ∃ v y c n r e, exec (.keyUnwrapComplete i) s = .next (settle v) ∧ inst? v i.val = some y ∧
          slotOf y slot = some (.done c n r e) ∧ c.op = 0x12 ∧ c.taskSeq = t.seq ∧
          (u = .malformed → c.status = stBadRecord ∧ c.result = 0 ∧ y.keys = x.keys ∧ v.cph = s.cph) ∧
          (u = .failed → c.status = stDataAuth ∧ c.result = 0 ∧ y.keys = x.keys ∧
            v.cph.sealfail = (s.cph.sealfail + 1) % 2 ^ 32) ∧
          (∀ k, u = .ok k → (b.drop (recField t.record 0x0A 2)).any (· != 0) = true →
            c.status = stBadRecord ∧ y.keys = x.keys) ∧
          (∀ k, u = .ok k → (b.drop (recField t.record 0x0A 2)).any (· != 0) = false →
            c.status = (if isLate s t = true then stLate else stOk) ∧ c.result = recField t.record 0x08 2 ∧
            amGet? y.keys (recField t.record 0x08 2) = some k ∧
            ∀ q, q ≠ recField t.record 0x08 2 → amGet? y.keys q = amGet? x.keys q)) ∧
      (∀ k gen n, t.op ≠ 0x12 → gen = recField t.record 0x08 1 → n = recField t.record 0x0A 2 →
        unwrapUnder x.cmd 2 gen i.val 0 (b.take n) = .ok k → (b.drop (n + 16)).any (· != 0) = false →
        (b.drop n).take 16 = confOf k i.val gen ((t.trailer.map fun r => r.counter.toNat).getD 0) →
        ∃ v y c m r e q, exec (.keyUnwrapComplete i) s = .next (settle v) ∧ inst? v i.val = some y ∧
          slotOf y slot = some (.done c m r e) ∧ c.taskSeq = t.seq ∧
          c.status = (if isLate s t = true then stLate else stOk) ∧ c.result = gen ∧
          y.cmd = some q ∧ q.key = k ∧ q.lac = 0 ∧ q.gen = nextGen x ∧ y.prev = x.cmd ∧ y.graceEnd = none))

/-- A violation counts in its window. A tenant that reaches the limit enters quarantine with one NOTIFY and one DEGRADE
record; instance 0 never does. RELEASE by the manager with the key ends the quarantine and its count, and leaves E
as it stands; a doorbell sends one NOTIFY, and for an instance that is not created nothing but the refusal (R117,
R278, R282). The end of a miss sub-window drops the oldest of the 16 counts and begins a new one; the ESCALATED
flag clears exactly where the count of the window that ends is at or below the limit. The device's window does the
same, and carries the NOTICE counts of the sources with it (R228, R371). -/
def Obligations.ViolationsAndMissWindows : Prop :=
  (∀ (i : Fin 1024) (v : U32) (s : State) (x : Inst), inst? s i.val = some x →
     (∃ y, inst? (violate i.val s) i.val = some y ∧ y.slots = x.slots ∧ y.e = x.e ∧
       (i.val = 0 → y.quarantined = x.quarantined) ∧
       (x.viol ≠ 0 → s.quartz < x.violWindow + x.params.violWindowUs * 1000 → y.viol = min (x.viol + 1) 0xFFFF) ∧
       (x.viol = 0 → y.viol = 1) ∧ (x.quarantined = true → y.quarantined = true) ∧
       (i.val ≠ 0 → 0 < x.params.violLimit → x.params.violLimit ≤ y.viol → y.quarantined = true)) ∧
     (bits v.toNat 16 16 ≠ 0x9E1A →
       exec (.release i v) s = .next (regRefused (0x0100000C + 0x1000 * i.val) v.toNat s)) ∧
     (bits v.toNat 16 16 = 0x9E1A → v.getLsbD 0 = true → x.quarantined = true → ∃ t y, exec (.release i v) s = .next t ∧
       inst? t i.val = some y ∧ y.quarantined = false ∧ y.viol = 0 ∧ y.e = x.e ∧ y.slots = x.slots ∧ Transported s t) ∧
     (∃ t y, exec (.doorbell i v) s = .next t ∧ inst? t i.val = some y ∧ y.down = x.down + 1 ∧ y.e = x.e ∧
       y.slots = x.slots ∧ y.mbox = x.mbox ∧ Transported s t ∧ (∀ l, x.unacked.length < 1024 → x.lastLink = some l →
         (amGet? x.lastValid l).isSome = true → linkUp s l = true → linkPaused s l = false → s.sys.boot ≠ .halt →
         ∃ d, t.wire = s.wire ++ [d] ∧ d.link = l ∧ d.inst = i.val ∧ d.seq = x.down ∧
           d.body = .notify 0x000A 2 (v.toNat % 2 ^ 32) (x.mbox.length % 2 ^ 32) s.quartz)) ∧
     (∀ j : Fin 1024, inst? s j.val = none →
       exec (.doorbell j v) s = .next (regRefused (0x01000010 + 0x1000 * j.val) v.toNat s))) ∧
  (∀ (i : Fin 1024) (s : State),
     (inst? s i.val = none → exec (.missSubwindowEnd (some i)) s = .next s) ∧
     (∀ x, inst? s i.val = some x → ∃ t y, exec (.missSubwindowEnd (some i)) s = .next t ∧ inst? t i.val = some y ∧
       y.misses = (0 :: x.misses).take 16 ∧
       (y.escalated = true ↔ x.escalated = true ∧ x.params.missLimit < sumNat x.misses) ∧ y.slots = x.slots ∧
       t.fcl.missDev = s.fcl.missDev) ∧
     (∃ t, exec (.missSubwindowEnd none) s = .next t ∧ t.fcl.missDev = (0 :: s.fcl.missDev).take 16 ∧
       (t.fcl.escalated = true ↔ s.fcl.escalated = true ∧ s.img.missLimit < sumNat s.fcl.missDev) ∧
       t.fcl.noticeCnt = s.fcl.noticeCnt.map (fun p => (p.1, (0 :: p.2).take 16)) ∧ t.insts = s.insts))

/-! ### Flash, DRAM and the map cache -/

/-- What a die answers. A read that ends decoded leaves the queue and its block goes on to a lane; a program that passes
leaves one program less of its set; an erase that passes leaves its block erased once more, one that fails leaves it bad. A
command about a die that is absent, or whose state it does not fit, changes nothing (R221, R222, R247, R254, R256). Limits
and suspensions. An operation past its limit is given RESET; a second limit within 1 s, or a RESET that is not answered,
loses the die. An answered RESET is reported on the channel's line, and the die is reset no more. A suspended operation
resumes when its cap is reached; a die that reports itself suspended stays so for a read with a deadline (R222–R225, R255).
Read levels of a block. A soft stage that succeeds makes the entry it used, one after the block's for stage 3 and two
after it for stage 4, modulo RETRY_STEPS, the block's index, and no other block's index changes; a hard stage changes none
(R248). -/
def Obligations.DieOperationsEndOrAreEnded : Prop :=
  (∀ (die : Fin 4096) (plane : Fin 4) (o : ReadOutcome) (pass : Bool) (s : State) (x : Die), die? s die.val = some x →
     (∀ r t b pl st, x.reads = [r] → r.plane = plane.val → r.job = none → r.recon = false → servesReads x = true →
       readTask s r = some t → t.blocks[r.blk]? = some b → b.place = some pl →
       ∃ u y c, exec (.nandReadComplete die plane (.decoded st)) s = .next (settle u) ∧ die? u die.val = some y ∧
         y.reads = [] ∧ blockAt? u r.inst r.slot r.blk = some c ∧ c.stage = .lane ∧ c.box = b.box ∧ u.wire = s.wire) ∧
     (x.reads.find? (fun q => q.plane = plane.val) = none ∨ servesReads x = false →
       exec (.nandReadComplete die plane o) s = .next (settle s)) ∧
     (∀ n pr, x.op = .program n → x.nested = none → x.phase = .running → x.lost = false → injected s die.val 2 = false →
       injected s die.val 4 = false → x.reads = [] → x.waitProgs = [] → x.eraseQ = [] →
       amGet? s.med.progs n = some pr → pr.redo = [] → 2 ≤ pr.left.length →
       ∃ u y, exec (.nandProgramComplete die true) s = .next (settle u) ∧ die? u die.val = some y ∧ y.op = .idle ∧
         amGet? u.med.progs n = some { pr with left := removeOne die.val pr.left } ∧ u.insts = s.insts ∧
         u.med.sbs = s.med.sbs ∧ u.wire = s.wire) ∧
     (∀ b, x.op = .erase b → x.phase = .running → x.lost = false → injected s die.val 3 = false →
       injected s die.val 4 = false →
       (∃ u y, exec (.nandEraseComplete die true) s = .next (settle u) ∧ die? u die.val = some y ∧
         amGet? y.erasesDone b = some (min s.img.profile.endurance (amGetD x.erasesDone b 0 + 1))) ∧
       (∃ u y, exec (.nandEraseComplete die false) s = .next (settle u) ∧ die? u die.val = some y ∧
         b ∈ y.bad ∧ x.retired < y.retired)) ∧
     (x.op = .idle → x.nested = none → exec (.nandProgramComplete die pass) s = .next (settle s) ∧
       exec (.nandEraseComplete die pass) s = .next (settle s))) ∧
  (∀ (die : Fin 4096) (s : State) (x : Die), die? s die.val = some x → x.lost = false → x.nested = none →
     (x.op ≠ .idle → injected s die.val 4 = false →
       ((∀ t, x.lastLimit = some t → t + 1000000000 < s.quartz) → ∃ t y, exec (.operationLimit die) s =
         .next (settle t) ∧ die? t die.val = some y ∧
         y = { x with phase := .resetting, lastLimit := some s.quartz } ∧ t.insts = s.insts ∧ t.obs = s.obs) ∧
       (∀ t, x.lastLimit = some t → s.quartz ≤ t + 1000000000 → ∃ u y, exec (.operationLimit die) s =
         .next (settle u) ∧ die? u die.val = some y ∧ y.lost = true ∧ y.op = .idle ∧ die.val ∈ u.med.rebuild)) ∧
     (x.phase = .resetting →
       (∃ t y f, exec (.dieResetTimeout die) s = .next (settle t) ∧ die? t die.val = some y ∧ y.lost = true ∧
         y.op = .idle ∧ die.val ∈ t.med.rebuild ∧ f ∈ t.fcl.window ∧ f.source = 0xC0 + die.val / 64) ∧
       (∃ t y f, exec (.dieResetAnswered die) s = .next (settle t) ∧ die? t die.val = some y ∧
         y.phase ≠ .resetting ∧ f ∈ t.fcl.window ∧ f.source = 0xC0 + die.val / 64 ∧ f.payload = die.val)) ∧
     (x.phase ≠ .resetting → exec (.dieResetTimeout die) s = .next (settle s) ∧
       exec (.dieResetAnswered die) s = .next (settle s)) ∧
     (x.phase = .suspending →
       (x.reads.any (fun r => r.due.isSome) = true → ∃ t y, exec (.dieSuspended die) s = .next (settle t) ∧
         die? t die.val = some y ∧ y.phase = .suspended ∧ y.op = x.op ∧ y.suspendedAt = s.quartz) ∧
       (x.reads = [] → ∃ t f, exec (.suspensionTimeout die) s = .next (settle t) ∧ t.med = s.med ∧
         t.fcl.missDev = modNth s.fcl.missDev 0 (· + 1) ∧ f ∈ t.fcl.window ∧ f.code = kInternalMiss)) ∧
     (x.phase ≠ .suspending → exec (.dieSuspended die) s = .next (settle s) ∧
       exec (.suspensionTimeout die) s = .next (settle s)) ∧
     (x.phase = .suspended → resumeFits s x = true → ∃ t y, exec (.suspensionCapReached die) s = .next (settle t) ∧
       die? t die.val = some y ∧ y.phase = .running ∧ y.op = x.op ∧
       y.suspendedNs = x.suspendedNs + (s.quartz - x.suspendedAt)) ∧
     (x.phase ≠ .suspended → exec (.suspensionCapReached die) s = .next (settle s))) ∧
  (∀ (d b stage ix : Nat) (pl : Nat × Nat) (s : State) (x : Die), die? s d = some x → blockAt s d pl = some b →
     ix = (amGetD x.levels b 0 + (stage - 2)) % max 1 (min 16 s.img.profile.retrySteps) →
     ∃ y, die? (readLevels d pl stage true s) d = some y ∧ y.entry = some ix ∧
       (3 ≤ stage → amGetD y.levels b 0 = ix) ∧ (stage < 3 → y.levels = x.levels) ∧
       ∀ c, c ≠ b → amGetD y.levels c 0 = amGetD x.levels c 0)

/-- The block counts of a die: every block is FREE, OPEN, FULL, RETIRED or SPARE. An erase that passes makes one more
block ERASED, raises its count, which sticks at ENDURANCE, and resets its read-level index to 0; one that fails
retires the block, and a SPARE block takes its place where there is one (R248, R253, R254, R256, R257). Background
work of the flash. The group that a zone fills in SLC, once its data have waited long enough, is padded and programmed;
the patrol counts the page, leaves a block that reads clean as it is and poisons one that is lost; a rebuild that ends
leaves the list and every superblock's replacements, with RESTORED unless the die is beyond repair (R245, R258, R264,
R265). -/
def Obligations.EraseKeepsTheBlockCountsAndBackgroundWork : Prop :=
  (∀ (d b n : Nat) (pass : Bool) (s : State) (x : Die), die? s d = some x → dieEq n x → 0 < x.free →
     ∃ y, die? (eraseEnds d b pass s) d = some y ∧ dieEq n y ∧ y.opened = x.opened ∧ y.full = x.full ∧
       (pass = true → y.erased = x.erased + 1 ∧ y.free = x.free ∧ y.retired = x.retired ∧
         amGet? y.erasesDone b = some (min s.img.profile.endurance (amGetD x.erasesDone b 0 + 1)) ∧ amGetD y.levels b 0 = 0) ∧
       (pass = false → y.retired = x.retired + 1 ∧ (0 < x.spare → y.spare = x.spare - 1 ∧ y.free = x.free) ∧
         (x.spare = 0 → y.free = x.free - 1)) ∧
       ∀ e, e ≠ d → die? (eraseEnds d b pass s) e = die? s e) ∧
  (∀ (i : Fin 1024) (zone : U32) (s : State) (x : Inst) (n g : Nat) (b : Superblock), zone.toNat ≠ 0xFFFFFFFF →
     inst? s i.val = some x →
     ((zoneOf x zone.toNat).sb = none → exec (.stagingExtentTimeout i zone) s = .next (settle s)) ∧
     ((zoneOf x zone.toNat).sb = some n → extentFree (zoneOf x zone.toNat) = true → sb? s n = some b →
       b.closed = false → b.slc = true → g = groupBlocks s.img.profile b.members.length true → 0 < g →
       b.used % g ≠ 0 → b.issued * g < b.used / g * g + g →
       b.used / g * g + g < sbBlocks s.img.profile b.members.length true →
       groupAsked s (fun _ => true) n b = true →
       ∃ t c p, exec (.stagingExtentTimeout i zone) s = .next (settle t) ∧ sb? t n = some c ∧
         c.used = b.used / g * g + g ∧ c.issued = b.issued + 1 ∧ c.closed = false ∧
         amGet? t.med.progs s.med.nextProg = some p ∧ p.sb = n ∧ p.groups = 1 ∧ p.first = b.used / g ∧
         t.insts = s.insts ∧ t.wire = s.wire)) ∧
  (∀ (i : Fin 1024) (conv : Bool) (addr : U64) (o : ScrubOutcome) (s : State) (k : BlkKey), k = patrolKey i.val conv addr →
     (stored? s k = none → exec (.patrolScrub i conv addr o) s = .next (settle s)) ∧
     (∀ b, stored? s k = some b → b.onFlash = true → b.harm = .whole →
       (∀ st m, st < 3 → m ≤ refreshBits s i.val → ∃ t, exec (.patrolScrub i conv addr (.decoded st m)) s = .next (settle t) ∧
         t.med.patrolled = s.med.patrolled + 1 ∧ t.med.poison = s.med.poison ∧ t.med.sbs = s.med.sbs ∧
         t.med.progs = s.med.progs ∧ t.insts = s.insts) ∧
       (∃ t, exec (.patrolScrub i conv addr .reconstructed) s = .next (settle t) ∧
         t.med.patrolled = s.med.patrolled + 1 ∧ t.med.poison = s.med.poison ∧ s.obs.seq < t.obs.seq) ∧
       (hwtLocked s (keyLine k) = false → ∃ t c, exec (.patrolScrub i conv addr .lost) s = .next (settle t) ∧
         stored? t k = some c ∧ c.harm = .lost ∧ c.box = b.box ∧ hwtLocked t (keyLine k) = true ∧
         t.med.patrolled = s.med.patrolled + 1 ∧ t.med.poison = satInc s.med.poison ∧ s.obs.seq < t.obs.seq))) ∧
  (∀ (die : Fin 4096) (s : State),
     (s.med.rebuild.contains die.val = false → exec (.rebuildComplete die) s = .next (settle s)) ∧
     (s.med.rebuild.contains die.val = true → ∃ t, exec (.rebuildComplete die) s = .next (settle t) ∧
       t.med.rebuild = s.med.rebuild.filter (· != die.val) ∧ t.med.rebuildPct = 100 ∧
       (∀ p ∈ t.med.sbs, ∀ r ∈ p.2.rebuilding, r.1 ≠ die.val) ∧ t.med.dies = s.med.dies ∧ t.insts = s.insts ∧
       (die.val ∉ s.med.beyondRepair → ∀ q ∈ t.fcl.unrestored, q ≠ diePart die.val)))

/-- Channels: a retraining that passes keeps the temperature it was made at, one that fails drops the channel by one rate
with a NOTICE record, and at a rate in force of 2400 MT/s the channel fails; the calibration asks for one only after a
move of 10 °C. An injection needs MED_TESTEN.EN, and then is armed with its die and its count and recorded (R236–R238,
NFC_INJ). -/
def Obligations.ChannelTrainingAndInjections : Prop :=
  ∀ (ch : Fin 64) (ok : Bool) (v : U32) (s : State) (c : Nfc), s.nfc.length = 64 → c = nfcOf s ch.val → c.lost = false →
    c.fenced = false →
    ((channelTemp s ch.val - c.trainTemp).natAbs < 40 → exec (.zqCalibrationShort ch ok) s = .next s) ∧
    (40 ≤ (channelTemp s ch.val - c.trainTemp).natAbs → s.med.testen = false →
      (∃ t, exec (.zqCalibrationShort ch true) s = .next t ∧ t = { s with nfc := t.nfc } ∧
        nfcOf t ch.val = { c with trainTemp := channelTemp s ch.val, retrain := false } ∧
        ∀ n, n ≠ ch.val → nfcOf t n = nfcOf s n) ∧
      (5 < rateNow s c → ∃ t, exec (.zqCalibrationShort ch false) s = .next t ∧ (nfcOf t ch.val).rate = c.rate - 1 ∧
        (nfcOf t ch.val).lost = false ∧ t.obs.seq = s.obs.seq + 1 ∧ t.med = s.med) ∧
      (rateNow s c ≤ 5 → ∃ t f, exec (.zqCalibrationShort ch false) s = .next t ∧ (nfcOf t ch.val).lost = true ∧
        (nfcOf t ch.val).rate = 0 ∧ f ∈ t.fcl.window ∧ f.source = 0xC0 + ch.val)) ∧
    (v.getLsbD 1 = false → ∃ t, exec (.retrain ch v ok) s = .next t ∧ t = { s with nfc := t.nfc } ∧
      nfcOf t ch.val = { c with cap2400 := v.getLsbD 0 } ∧ ∀ n, n ≠ ch.val → nfcOf t n = nfcOf s n) ∧
    (v.getLsbD 1 = true → s.med.testen = false →
      (∃ t, exec (.retrain ch v true) s = .next t ∧ t = { s with nfc := t.nfc } ∧
        nfcOf t ch.val = { c with cap2400 := v.getLsbD 0, trainTemp := channelTemp s ch.val, retrain := false } ∧
        ∀ n, n ≠ ch.val → nfcOf t n = nfcOf s n) ∧
      (5 < rateNow s { c with cap2400 := v.getLsbD 0 } → ∃ t, exec (.retrain ch v false) s = .next t ∧
        (nfcOf t ch.val).rate = c.rate - 1 ∧ (nfcOf t ch.val).lost = false ∧ t.obs.seq = s.obs.seq + 1) ∧
      (rateNow s { c with cap2400 := v.getLsbD 0 } ≤ 5 → ∃ t f, exec (.retrain ch v false) s = .next t ∧
        (nfcOf t ch.val).lost = true ∧ f ∈ t.fcl.window ∧ f.source = 0xC0 + ch.val)) ∧
    (exec (.failProgramStatus ch v) s = exec (.flipBits ch v) s ∧ exec (.failEraseStatus ch v) s = exec (.flipBits ch v) s ∧
      exec (.holdDieBusy ch v) s = exec (.flipBits ch v) s ∧ exec (.failTraining ch v) s = exec (.flipBits ch v) s) ∧
    (bits v.toNat 0 3 ≠ 0 → s.med.testen = false →
      exec (.flipBits ch v) s = .next (regRefused (0x00C00020 + 0x4000 * ch.val) v.toNat s)) ∧
    (∀ d n, s.med.testen = true → d = bits v.toNat 3 6 → n = bits v.toNat 19 8 →
      (bits v.toNat 0 3 = 1 → ∃ t, exec (.flipBits ch v) s = .next t ∧ t.obs.seq = s.obs.seq + 1 ∧
        nfcOf t ch.val = { c with injMode := 1, injDie := d, injBits := bits v.toNat 9 10, injCount := n, injLeft := n } ∧
        t.med = s.med) ∧
      (bits v.toNat 0 3 = 2 → ∃ t, exec (.failProgramStatus ch v) s = .next t ∧ t.obs.seq = s.obs.seq + 1 ∧
        nfcOf t ch.val = { c with injMode := 2, injDie := d, injBits := bits v.toNat 9 10, injCount := n, injLeft := n } ∧
        t.med = s.med) ∧
      (bits v.toNat 0 3 = 3 → ∃ t, exec (.failEraseStatus ch v) s = .next t ∧ t.obs.seq = s.obs.seq + 1 ∧
        nfcOf t ch.val = { c with injMode := 3, injDie := d, injBits := bits v.toNat 9 10, injCount := n, injLeft := n } ∧
        t.med = s.med) ∧
      (bits v.toNat 0 3 = 4 → ∃ t, exec (.holdDieBusy ch v) s = .next t ∧ t.obs.seq = s.obs.seq + 1 ∧
        nfcOf t ch.val = { c with injMode := 4, injDie := d, injBits := bits v.toNat 9 10, injCount := n, injLeft := n } ∧
        t.med = s.med) ∧
      (bits v.toNat 0 3 = 5 → ∃ t, exec (.failTraining ch v) s = .next t ∧ t.obs.seq = s.obs.seq + 1 ∧
        nfcOf t ch.val = { c with injMode := 5, injDie := d, injBits := bits v.toNat 9 10, injCount := n, injLeft := n } ∧
        t.med = s.med))

/-- The DRAM channel. A refresh at its instant clears the debt; one that R330 lets wait adds to it, up to 8; else it is
a missed deadline. MR4 sets the rate; a drift past the limit with a failing margin loses the channel; a corrected
word is counted. An uncorrectable word is counted and poisoned; where the other copy repairs it the record is a NOTICE
and the poison is gone, and a copy that was corrected itself counts, else it is DEGRADE, and a steward core that reads it raises CONTAIN. A rebuild that ends restores the channel's
redundancy (R326, R329, R330, R334–R336, R338, R339). The DRAM test commands and set points act only in test mode, and the
commands only inside the test window. CMD 1 writes the word alone, CMD 2 the check block alone, every other word and check
block as before; a raw read returns the word, its check block and an outcome, and corrects what it can (R327, R340). -/
def Obligations.DramEventsAndTestMode : Prop :=
  (∀ (ch : Fin 24) (rate : BitVec 2) (drift : Nat) (addr : U64) (ok : Bool) (s : State), s.dmc.chs.length = 24 →
     (∃ t, exec (.dramRefresh ch true) s = .next t ∧ (dmcCh t ch.val).debt = 0 ∧
       ∀ n, n ≠ ch.val → dmcCh t n = dmcCh s n) ∧
     (mayPostpone s = true → (dmcCh s ch.val).debt < 8 → ∃ t, exec (.dramRefresh ch false) s = .next t ∧
       (dmcCh t ch.val).debt = (dmcCh s ch.val).debt + 1 ∧ ∀ n, n ≠ ch.val → dmcCh t n = dmcCh s n) ∧
     (mayPostpone s = false ∨ 8 ≤ (dmcCh s ch.val).debt → ∃ f : Fault', f.source = 0x100 + ch.val ∧
       f.severity = sevDegrade ∧ exec (.dramRefresh ch false) s = .next (missInternal (raise (0x100 + ch.val) f s))) ∧
     (∃ t, exec (.mr4Read ch rate) s = .next t ∧ (dmcCh t ch.val).refreshRate = rate.toNat ∧
       t = { s with dmc := { s.dmc with chs := t.dmc.chs } }) ∧
     (drift ≤ s.dmc.drift ∨ ok = true → exec (.trainingGather ch drift ok) s = .next (settle s)) ∧
     (s.dmc.drift < drift → (dmcCh s ch.val).state ≠ 4 → (dmcCh s ch.val).state ≠ 5 → ∃ t f,
       exec (.trainingGather ch drift false) s = .next (settle t) ∧ (dmcCh t ch.val).state = 5 ∧
       (dmcCh t ch.val).failStep = 7 ∧ ch.val ∈ t.dmc.rebuilding ∧ f ∈ t.fcl.window ∧ f.source = 0x100 + ch.val) ∧
     (exec (.dramScrub ch addr false) s = .next s) ∧
     (s.dmc.testen = false → ∃ t, exec (.dramScrub ch addr true) s = .next t ∧
       (dmcCh t ch.val).ce = ((dmcCh s ch.val).ce + 1) % 2 ^ 32 ∧ (dmcCh t ch.val).ue = (dmcCh s ch.val).ue) ∧
     (s.dmc.rebuilding.contains ch.val = false → exec (.copyRebuildComplete ch) s = .next s) ∧
     (s.dmc.rebuilding.contains ch.val = true → ∃ t, exec (.copyRebuildComplete ch) s = .next t ∧
       t.dmc.rebuilding = s.dmc.rebuilding.filter (· != ch.val) ∧
       t.fcl.unrestored = s.fcl.unrestored.filter (· != 0x100 + ch.val) ∧ t.obs.seq = s.obs.seq + 1)) ∧
  (∀ (half : Fin 2) (addr : U64) (port : Fin 8) (other corr gone : Bool) (s : State) (n m a : Nat), s.dmc.chs.length = 24 →
     n = groupChannel half.val (groupOf addr.toNat) → m = groupChannel (1 - half.val) (groupOf addr.toNat) → (dmcCh s n).recentUe = [] → a = addr.toNat / 64 →
     gone = dramBad s (1 - half.val) (64 * a) 64 →
     ∃ t, exec (.dramUncorrectableRead half addr port other corr) s = .next (settle t) ∧
       (dmcCh t n).ue = ((dmcCh s n).ue + 1) % 2 ^ 32 ∧ s.obs.seq < t.obs.seq ∧
       (inCopies (dramRegion addr.toNat) = true → other = true → gone = false →
         t.dmc.poison = satInc s.dmc.poison ∧ t.dmc.bad = s.dmc.bad.filter (· != (half.val, a)) ∧ t.insts = s.insts ∧
         (dmcCh t m).ce = (if corr then ((dmcCh s m).ce + 1) % 2 ^ 32 else (dmcCh s m).ce)) ∧
       (inCopies (dramRegion addr.toNat) = true → (other = false ∨ gone = true) → (half.val, a) ∈ t.dmc.bad ∧
         (gone = false → (1 - half.val, a) ∈ t.dmc.bad)) ∧
       (inCopies (dramRegion addr.toNat) = false → inWindow addr.toNat = false →
         t.dmc.poison = satInc s.dmc.poison ∧ (half.val, a) ∈ t.dmc.bad) ∧
       (port.val = 5 → (inCopies (dramRegion addr.toNat) = false ∨ other = false ∨ gone = true) →
         ∃ f ∈ t.fcl.window, f.source = 0x100 + n ∧ sevContain ≤ f.severity)) ∧
  (∀ (v : U32) (s : State),
     (s.dmc.testen = false → exec (.setPointChange v) s = .next (regRefused 0x00702008 v.toNat s)) ∧
     (s.dmc.testen = true → ∃ t, exec (.setPointChange v) s = .next t ∧ t.dmc.spreq = bits v.toNat 0 1 ∧
       (∀ c ∈ t.dmc.chs, c.state = 1 → c.sp = bits v.toNat 0 1) ∧
       t = { s with dmc := { s.dmc with spreq := t.dmc.spreq, chs := t.dmc.chs } }) ∧
     (exec (.writeCheckBlockOnly v) s = exec (.writeDataOnly v) s ∧ exec (.rawRead v) s = exec (.writeDataOnly v) s) ∧
     (bits v.toNat 0 2 = 0 → exec (.writeDataOnly v) s = .next s) ∧
     (bits v.toNat 0 2 ≠ 0 → (s.dmc.testen = false ∨ inWindow s.dmc.taddr = false) →
       exec (.writeDataOnly v) s = .next (regRefused 0x00702100 v.toNat s)) ∧
     (s.dmc.testen = true → inWindow s.dmc.taddr = true →
       (bits v.toNat 0 2 = 1 → ∃ t, exec (.writeDataOnly v) s = .next t ∧
         winWord t s.dmc.thalf s.dmc.taddr = s.dmc.tdata ∧
         (∀ a, a ≠ s.dmc.thalf * 2 ^ 40 + s.dmc.taddr → amGetD t.dmc.window a 0 = amGetD s.dmc.window a 0) ∧
         t = { s with dmc := { s.dmc with window := t.dmc.window } }) ∧
       (bits v.toNat 0 2 = 2 → ∃ t, exec (.writeCheckBlockOnly v) s = .next t ∧
         winCheck t s.dmc.thalf (groupOf s.dmc.taddr) = s.dmc.tchk ∧
         (∀ a, a ≠ s.dmc.thalf * 2 ^ 40 + groupOf s.dmc.taddr →
           amGetD t.dmc.checks a startCheck = amGetD s.dmc.checks a startCheck) ∧
         t = { s with dmc := { s.dmc with checks := t.dmc.checks } }) ∧
       (bits v.toNat 0 2 = 3 → ∃ t, exec (.rawRead v) s = .next t ∧
         t.dmc.tdata = winWord s s.dmc.thalf s.dmc.taddr ∧ t.dmc.tchk = winCheck s s.dmc.thalf (groupOf s.dmc.taddr) ∧
         t.dmc.outcome = rawOutcome t.dmc.tdata t.dmc.tchk (wordOf s.dmc.taddr) ∧
         (t.dmc.outcome = 0 ∨ t.dmc.outcome = 3 → t.dmc.window = s.dmc.window ∧ t.dmc.checks = s.dmc.checks ∧
           t.obs = s.obs))))

/-- The map cache. ENABLE takes effect only behind an invalidate; INVALL keeps what scratch ways and HWTs hold and
marks the fills; a fill installs its line unless it is marked NO_INSTALL or the way is not the partition's, is
scratch or holds a locked line; a writeback that ends leaves the eviction buffer (R341–R349). Maintenance of the
map cache: an operation on one line, which waits while an HWT holds it; CLEAN leaves the line without its dirty
mark, INVAL and CLEAN_INVAL take it out and keep a fill of it from being installed; one on a scratch way is refused. A
way is locked as scratch while fewer than 8 are, and every partition keeps two usable ways (R343, R346, R348). -/
def Obligations.MapCacheLinesAndMaintenance : Prop :=
  (∀ (part : Fin 4) (line : U64) (way : Fin 16) (poison : Byte) (write : Bool) (v : U32) (s : State) (a : Nat),
     a = line.toNat / 128 * 128 →
     exec (.invall v) s = exec (.mchEnable v) s ∧
     (v.getLsbD 1 = false → v.getLsbD 0 = true → s.mch.invDone = false →
       exec (.mchEnable v) s = .next (regRefused 0x00800000 v.toNat s)) ∧
     (v.getLsbD 1 = false → (v.getLsbD 0 = false ∨ s.mch.invDone = true) →
       exec (.mchEnable v) s = .next { s with mch := { s.mch with enable := v.getLsbD 0 } }) ∧
     (v.getLsbD 1 = true → ∃ t, exec (.invall v) s = .next t ∧ t.mch.invDone = true ∧ (∀ q ∈ t.mch.fills, q.2 = true) ∧
       ∀ q, q ∈ t.mch.lines ↔ q ∈ s.mch.lines ∧ (s.mch.locked.testBit q.2.way = true ∨ hwtLocked s q.1 = true)) ∧
     (s.mch.fills.any (fun f => f.1 = a && f.2) = true → ∃ t, exec (.cacheFillComplete part line way poison write) s = .next t ∧
       t.mch.lines = s.mch.lines ∧ ∀ f ∈ t.mch.fills, f.1 ≠ a) ∧
     (s.mch.fills.any (fun f => f.1 = a && f.2) = false → ∃ t,
       exec (.cacheFillComplete part line way poison write) s = .next t ∧ (∀ f ∈ t.mch.fills, f.1 ≠ a) ∧
       (s.mch.enable = false ∨ (nthNat s.mch.ways part.val).testBit way.val = false ∨
         s.mch.locked.testBit way.val = true → t.mch.lines = s.mch.lines ∧ t.mch.evict = s.mch.evict) ∧
       (s.mch.enable = true → (nthNat s.mch.ways part.val).testBit way.val = true → s.mch.locked.testBit way.val = false →
         (occupant s (setIdx a) way.val = none →
           lineOf t a = some ⟨part.val, way.val, write, poison.toNat⟩ ∧ t.mch.evict = s.mch.evict) ∧
         (∀ q l, occupant s (setIdx a) way.val = some (q, l) → q ≠ a → hwtLocked s q = true →
           t.mch.lines = s.mch.lines))) ∧
     (∃ t, exec (.evictionWritebackComplete part line) s = .next t ∧
       t = { s with mch := { s.mch with evict := t.mch.evict, stalled := t.mch.stalled } } ∧
       ∀ b, s.mch.evict[part.val]? = some b →
         (t.mch.evict[part.val]?).map (List.map Prod.fst) = some ((b.map Prod.fst).filter (· != a)))) ∧
  (∀ (v : U32) (way : Fin 16) (s u : State) (a : Nat), a = s.mch.maddr / 128 * 128 →
     u = { s with mch := { s.mch with byWay := v.getLsbD 2, way := bits v.toNat 3 4 } } →
     (exec (.inval v) s = exec (.clean v) s ∧ exec (.cleanInval v) s = exec (.clean v) s) ∧
     (bits v.toNat 0 2 ≠ 0 → v.getLsbD 2 = true → s.mch.locked.testBit (bits v.toNat 3 4) = true →
       exec (.clean v) s = .next (regRefused 0x00800024 v.toNat s)) ∧
     (bits v.toNat 0 2 = 0 → exec (.clean v) s = .next u) ∧
     (v.getLsbD 2 = true → bits v.toNat 0 2 ≠ 0 → s.mch.locked.testBit (bits v.toNat 3 4) = false →
       exec (.clean v) s = .next ((wayLines u (bits v.toNat 3 4)).foldl (fun s l => maintLine (bits v.toNat 0 2) l s) u)) ∧
     (hwtLocked s a = true → v.getLsbD 2 = false → bits v.toNat 0 2 ≠ 0 → exec (.clean v) s =
       .next { u with mch := { u.mch with waiting := s.mch.waiting ++ [(a, bits v.toNat 0 2)] } }) ∧
     (hwtLocked s a = false → v.getLsbD 2 = false →
       (bits v.toNat 0 2 = 1 → ∃ t, exec (.clean v) s = .next t ∧ t.mch.fills = s.mch.fills ∧
         (∀ l, lineOf s a = some l → lineOf t a = some { l with dirty := false }) ∧
         (lineOf s a = none → lineOf t a = none) ∧ ∀ q, q ≠ a → lineOf t q = lineOf s q) ∧
       (bits v.toNat 0 2 = 2 → ∃ t, exec (.inval v) s = .next t ∧ lineOf t a = none ∧
         (∀ f ∈ t.mch.fills, f.1 = a → f.2 = true) ∧ ∀ q, q ≠ a → lineOf t q = lineOf s q) ∧
       (bits v.toNat 0 2 = 3 → ∃ t, exec (.cleanInval v) s = .next t ∧ lineOf t a = none ∧
         (∀ f ∈ t.mch.fills, f.1 = a → f.2 = true) ∧ ∀ q, q ≠ a → lineOf t q = lineOf s q)) ∧
     (s.mch.locked.testBit way.val = true → exec (.mchLock way) s = .next s) ∧
     (s.mch.locked.testBit way.val = false → 8 ≤ popCount 16 s.mch.locked →
       exec (.mchLock way) s = .next (notice kMemory [] s)) ∧
     (s.mch.locked.testBit way.val = false → popCount 16 s.mch.locked < 8 →
       (∀ m ∈ s.mch.ways, 2 ≤ usableWays
         { s with mch := { s.mch with locked := setBit s.mch.locked way.val true } } m) →
       ∃ t, exec (.mchLock way) s = .next t ∧ t.mch.locked = setBit s.mch.locked way.val true ∧ t.obs = s.obs))

/-! ### Trust, code flash, Slate and registers -/

/-- The random source. A window that fails counts; a repetition failure, or a second failure within 1 s, makes the
source FAILED with a DEGRADE fault; a retest that passes ends that with a record; a FAILED source reseeds no mask.
A grace period that ends drops no key but its acceptance (R302, R314, R315). Test keys, lane tests and attestation.
A key command needs its key word, test mode and a slot that no created instance has, and zeroes CPH_KDATA whatever
comes of it; a report captures the state at the request and is whole with its signature at the end; a request
behind a running one, or with a FAILED source or no identity, captures nothing (R306, R319). -/
def Obligations.TrustCommands : Prop :=
  (∀ (rep prop' : Bool) (half : Fin 2) (i : Fin 1024) (s : State),
     exec (.trngHealthWindow true true) s = .next s ∧
     (rep = false ∨ prop' = false → ∃ t, exec (.trngHealthWindow rep prop') s = .next t ∧
       t.kec.trngfail = (s.kec.trngfail + 1) % 2 ^ 32 ∧ t.kec.lastFail = some s.quartz ∧
       (t.kec.trngFailed = true ↔ s.kec.trngFailed = true ∨ rep = false ∨
         ∃ at', s.kec.lastFail = some at' ∧ s.quartz < at' + 1000000000) ∧
       (s.kec.trngFailed = false → t.kec.trngFailed = true → ∃ f : Fault', t.fcl.window = s.fcl.window ++ [f] ∧
         sevDegrade ≤ f.severity)) ∧
     (s.kec.trngFailed = true → exec (.trngRetest true) s =
       .next (notice kCrypto [] { s with kec := { s.kec with trngFailed := false } })) ∧
     (exec (.trngRetest false) s = .next s) ∧ (s.kec.trngFailed = false → exec (.trngRetest rep) s = .next s) ∧
     (s.kec.trngFailed = true → exec (.maskReseed half) s = .next s) ∧
     (s.kec.trngFailed = false → exec (.maskReseed half) s = .next { s with
       kec := { s.kec with seeds := modNth s.kec.seeds half.val (· + 1) }, free := s.free + 1 }) ∧
     (∃ t, exec (.gracePeriodEnd i) s = .next t ∧ t = { s with insts := t.insts } ∧
       (∀ x, inst? s i.val = some x → inst? t i.val = some { x with graceEnd := none }) ∧
       ∀ j, j ≠ i.val → inst? t j = inst? s j)) ∧
  (∀ (v : U32) (ok : Bool) (s : State),
     exec (.zeroSlot v) s = exec (.installTestKey v) s ∧
     (bits v.toNat 16 16 ≠ 0x4B59 ∨ s.kec.testen = false ∨ slotAssigned s s.cph.ksel = true ∨
         bits v.toNat 0 2 ∉ [1, 2] → exec (.installTestKey v) s =
       .next (regRefused 0x00A00060 v.toNat { s with cph := { s.cph with kdata := 0 } })) ∧
     (bits v.toNat 16 16 = 0x4B59 → s.kec.testen = true → slotAssigned s s.cph.ksel = false →
       (bits v.toNat 0 2 = 1 → ∃ t, exec (.installTestKey v) s = .next t ∧ t.cph.kdata = 0 ∧
         amGet? t.cph.testKeys s.cph.ksel = some s.cph.kdata ∧
         (∀ n, n ≠ s.cph.ksel → amGet? t.cph.testKeys n = amGet? s.cph.testKeys n) ∧ t = { s with cph := t.cph }) ∧
       (bits v.toNat 0 2 = 2 → ∃ t, exec (.zeroSlot v) s = .next t ∧ t.cph.kdata = 0 ∧
         amGet? t.cph.testKeys s.cph.ksel = none ∧
         (∀ n, n ≠ s.cph.ksel → amGet? t.cph.testKeys n = amGet? s.cph.testKeys n) ∧ t = { s with cph := t.cph })) ∧
     (v.getLsbD 9 = false → exec (.laneTest v ok) s = .next { s with cph := { s.cph with
       lane := bits v.toNat 0 8, mode := v.getLsbD 8 } }) ∧
     (v.getLsbD 9 = true → s.kec.testen = true → bits v.toNat 0 8 < 192 → v.getLsbD 8 = false →
       exec (.laneTest v ok) s = .next { s with cph := { s.cph with
         lane := bits v.toNat 0 8, mode := false, pass := ok } }) ∧
     (v.getLsbD 9 = true → s.kec.testen = false → exec (.laneTest v ok) s = .next (regRefused 0x00A00064 v.toNat
       { s with cph := { s.cph with lane := bits v.toNat 0 8, mode := v.getLsbD 8 } })) ∧
     (v.getLsbD 16 = true → s.kec.busy = true →
       exec (.attestationRequest v) s = .next (regRefused 0x00B00018 v.toNat s)) ∧
     (v.getLsbD 16 = true → s.kec.busy = false → s.kec.trngFailed = false → s.kec.identity = true →
       ∃ t, exec (.attestationRequest v) s = .next t ∧ t.kec.busy = true ∧ t.kec.done = false ∧ t.kec.error = 0 ∧
         t.kec.capture = reportHead s (bits v.toNat 0 16) ∧ Recorded { s with kec := t.kec } t) ∧
     (v.getLsbD 16 = true → s.kec.busy = false → (s.kec.trngFailed = true ∨ s.kec.identity = false) →
       ∃ t, exec (.attestationRequest v) s = .next t ∧ t.kec.busy = false ∧
         t.kec.error = (if s.kec.trngFailed then 1 else 2) ∧ t.kec.capture = s.kec.capture) ∧
     (s.kec.busy = false → exec .attestationDone s = .next s) ∧
     (s.kec.busy = true → ∃ t sig, exec .attestationDone s = .next t ∧ t.kec.busy = false ∧ t.kec.done = true ∧
       t.kec.report = s.kec.capture ++ sig ∧ sig.length = 3312))

/-- Commands of the manager's port. A wrong key, an operation that does not exist or one while another runs is refused
with a record; a program and an erase refuse the running bank, and an erase in progress, in the order of Table
CF-5; an accepted erase opens its sector, an accepted program marks it used; a read gives the granule, or nothing of an
execute-only region; ACTIVATE needs a VERIFY that passed. The firmware's port takes the same operations (R356–R369). -/
def Obligations.CodeFlashCommandsAreChecked : Prop :=
  (∀ (v : U32) (ok : Bool) (ecc : CflEcc) (s r : State) (b sec g : Nat),
    r = { s with cfl := { s.cfl with done := false, result := 0, detail := 0 } } → b = s.cfl.bank → sec = s.cfl.sector →
    g = s.cfl.granule →
    (∀ f ∈ [Instr.cflProgram (.manager v), .cflErase (.manager v), .eraseBank (.manager v), .cflRead ⟨.manager v, ecc⟩,
        .verify (.manager v) ok, .activate (.manager v)],
      bits v.toNat 16 16 ≠ 0xCF1A ∨ bits v.toNat 0 4 = 0 ∨ 6 < bits v.toNat 0 4 ∨ s.cfl.busy = true →
        exec f s = .next (regRefused 0x0060000C v.toNat s)) ∧
    (bits v.toNat 16 16 = 0xCF1A → s.cfl.busy = false →
      (bits v.toNat 0 4 = 1 → cflRefusal r 1 (some s.cfl.running) b sec g ≠ 0 →
        exec (.cflProgram (.manager v)) s = .next (cflEnd true (cflRefusal r 1 (some s.cfl.running) b sec g) 0 r)) ∧
      (bits v.toNat 0 4 = 2 → cflRefusal r 2 (some s.cfl.running) b sec 0 ≠ 0 →
        exec (.cflErase (.manager v)) s = .next (cflEnd true (cflRefusal r 2 (some s.cfl.running) b sec 0) 0 r)) ∧
      (bits v.toNat 0 4 = 3 → b = s.cfl.running → exec (.eraseBank (.manager v)) s = .next (cflEnd true 1 0 r)) ∧
      (bits v.toNat 0 4 = 1 → cflRefusal r 1 (some s.cfl.running) b sec g = 0 → (cflUnit s b).op = none →
        ∃ t o, exec (.cflProgram (.manager v)) s = .next t ∧ (cflUnit t b).op = some o ∧ t.cfl.busy = true ∧ o.kind = 1 ∧
          o.bank = b ∧ o.sector = sec ∧ o.granule = g ∧ o.data = s.cfl.buf ∧ (cflHdr t b sec).usedM = .set ∧
          t.cfl.mem = s.cfl.mem) ∧
      (bits v.toNat 0 4 = 2 → cflRefusal r 2 (some s.cfl.running) b sec 0 = 0 →
        ∃ t o, exec (.cflErase (.manager v)) s = .next t ∧ (cflUnit t b).op = some o ∧ t.cfl.busy = true ∧ o.kind = 2 ∧
          o.bank = b ∧ o.sector = sec ∧ (cflHdr t b sec).openM = .set ∧ t.cfl.mem = s.cfl.mem) ∧
      (∀ n, bits v.toNat 0 4 = 3 → cflRefusal r 3 (some s.cfl.running) b 127 0 = 0 → nextSector s b 0 = some n →
        ∃ t o, exec (.eraseBank (.manager v)) s = .next t ∧ (cflUnit t b).op = some o ∧ t.cfl.busy = true ∧ o.kind = 3 ∧
          o.bank = b ∧ o.sector = n ∧ (cflHdr t b n).openM = .set ∧ t.cfl.mem = s.cfl.mem) ∧
      (bits v.toNat 0 4 = 4 → (cflUnit s b).op = none →
        (inXo s b sec = false → ∃ t, exec (.cflRead ⟨.manager v, ecc⟩) s = .next t ∧ t.cfl.done = true ∧
          t.cfl.result = 0 ∧ t.cfl.busy = false ∧ t.cfl.mem = s.cfl.mem ∧ t.cfl.hdrs = s.cfl.hdrs ∧
          (sec < 127 → (cflHdr s b sec).openM = .blank → ecc ≠ .uncorrectable → t.cfl.buf = granAt s b sec g) ∧
          (ecc = .corrected → t.cfl.ce = (s.cfl.ce + 1) % 2 ^ 32) ∧ (ecc ≠ .corrected → t.cfl.ce = s.cfl.ce)) ∧
        (inXo s b sec = true → ∃ t, exec (.cflRead ⟨.manager v, ecc⟩) s = .next t ∧ t.cfl.done = true ∧
          t.cfl.result = 6 ∧ t.cfl.buf = 0 ∧ t.obs.seq = s.obs.seq + 1)) ∧
      (bits v.toNat 0 4 = 5 → ∃ t, exec (.verify (.manager v) ok) s = .next t ∧
        t.cfl.verifies = s.cfl.verifies ++ [⟨true, b, ok⟩] ∧ t.cfl.busy = true ∧ t.cfl.mem = s.cfl.mem) ∧
      (bits v.toNat 0 4 = 6 → b ≠ s.cfl.running → (cflUnit s b).op = none →
        (s.cfl.verified.getD b false = false → exec (.activate (.manager v)) s = .next (cflEnd true 0xC 0 r)) ∧
        (s.cfl.verified.getD b false = true → ∃ t o, exec (.activate (.manager v)) s = .next t ∧
          (cflUnit t b).op = some o ∧ o.kind = 6 ∧ o.bank = b ∧ t.cfl.busy = true)))) ∧
  (∀ (f : Option (Fin 2)) (b : Fin 2) (sec : Fin 128) (g : Fin 256) (d : BitVec 2048) (ecc : CflEcc) (s : State),
    (cflUnit s b.val).op = none →
    (cflRefusal s 1 (f.map (·.val)) b.val sec.val g.val = 0 → ∃ t o,
      exec (.cflProgram (.firmware f b sec g d)) s = .next t ∧ (cflUnit t b.val).op = some o ∧ o.kind = 1 ∧
      o.mgr = false ∧ o.sector = sec.val ∧ o.granule = g.val ∧ o.data = d ∧ t.cfl.busy = s.cfl.busy) ∧
    (cflRefusal s 2 (f.map (·.val)) b.val sec.val 0 = 0 → ∃ t o,
      exec (.cflErase (.firmware f b sec g d)) s = .next t ∧ (cflUnit t b.val).op = some o ∧ o.kind = 2 ∧
      o.mgr = false ∧ o.sector = sec.val ∧ (cflHdr t b.val sec.val).openM = .set ∧ t.cfl.busy = s.cfl.busy) ∧
    (∀ n, cflRefusal s 3 (f.map (·.val)) b.val 127 0 = 0 → nextSector s b.val 0 = some n → ∃ t o,
      exec (.eraseBank (.firmware f b sec g d)) s = .next t ∧ (cflUnit t b.val).op = some o ∧ o.kind = 3 ∧
      o.mgr = false ∧ o.sector = n ∧ (cflHdr t b.val n).openM = .set ∧ t.cfl.busy = s.cfl.busy) ∧
    (inXo s b.val sec.val = false → ∃ t, exec (.cflRead ⟨.firmware f b sec g d, ecc⟩) s = .next t ∧
      t.cfl.fwResult = 0 ∧ t.cfl.buf = s.cfl.buf ∧ t.cfl.mem = s.cfl.mem ∧ t.cfl.busy = s.cfl.busy) ∧
    (inXo s b.val sec.val = true → ∃ t, exec (.cflRead ⟨.firmware f b sec g d, ecc⟩) s = .next t ∧
      t.cfl.fwResult = 6 ∧ t.cfl.buf = s.cfl.buf ∧ t.obs.seq = s.obs.seq + 1))

/-- Operations of the code flash that end within their limit. A program leaves its data in its granule and no other
granule changed; an erase leaves its sector ERASED with every granule blank, other sectors as they were, and its
count one higher; past its limit the operation is abandoned and the sector is ERASE_OPEN; a suspended operation
resumes; the other bank's operation goes on (R356, R358, R359, R362). -/
def Obligations.CodeFlashOperationsComplete : Prop :=
  ∀ (b : Fin 2) (o : CflOp) (s : State), cflUnit s b.val = { op := some o, nested := none } → s.cfl.reads = [] →
    o.bank = b.val → o.sector < 127 → o.granule < 256 →
    (o.suspended = false →
      (o.kind = 1 → ∃ t, exec (.cflOperationComplete b true) s = .next t ∧ cflUnit t b.val = { op := none, nested := none } ∧
        granAt t o.bank o.sector o.granule = o.data ∧ t.cfl.hdrs = s.cfl.hdrs ∧
        (∀ k, k ≠ granKey o.bank o.sector o.granule →
          amGetD t.cfl.mem k (BitVec.allOnes 2048) = amGetD s.cfl.mem k (BitVec.allOnes 2048)) ∧
        (o.mgr = true → t.cfl.busy = false ∧ t.cfl.done = true ∧ t.cfl.result = 0)) ∧
      (o.kind = 2 → ∃ t, exec (.cflOperationComplete b true) s = .next t ∧ cflUnit t b.val = { op := none, nested := none } ∧
        sectorState t o.bank o.sector = 0 ∧ (∀ g, g < 256 → granAt t o.bank o.sector g = BitVec.allOnes 2048) ∧
        (∀ k, k < granKey o.bank o.sector 0 ∨ granKey o.bank o.sector 0 + 256 ≤ k →
          amGetD t.cfl.mem k (BitVec.allOnes 2048) = amGetD s.cfl.mem k (BitVec.allOnes 2048)) ∧
        amGetD t.cfl.erases (o.bank * 128 + o.sector) 0 = amGetD s.cfl.erases (o.bank * 128 + o.sector) 0 + 1) ∧
      (∃ t, exec (.cflOperationComplete b false) s = .next t ∧ cflUnit t b.val = { op := none, nested := none } ∧
        sectorState t o.bank o.sector = 2 ∧ t.cfl.mem = s.cfl.mem ∧
        (o.mgr = true → t.cfl.busy = false ∧ t.cfl.result = 8))) ∧
    (o.suspended = false → exec (.cflResume b) s = .next s) ∧
    (o.suspended = true → ∃ t p, exec (.cflResume b) s = .next t ∧ (cflUnit t b.val).op = some p ∧ p.suspended = false ∧
      p.kind = o.kind ∧ p.sector = o.sector ∧ p.data = o.data ∧ p.resumedAt = s.quartz ∧ t.cfl.mem = s.cfl.mem) ∧
    (∃ t, exec (.cflOperationComplete b true) s = .next t ∧ ∀ c : Fin 2, c ≠ b → cflUnit t c.val = cflUnit s c.val)

/-- Staging and the commands of Slate. A word written is the one that a read of the window returns, and no other word
changes; while a batch is checked or applied no write is taken. CHECK judges the batch and says which rule fails
where; APPLY needs a batch that passed, and judges it again; DISCARD empties the staging (R284–R288). The steps of
an apply. Step 3 ends when everything is drained, and its timeout fails the apply with rule 0x80, as does a commit
mark that neither copy holds with rule 0x81 and a CONTAIN fault; the epoch stays. With the mark in either copy the
switch is one update: the epoch is one higher and the instances are those of the batch; while an HWT has the configuration
root locked, the decided switch waits (R203, R288–R290). -/
def Obligations.SlateStagesAppliesAndSwitches : Prop :=
  (∀ (addr v : U32) (s : State) (n : Nat),
     (addr.toNat = 0x01410000 + 4 * n → n < 65536 →
       (stagingBusy s = true → exec (.slateStageWrite addr v) s = .next (regRefused addr.toNat v.toNat s)) ∧
       (stagingBusy s = false → ∃ t, exec (.slateStageWrite addr v) s = .next t ∧ stageWord t n = v.toNat ∧
         (∀ m, m ≠ n → stageWord t m = stageWord s m) ∧ t.slt.state = 1 ∧ t.slt.epoch = s.slt.epoch ∧
         t.insts = s.insts)) ∧
     (exec (.apply v) s = exec (.check v) s ∧ exec (.discard v) s = exec (.check v) s) ∧
     (bits v.toNat 16 16 ≠ 0x51A7 → exec (.check v) s = .next (regRefused 0x01400000 v.toNat s)) ∧
     (bits v.toNat 16 16 = 0x51A7 →
       (bits v.toNat 0 4 = 1 → stagingBusy s = true → exec (.check v) s = .next (regRefused 0x01400000 v.toNat s)) ∧
       (bits v.toNat 0 4 = 1 → stagingBusy s = false → judgeBatch s = none → exec (.check v) s =
         .next { s with slt := { s.slt with state := 3, rule := 0, failoff := 0 } }) ∧
       (∀ rule off, bits v.toNat 0 4 = 1 → stagingBusy s = false → judgeBatch s = some (rule, off) →
         ∃ t, exec (.check v) s = .next t ∧ t.slt.state = 6 ∧ t.slt.rule = rule ∧ t.slt.failoff = off ∧
           t.slt.epoch = s.slt.epoch ∧ t.obs.seq = s.obs.seq + 1) ∧
       (bits v.toNat 0 4 = 2 → s.slt.state ≠ 3 → exec (.apply v) s = .next (regRefused 0x01400000 v.toNat s)) ∧
       (bits v.toNat 0 4 = 2 → s.slt.state = 3 → judgeBatch s = none →
         ∃ t, exec (.apply v) s = .next t ∧ t.slt.state = 4 ∧ t.slt.step = 3 ∧ t.slt.epoch = s.slt.epoch ∧
           t.slt.applyAt = s.quartz ∧ t.insts.map Prod.fst = s.insts.map Prod.fst) ∧
       (bits v.toNat 0 4 = 3 → stagingBusy s = true → exec (.discard v) s = .next (regRefused 0x01400000 v.toNat s)) ∧
       (bits v.toNat 0 4 = 3 → stagingBusy s = false → exec (.discard v) s =
         .next { s with slt := { s.slt with stage := [], stageLen := 0, state := 0 } }))) ∧
  (∀ (a b : Bool) (s : State),
     (s.slt.state ≠ 4 → exec .slateDrainComplete s = .next s ∧ exec .slateDrainTimeout s = .next s ∧
       exec .epochRecordProgrammed s = .next s ∧ exec (.commitMarkProgrammed a b) s = .next (settle s)) ∧
     (s.slt.state = 4 → s.slt.step = 3 →
       (drained s = true → exec .slateDrainComplete s = .next { s with slt := { s.slt with
           step := 5, record := epochRecord s } } ∧ exec .slateDrainTimeout s = .next s) ∧
       (drained s = false → exec .slateDrainComplete s = .next s ∧ ∃ t, exec .slateDrainTimeout s = .next t ∧
         t.slt.state = 6 ∧ t.slt.rule = 0x80 ∧ t.slt.epoch = s.slt.epoch ∧
         ∀ p ∈ t.insts, p.2.draining = false)) ∧
     (s.slt.state = 4 → s.slt.step = 5 →
       exec .epochRecordProgrammed s = .next { s with slt := { s.slt with step := 6 } }) ∧
     (s.slt.state = 4 → s.slt.step = 6 →
       (∃ t f, exec (.commitMarkProgrammed false false) s = .next (settle t) ∧ t.slt.state = 6 ∧ t.slt.rule = 0x81 ∧
         t.slt.epoch = s.slt.epoch ∧ t.fcl.window = s.fcl.window ++ [f] ∧ sevContain ≤ f.severity) ∧
       (a = true ∨ b = true → hwtLocked s rootLine = false → ∃ t, exec (.commitMarkProgrammed a b) s = .next (settle t) ∧ t.slt.state = 5 ∧
         t.slt.step = 0 ∧ t.slt.epoch = s.slt.epoch + 1 ∧ t.slt.pools = (cfgAfter s (batchOf s)).pools ∧
         t.slt.spares = (cfgAfter s (batchOf s)).spares ∧
         ∀ i, (inst? t i).isSome = (amGet? (cfgAfter s (batchOf s)).insts i).isSome) ∧
       (hwtLocked s rootLine = true → ∃ t, exec (.commitMarkProgrammed true true) s = .next (settle t) ∧
         t = { s with slt := { s.slt with step := 7 } })))

/-- The registers whose cold value the spec states, as the manager would read them right after reset. -/
def Obligations.RegistersHoldTheirColdValues : Prop :=
  ∀ p ∈ [(0x00000000, 0xE74001B0), (0x00000030, 800 + 800 * 2 ^ 10), (0x00000034, 0),
      (0x00F00004, 0), (0x00F00008, 50 + 1000 * 2 ^ 12 + 2 * 2 ^ 24), (0x00F00010, 0), (0x00F00014, 0), (0x00F00018, 0),
      (0x00E00000, 0), (0x00E00004, 0), (0x00E00008, 0), (0x00E0000C, 4 + 16 * 2 ^ 4 + 100 * 2 ^ 10 + 500 * 2 ^ 20),
      (0x00E00010, 50 + 200 * 2 ^ 12), (0x00D00024, 150 + 4 * 2 ^ 10), (0x00D00028, 4 + 8 * 2 ^ 8), (0x00D0002C, 4000),
      (0x00D00030, 168), (0x00D00034, 512 + 256 * 2 ^ 10), (0x01400004, 0), (0x01400018, 100), (0x00B00004, 100),
      (0x00B00008, 0), (0x00702008, 1), (0x0070200C, 64), (0x00702020, 112), (0x0070203C, 4), (0x00702040, 24),
      (0x00800000, 0), (0x00800020, 0), (0x00600004, 16), (0x00600010, 0), (0x00600100, 0xFFFFFFFF), (0x00300024, 0),
      (0x00300038, 0), (0x00400024, 0xFFFF), (0x00500000, 0xFF), (0x00500010, 100), (0x00100000, 0), (0x00200000, 0)],
    (regRead p.1 State.reset).1 = p.2
end

