-- ==== Sys2Proof/Laws/Maps.lean ====
section
/-! SUPPORT. Sparse tables and memories: what a read answers after a write, and that every write keeps the keys rising and
the canonical form. -/

namespace Sys2Proof.Laws

open Sys2Proof.Machine

variable {α : Type}

/-- Every key of a table is above a bound. -/
def Above (k : Nat) (m : List (Nat × α)) : Prop := ∀ p ∈ m, k < p.1

theorem amSorted_cons (p : Nat × α) (m : List (Nat × α)) : amSorted (p :: m) = true ↔ Above p.1 m ∧ amSorted m = true := by
  induction m generalizing p with
  | nil => simp [amSorted, Above]
  | cons q m ih =>
    simp only [amSorted, Bool.and_eq_true, decide_eq_true_eq, Above, List.mem_cons, forall_eq_or_imp]
    constructor
    · rintro ⟨h, k⟩
      exact ⟨⟨h, fun r hr => Nat.lt_trans h (((ih q).mp k).1 r hr)⟩, k⟩
    · rintro ⟨⟨h, _⟩, k⟩
      exact ⟨h, k⟩

theorem amSorted_filter (f : Nat × α → Bool) (m : List (Nat × α)) (h : amSorted m = true) :
    amSorted (m.filter f) = true := by
  induction m with
  | nil => rfl
  | cons p m ih =>
    obtain ⟨a, b⟩ := (amSorted_cons p m).mp h
    rw [List.filter_cons]
    split
    · exact (amSorted_cons ..).mpr ⟨fun q hq => a q (List.mem_filter.mp hq).1, ih b⟩
    · exact ih b

theorem amSet_mem (m : List (Nat × α)) (x : Nat) (a : α) (p : Nat × α) (h : p ∈ amSet m x a) : p = (x, a) ∨ p ∈ m := by
  induction m with
  | nil => simpa [amSet] using h
  | cons q m ih =>
    unfold amSet at h
    split at h
    · simpa using h
    · split at h
      · rcases List.mem_cons.mp h with h | h
        · exact .inl h
        · exact .inr (List.mem_cons_of_mem _ h)
      · rcases List.mem_cons.mp h with h | h
        · exact .inr (h ▸ List.mem_cons_self ..)
        · exact (ih h).imp id (List.mem_cons_of_mem _)

/-- A write keeps the keys rising. -/
theorem amSorted_amSet (m : List (Nat × α)) (x : Nat) (a : α) (h : amSorted m = true) :
    amSorted (amSet m x a) = true := by
  induction m with
  | nil => rfl
  | cons q m ih =>
    obtain ⟨b, c⟩ := (amSorted_cons q m).mp h
    unfold amSet
    split
    · rename_i l
      refine (amSorted_cons ..).mpr ⟨fun p hp => ?_, h⟩
      rcases List.mem_cons.mp hp with hp | hp
      · exact hp ▸ l
      · exact Nat.lt_trans l (b p hp)
    · split
      · rename_i e
        exact (amSorted_cons ..).mpr ⟨fun p hp => e ▸ b p hp, c⟩
      · rename_i l e
        refine (amSorted_cons ..).mpr ⟨fun p hp => ?_, ih c⟩
        rcases amSet_mem _ _ _ _ hp with hp | hp
        · subst hp
          dsimp only at l e ⊢
          omega
        · exact b p hp

/-- A write to a sparse memory keeps its canonical form. -/
theorem memWf_memSet [DecidableEq α] (d : α) (m : List (Nat × α)) (x : Nat) (a : α) (h : memWf d m = true) :
    memWf d (memSet d m x a) = true := by
  simp only [memWf, Bool.and_eq_true, List.all_eq_true, decide_eq_true_eq] at h ⊢
  unfold memSet
  split
  · exact ⟨amSorted_filter _ _ h.1, fun p hp => h.2 p (List.mem_filter.mp hp).1⟩
  · rename_i n
    refine ⟨amSorted_amSet _ _ _ h.1, fun p hp => ?_⟩
    rcases amSet_mem _ _ _ _ hp with hp | hp
    · exact hp ▸ n
    · exact h.2 p hp

/-- Taking cells out of a sparse memory keeps its canonical form. -/
theorem memWf_filter [DecidableEq α] (d : α) (f : Nat × α → Bool) (m : List (Nat × α)) (h : memWf d m = true) :
    memWf d (m.filter f) = true := by
  simp only [memWf, Bool.and_eq_true, List.all_eq_true, decide_eq_true_eq] at h ⊢
  exact ⟨amSorted_filter _ _ h.1, fun p hp => h.2 p (List.mem_filter.mp hp).1⟩

/-- A read of the key written gives the value written. -/
@[simp] theorem amGet?_amSet_self (m : List (Nat × α)) (x : Nat) (a : α) : amGet? (amSet m x a) x = some a := by
  induction m with
  | nil => simp [amSet, amGet?]
  | cons q m ih =>
    unfold amSet
    split
    · simp [amGet?]
    · split
      · simp [amGet?]
      · rename_i n
        simp only [amGet?]
        rw [if_neg (fun e => n e.symm)]
        exact ih

/-- A write leaves every other key alone. -/
theorem amGet?_amSet_ne (m : List (Nat × α)) (x y : Nat) (a : α) (h : y ≠ x) : amGet? (amSet m x a) y = amGet? m y := by
  induction m with
  | nil => simp [amSet, amGet?, h.symm]
  | cons q m ih =>
    unfold amSet
    split
    · simp [amGet?, h.symm]
    · split
      · rename_i e
        simp [amGet?, h.symm, ← e]
      · simp only [amGet?]
        split
        · rfl
        · exact ih

theorem amGet?_amErase_self (m : List (Nat × α)) (x : Nat) : amGet? (amErase m x) x = none := by
  induction m with
  | nil => rfl
  | cons q m ih =>
    unfold amErase at *
    rw [List.filter_cons]
    split
    · rename_i h
      simp only [amGet?]
      rw [if_neg (by simpa using h)]
      exact ih
    · exact ih

theorem amGet?_amErase_ne (m : List (Nat × α)) (x y : Nat) (h : y ≠ x) : amGet? (amErase m x) y = amGet? m y := by
  induction m with
  | nil => rfl
  | cons q m ih =>
    unfold amErase at *
    rw [List.filter_cons]
    split
    · simp only [amGet?]
      split
      · rfl
      · exact ih
    · rename_i e
      simp only [amGet?]
      rw [if_neg (fun k => h (by simp at e; omega))]
      exact ih

/-- A sparse memory reads the value written, 0-default cells included. -/
theorem memSet_read_self [DecidableEq α] (d : α) (m : List (Nat × α)) (x : Nat) (a : α) :
    amGetD (memSet d m x a) x d = a := by
  unfold memSet amGetD
  split
  · rename_i e
    rw [amGet?_amErase_self, e]
    rfl
  · rw [amGet?_amSet_self]
    rfl

theorem memSet_read_ne [DecidableEq α] (d : α) (m : List (Nat × α)) (x y : Nat) (a : α) (h : y ≠ x) :
    amGetD (memSet d m x a) y d = amGetD m y d := by
  unfold memSet amGetD
  split
  · rw [amGet?_amErase_ne _ _ _ h]
  · rw [amGet?_amSet_ne _ _ _ _ h]

end Sys2Proof.Laws
end

