-- ==== Sys2Proof/Laws/Buffers.lean ====
section
/-! SUPPORT. The buffer pools: what the change of one pool does to the others, and everything an allocation, an increment and
a decrement can do. -/

namespace Sys2Proof.Laws

open Sys2Proof Sys2Proof.Machine

theorem getD_modNth_self {α : Type} (l : List α) (n : Nat) (f : α → α) (d : α) (h : n < l.length) :
    (modNth l n f).getD n d = f (l.getD n d) := by
  induction l generalizing n with
  | nil => simp at h
  | cons x l ih =>
    cases n with
    | zero => rfl
    | succ n => simpa [modNth] using ih n (by simpa using h)

theorem getD_modNth_ne {α : Type} (l : List α) (m n : Nat) (f : α → α) (d : α) (h : n ≠ m) :
    (modNth l m f).getD n d = l.getD n d := by
  induction l generalizing m n with
  | nil => rfl
  | cons x l ih =>
    cases m with
    | zero => cases n with
      | zero => exact absurd rfl h
      | succ n => rfl
    | succ m => cases n with
      | zero => rfl
      | succ n => simpa [modNth] using ih m n (by simpa using h)

/-- The pool that a change names. -/
theorem poolAt_modPool_self (p : Nat) (f : Pool → Pool) (s : State) (h : p < s.bpm.pools.length) :
    poolAt (modPool p f s) p = f (poolAt s p) := getD_modNth_self _ _ _ _ h

/-- Every other pool. -/
theorem poolAt_modPool_ne (p q : Nat) (f : Pool → Pool) (s : State) (h : q ≠ p) :
    poolAt (modPool p f s) q = poolAt s q := getD_modNth_ne _ _ _ _ _ h

/-- An allocation fails and is counted, or pops the head of the free list (R351, R352). -/
theorem allocBuf_cases (p port : Nat) (reserved : Bool) (s : State) :
    (poolFree s p ≤ (if reserved then 0 else (poolAt s p).min) ∧ allocBuf p port reserved s = (none, poolFail p s)) ∨
    ((if reserved then 0 else (poolAt s p).min) < poolFree s p ∧
      allocBuf p port reserved s = (some (poolAt s p).head, modPool p (popBuf port) s)) := by
  unfold allocBuf
  by_cases h : poolFree s p ≤ (if reserved then 0 else (poolAt s p).min)
  · exact .inl ⟨h, if_pos h⟩
  · exact .inr ⟨Nat.lt_of_not_le h, if_neg h⟩

/-- A decrement of a free buffer raises its fault; the last one releases the buffer; any other counts down (R353). -/
theorem decRef_cases (p b port : Nat) (s : State) :
    (amGet? (poolAt s p).used b = none ∧
      decRef p b port s = raise 0x165 (ruleFault kMemory sevDegrade 0x165 noInst [p, b, port]) s) ∨
    (∃ d, amGet? (poolAt s p).used b = some d ∧ d.count ≤ 1 ∧ decRef p b port s = modPool p (pushBuf b) s) ∨
    (∃ d, amGet? (poolAt s p).used b = some d ∧ 1 < d.count ∧ decRef p b port s =
      modPool p (fun q => { q with used := amSet q.used b { d with count := d.count - 1 } }) s) := by
  unfold decRef
  cases h : amGet? (poolAt s p).used b with
  | none => exact .inl ⟨rfl, rfl⟩
  | some d =>
    by_cases k : d.count ≤ 1
    · exact .inr (.inl ⟨d, rfl, k, if_pos k⟩)
    · exact .inr (.inr ⟨d, rfl, Nat.lt_of_not_le k, if_neg k⟩)

/-- An increment of a free buffer does nothing; one past 65,535 fails with its record; any other counts up (R353). -/
theorem incRef_cases (p b : Nat) (s : State) :
    (amGet? (poolAt s p).used b = none ∧ incRef p b s = (false, s)) ∨
    (∃ d, amGet? (poolAt s p).used b = some d ∧ 65535 ≤ d.count ∧
      incRef p b s = (false, tally noInst 0x0105 (6 * p + 5) 1 (notice kMemory [p, b] s))) ∨
    (∃ d, amGet? (poolAt s p).used b = some d ∧ d.count < 65535 ∧ incRef p b s =
      (true, modPool p (fun q => { q with used := amSet q.used b { d with count := d.count + 1 } }) s)) := by
  unfold incRef
  cases h : amGet? (poolAt s p).used b with
  | none => exact .inl ⟨rfl, rfl⟩
  | some d =>
    by_cases k : 65535 ≤ d.count
    · exact .inr (.inl ⟨d, rfl, k, if_pos k⟩)
    · exact .inr (.inr ⟨d, rfl, Nat.lt_of_not_le k, if_neg k⟩)

end Sys2Proof.Laws
end

