-- ==== Sys2Proof/Laws/Keeps.lean ====
section
/-! SUPPORT. What every command keeps, but for those of the pins and the power: the command queue and the test access
port stay, SEQ does not go back (R381), the event FIFO and the severe-record ring keep their bounds (R382, R383), and a
fuse that is blown stays blown (R69). `Keeps` is a preorder, so a meaning keeps what its parts keep. -/

namespace Sys2Proof.Safety

open Sys2Proof Sys2Proof.Machine

theorem FusesLe.refl (a : Fuses) : FusesLe a a := ⟨Nat.le_refl _, fun _ x h => ⟨x, h, rfl, Nat.le_refl _, id⟩⟩

theorem FusesLe.trans {a b c : Fuses} (h : FusesLe a b) (k : FusesLe b c) : FusesLe a c :=
  ⟨Nat.le_trans h.1 k.1, fun n x hx => by
    obtain ⟨y, hy, e, f, v⟩ := h.2 n x hx
    obtain ⟨z, hz, e', f', v'⟩ := k.2 n y hy
    exact ⟨z, hz, e'.trans e, Nat.le_trans f f', fun w => v' (v w)⟩⟩

theorem modNth_getElem? {α : Type} (l : List α) (n k : Nat) (f : α → α) :
    (modNth l n f)[k]? = if k = n then l[k]?.map f else l[k]? := by
  induction l generalizing n k with
  | nil => cases n <;> simp [modNth]
  | cons a l ih =>
    cases n with
    | zero => cases k <;> simp [modNth]
    | succ n => cases k <;> simp [modNth, ih]

/-- A binding that changes keeps its operator, and neither its floor nor its void mark goes back. -/
theorem FusesLe.modNth (a : Fuses) (n svn : Nat) (f : Binding → Binding) (h : a.svnFloor ≤ svn)
    (k : ∀ b, (f b).operatorId = b.operatorId ∧ b.floor ≤ (f b).floor ∧ (b.void = true → (f b).void = true)) :
    FusesLe a { bindings := Machine.modNth a.bindings n f, svnFloor := svn } :=
  ⟨h, fun m x hx => by
    dsimp only
    rw [modNth_getElem?, hx]
    by_cases e : m = n
    · exact ⟨f x, by simp [e], (k x).1, (k x).2⟩
    · exact ⟨x, by simp [e], rfl, Nat.le_refl _, id⟩⟩

/-- A new binding takes the next free fuses. -/
theorem FusesLe.append (a : Fuses) (svn : Nat) (b : Binding) (h : a.svnFloor ≤ svn) :
    FusesLe a { bindings := a.bindings ++ [b], svnFloor := svn } :=
  ⟨h, fun n x hx => ⟨x, by
    dsimp only
    obtain ⟨hn, e⟩ := List.getElem?_eq_some_iff.mp hx
    rw [List.getElem?_append_left hn, hx], rfl, Nat.le_refl _, id⟩⟩

end Sys2Proof.Safety

namespace Sys2Proof.Laws

open Sys2Proof Sys2Proof.Machine Sys2Proof.Safety

/-- What a command keeps from a state to the next. -/
structure Keeps (s t : State) : Prop where
  pending : t.pending = s.pending
  tck : t.tck = s.tck
  seq : s.obs.seq ≤ t.obs.seq
  rings : RingsOk s.obs → RingsOk t.obs
  fuses : FusesLe s.fuses t.fuses
  buffers : BuffersOk s → BuffersOk t

@[simp] theorem Keeps.refl (s : State) : Keeps s s := ⟨rfl, rfl, Nat.le_refl _, id, FusesLe.refl _, id⟩

theorem Keeps.trans {r s t : State} (h : Keeps r s) (k : Keeps s t) : Keeps r t :=
  ⟨k.pending.trans h.pending, k.tck.trans h.tck, Nat.le_trans h.seq k.seq, k.rings ∘ h.rings, h.fuses.trans k.fuses,
   k.buffers ∘ h.buffers⟩

/-- What an update leaves of the addressed memories. -/
def SameMem (x : State) (cfl : Cfl) (dmc : Dmc) (slt : Slt) : Prop :=
  cfl.mem = x.cfl.mem ∧ cfl.hdrs = x.cfl.hdrs ∧ dmc.window = x.dmc.window ∧ dmc.checks = x.dmc.checks ∧
    slt.stage = x.slt.stage

theorem BuffersOk.congr {x : State} {cfl : Cfl} {dmc : Dmc} {slt : Slt} (h : SameMem x cfl dmc slt) (pending quartz free sys
    fuses tck pins img pwr thm fcl obs tal mch bpm cph kec nfc med qtz eth insts jrn mgmt wire) :
    BuffersOk ⟨pending, quartz, free, sys, fuses, tck, pins, img, pwr, thm, fcl, obs, tal, cfl, dmc, mch, bpm, cph,
      kec, nfc, med, qtz, eth, insts, jrn, slt, mgmt, wire⟩ ↔ BuffersOk x := by
  obtain ⟨a, b, c, d, e⟩ := h
  simp only [BuffersOk, a, b, c, d, e]

/-- An update of the other fields. -/
theorem Keeps.upd (r x : State) (quartz free sys pins img pwr thm fcl tal cfl dmc mch bpm cph kec nfc med qtz eth insts jrn
    slt mgmt wire) (h1 : cfl.mem = x.cfl.mem) (h2 : cfl.hdrs = x.cfl.hdrs) (h3 : dmc.window = x.dmc.window)
    (h4 : dmc.checks = x.dmc.checks) (h5 : slt.stage = x.slt.stage) :
    Keeps r ⟨x.pending, quartz, free, sys, x.fuses, x.tck, pins, img, pwr, thm, fcl, x.obs, tal, cfl, dmc, mch, bpm, cph,
      kec, nfc, med, qtz, eth, insts, jrn, slt, mgmt, wire⟩ ↔ Keeps r x :=
  ⟨fun k => ⟨k.pending, k.tck, k.seq, k.rings, k.fuses, fun b => (BuffersOk.congr ⟨h1, h2, h3, h4, h5⟩ ..).mp (k.buffers b)⟩,
   fun k => ⟨k.pending, k.tck, k.seq, k.rings, k.fuses, fun b => (BuffersOk.congr ⟨h1, h2, h3, h4, h5⟩ ..).mpr (k.buffers b)⟩⟩

/-- An update of Obsidian. -/
theorem Keeps.obs {r x : State} {quartz free sys pins img pwr thm fcl obs tal cfl dmc mch bpm cph kec nfc med qtz eth insts
    jrn slt mgmt wire} (h : Keeps r x) (hs : x.obs.seq ≤ obs.seq) (hr : RingsOk x.obs → RingsOk obs)
    (hb : SameMem x cfl dmc slt := by simp [SameMem]) :
    Keeps r ⟨x.pending, quartz, free, sys, x.fuses, x.tck, pins, img, pwr, thm, fcl, obs, tal, cfl, dmc, mch, bpm, cph,
      kec, nfc, med, qtz, eth, insts, jrn, slt, mgmt, wire⟩ :=
  ⟨h.pending, h.tck, Nat.le_trans h.seq hs, hr ∘ h.rings, h.fuses, fun b => (BuffersOk.congr hb ..).mpr (h.buffers b)⟩

/-- An update of Obsidian's settings. -/
theorem Keeps.updObs (r x : State) (obs : Obs) (hs : obs.seq = x.obs.seq) (hf : obs.fifo = x.obs.fifo)
    (hv : obs.severe = x.obs.severe) (quartz free sys pins img pwr thm fcl tal cfl dmc mch bpm cph kec nfc med qtz eth insts
    jrn slt mgmt wire) (h1 : cfl.mem = x.cfl.mem) (h2 : cfl.hdrs = x.cfl.hdrs) (h3 : dmc.window = x.dmc.window)
    (h4 : dmc.checks = x.dmc.checks) (h5 : slt.stage = x.slt.stage) :
    Keeps r ⟨x.pending, quartz, free, sys, x.fuses, x.tck, pins, img, pwr, thm, fcl, obs, tal, cfl, dmc, mch, bpm, cph,
      kec, nfc, med, qtz, eth, insts, jrn, slt, mgmt, wire⟩ ↔ Keeps r x :=
  ⟨fun h => ⟨h.pending, h.tck, hs ▸ h.seq, fun k => ⟨hf ▸ (h.rings k).1, hv ▸ (h.rings k).2⟩, h.fuses,
      fun b => (BuffersOk.congr ⟨h1, h2, h3, h4, h5⟩ ..).mp (h.buffers b)⟩,
   fun h => ⟨h.pending, h.tck, hs ▸ h.seq, fun k => ⟨hf ▸ (h.rings k).1, hv ▸ (h.rings k).2⟩, h.fuses,
      fun b => (BuffersOk.congr ⟨h1, h2, h3, h4, h5⟩ ..).mpr (h.buffers b)⟩⟩

/-- The last of a chain of operations. -/
theorem Keeps.app {r x : State} {f : State → State} (k : Keeps x (f x)) (h : Keeps r x) : Keeps r (f x) := h.trans k

theorem Keeps.app2 {α : Type} {r x : State} {f : State → α × State} (k : Keeps x (f x).2) (h : Keeps r x) :
    Keeps r (f x).2 := h.trans k

theorem Keeps.app1 {α : Type} {r x : State} {f : State → State × α} (k : Keeps x (f x).1) (h : Keeps r x) :
    Keeps r (f x).1 := h.trans k

theorem Keeps.ite {r x y : State} {c : Prop} [Decidable c] (h : Keeps r x) (k : Keeps r y) :
    Keeps r (if c then x else y) := by split <;> assumption

/-- The state of a pair that an operation answers. -/
theorem Keeps.snd {α : Type} {r x t : State} {a : α} {f : State → α × State} (e : f x = (a, t)) (h : Keeps r x)
    (k : Keeps x (f x).2) : Keeps r t := by rw [e] at k; exact h.trans k

theorem Keeps.fst {α : Type} {r x t : State} {a : α} {f : State → State × α} (e : f x = (t, a)) (h : Keeps r x)
    (k : Keeps x (f x).1) : Keeps r t := by rw [e] at k; exact h.trans k

theorem Keeps.foldl {α : Type} {r : State} {f : State → α → State} {l : List α} {s : State} (h : Keeps r s)
    (k : ∀ x a, Keeps r x → Keeps r (f x a)) : Keeps r (l.foldl f s) := by
  induction l generalizing s with
  | nil => exact h
  | cons a l ih => exact ih (k s a h)

theorem Keeps.foldl2 {α β : Type} {r : State} {f : α × State → β → α × State} {l : List β} {s : α × State}
    (h : Keeps r s.2) (k : ∀ x b, Keeps r x.2 → Keeps r (f x b).2) : Keeps r (l.foldl f s).2 := by
  induction l generalizing s with
  | nil => exact h
  | cons a l ih => exact ih (k s a h)

theorem Keeps.foldl1 {α β : Type} {r : State} {f : State × α → β → State × α} {l : List β} {s : State × α}
    (h : Keeps r s.1) (k : ∀ x b, Keeps r x.1 → Keeps r (f x b).1) : Keeps r (l.foldl f s).1 := by
  induction l generalizing s with
  | nil => exact h
  | cons a l ih => exact ih (k s a h)

theorem Keeps.forInsts {r : State} {f : Nat → State → State} {s : State} (h : Keeps r s)
    (k : ∀ i x, Keeps r x → Keeps r (f i x)) : Keeps r (Machine.forInsts f s) := Keeps.foldl h fun x i => k i x

/-- An operation that may answer nothing. -/
def KeepsO (s : State) (o : Option State) : Prop := ∀ t, o = some t → Keeps s t

/-- A step of a start, which may fail. -/
def KeepsR (s : State) (o : Except Failed State) : Prop := match o with
  | .ok t => Keeps s t
  | .error e => Keeps s e.st

@[simp] theorem KeepsO.none (s : State) : KeepsO s none := fun _ h => nomatch h

@[simp] theorem KeepsO.some (s t : State) : KeepsO s (some t) ↔ Keeps s t :=
  ⟨fun h => h t rfl, fun h _ e => Option.some.inj e ▸ h⟩

theorem KeepsO.ite {s : State} {x y : Option State} {c : Prop} [Decidable c] (h : KeepsO s x) (k : KeepsO s y) :
    KeepsO s (if c then x else y) := by split <;> assumption

theorem KeepsO.of {r s t : State} {f : State → Option State} (e : f s = .some t) (h : Keeps r s) (k : KeepsO s (f s)) :
    Keeps r t := h.trans (k t e)

/-- An operation that may answer a value with its state. -/
def KeepsP {α : Type} (s : State) (o : Option (α × State)) : Prop := ∀ p, o = some p → Keeps s p.2

@[simp] theorem KeepsP.none {α : Type} (s : State) : KeepsP s (none : Option (α × State)) := fun _ h => nomatch h

@[simp] theorem KeepsP.some {α : Type} (s : State) (p : α × State) : KeepsP s (some p) ↔ Keeps s p.2 :=
  ⟨fun h => h p rfl, fun h _ e => Option.some.inj e ▸ h⟩

theorem KeepsP.ite {α : Type} {s : State} {x y : Option (α × State)} {c : Prop} [Decidable c] (h : KeepsP s x)
    (k : KeepsP s y) : KeepsP s (if c then x else y) := by split <;> assumption

theorem KeepsP.of {α : Type} {r s : State} {p : α × State} {f : State → Option (α × State)} (e : f s = .some p)
    (h : Keeps r s) (k : KeepsP s (f s)) : Keeps r p.2 := h.trans (k p e)

@[simp] theorem KeepsR.ok (s t : State) : KeepsR s (.ok t) ↔ Keeps s t := Iff.rfl

@[simp] theorem KeepsR.error (s : State) (e : Failed) : KeepsR s (.error e) ↔ Keeps s e.st := Iff.rfl

theorem KeepsR.ite {s : State} {x y : Except Failed State} {c : Prop} [Decidable c] (h : KeepsR s x) (k : KeepsR s y) :
    KeepsR s (if c then x else y) := by split <;> assumption

theorem KeepsR.trans {r s : State} {o : Except Failed State} (h : Keeps r s) (k : KeepsR s o) : KeepsR r o := by
  cases o with
  | ok t => exact Keeps.trans h k
  | error e => exact Keeps.trans h k

theorem KeepsR.app {r s : State} {f : State → Except Failed State} (k : KeepsR s (f s)) (h : Keeps r s) :
    KeepsR r (f s) := KeepsR.trans h k

theorem KeepsR.of_ok {r s t : State} {f : State → Except Failed State} (e : f s = .ok t) (h : Keeps r s)
    (k : KeepsR s (f s)) : Keeps r t := by rw [e] at k; exact h.trans k

theorem KeepsR.of_error {r s : State} {t : Failed} {f : State → Except Failed State} (e : f s = .error t) (h : Keeps r s)
    (k : KeepsR s (f s)) : Keeps r t.st := by rw [e] at k; exact h.trans k

end Sys2Proof.Laws
end

