-- ==== Sys2Proof/Laws/KeepsOps.lean ====
section
/-! SUPPORT. What the operations of Machine/Ops.lean keep. -/

namespace Sys2Proof.Laws

open Sys2Proof Sys2Proof.Machine Sys2Proof.Safety

set_option linter.unusedTactic false
set_option linter.unreachableTactic false
set_option linter.unusedSimpArgs false

@[simp] theorem tallyRaw_keeps (target group field n : Nat) (s : State) :
    Keeps s (tallyRaw target group field n s) := by
  unfold tallyRaw
  simp [Keeps.upd]

@[simp] theorem fifoPush_keeps (r : Rec) (s : State) : Keeps s (fifoPush r s) := by
  unfold fifoPush
  split
  · rename_i h
    simp only [Bool.or_eq_true, decide_eq_true_eq, Bool.and_eq_true] at h
    exact (Keeps.refl s).obs (Nat.le_refl _) fun k => ⟨by simp; omega, k.2⟩
  · refine Keeps.app (tallyRaw_keeps ..) ?_
    exact (Keeps.refl s).obs (Nat.le_refl _) fun k => ⟨k.1, k.2⟩

@[simp] theorem severePush_keeps (r : Rec) (s : State) : Keeps s (severePush r s) := by
  unfold severePush
  split
  · exact Keeps.refl s
  · refine (Keeps.refl s).obs (Nat.le_refl _) fun k => ⟨k.1, ?_⟩
    simp only
    split
    · exact k.2
    · simp; have := k.2; omega

@[simp] theorem eventAt_keeps (time code sev source inst : Nat) (simul first : Bool) (payload : Nat) (s : State) :
    Keeps s (eventAt time code sev source inst simul first payload s) := by
  unfold eventAt
  refine Keeps.app (fifoPush_keeps ..) (Keeps.app (severePush_keeps ..) ?_)
  exact (Keeps.refl s).obs (Nat.le_succ _) id

@[simp] theorem event_keeps (code sev source inst : Nat) (args : List Nat) (s : State) :
    Keeps s (event code sev source inst args s) := by
  unfold event
  simp [Keeps.upd]

@[simp] theorem notice_keeps (code : Nat) (args : List Nat) (s : State) : Keeps s (notice code args s) := by
  unfold notice
  simp [Keeps.upd]

@[simp] theorem regRefused_keeps (_addr _value : Nat) (s : State) : Keeps s (regRefused _addr _value s) := by
  unfold regRefused
  repeat' with_reducible first
    | assumption | exact Keeps.refl _ | refine Keeps.ite ?_ ?_ | (refine Keeps.app ?_ ?_; focus (simp; done))
    | simp only [Keeps.upd] | split

@[simp] theorem tally_keeps (target group field n : Nat) (s : State) : Keeps s (tally target group field n s) := by
  unfold tally
  repeat' with_reducible first
    | assumption | exact Keeps.refl _ | refine Keeps.ite ?_ ?_ | (refine Keeps.app ?_ ?_; focus (simp; done))
    | simp only [Keeps.upd] | split

@[simp] theorem keccakMsg_keeps (bulk : Bool) (s : State) : Keeps s (keccakMsg bulk s) := by
  unfold keccakMsg
  repeat' with_reducible first
    | assumption | exact Keeps.refl _ | refine Keeps.ite ?_ ?_ | (refine Keeps.app ?_ ?_; focus (simp; done))
    | simp only [Keeps.upd] | split

@[simp] theorem wrapEvent_keeps (addr : Nat) (s : State) : Keeps s (wrapEvent addr s) := by
  unfold wrapEvent
  simp [Keeps.upd]

@[simp] theorem raise_keeps (part : Nat) (f : Fault') (s : State) : Keeps s (raise part f s) := by
  unfold raise
  simp [Keeps.upd]

@[simp] theorem restored_keeps (part source : Nat) (s : State) : Keeps s (restored part source s) := by
  unfold restored
  repeat' with_reducible first
    | assumption | exact Keeps.refl _ | refine Keeps.ite ?_ ?_ | (refine Keeps.app ?_ ?_; focus (simp; done))
    | simp only [Keeps.upd] | split

@[simp] theorem unrestore_keeps (part : Nat) (s : State) : Keeps s (unrestore part s) := by
  unfold unrestore
  repeat' with_reducible first
    | assumption | exact Keeps.refl _ | refine Keeps.ite ?_ ?_ | (refine Keeps.app ?_ ?_; focus (simp; done))
    | simp only [Keeps.upd] | split

@[simp] theorem restoredOrHeld_keeps (part : Nat) (s : State) : Keeps s (restoredOrHeld part s) := by
  unfold restoredOrHeld
  repeat' with_reducible first
    | assumption | exact Keeps.refl _ | refine Keeps.ite ?_ ?_ | (refine Keeps.app ?_ ?_; focus (simp; done))
    | simp only [Keeps.upd] | split

@[simp] theorem lockLines_keeps (lines : List Nat) (s : State) : Keeps s (lockLines lines s) := by
  unfold lockLines
  repeat' with_reducible first
    | assumption | exact Keeps.refl _ | refine Keeps.ite ?_ ?_ | (refine Keeps.app ?_ ?_; focus (simp; done))
    | simp only [Keeps.upd] | split

@[simp] theorem checkpoint_keeps (s : State) : Keeps s (checkpoint s) := by
  unfold checkpoint
  simp [Keeps.upd]

@[simp] theorem sealHwt_keeps (client entries : Nat) (lines : List Nat) (s : State) :
    Keeps s (sealHwt client entries lines s) := by
  unfold sealHwt
  repeat' with_reducible first
    | assumption | exact Keeps.refl _ | refine Keeps.ite ?_ ?_ | (refine Keeps.app ?_ ?_; focus (simp; done))
    | simp only [Keeps.upd] | split

@[simp] theorem setInst_keeps (i : Nat) (x : Inst) (s : State) : Keeps s (setInst i x s) := by
  unfold setInst
  simp [Keeps.upd]

@[simp] theorem modInst_keeps (i : Nat) (f : Inst → Inst) (s : State) : Keeps s (modInst i f s) := by
  unfold modInst
  simp [Keeps.upd]

@[simp] theorem drawBytes_keeps (n : Nat) (s : State) : Keeps s (drawBytes n s).2 := by
  unfold drawBytes
  simp [Keeps.upd]

end Sys2Proof.Laws
end

