-- ==== Sys2Proof/Laws/KeepsBpm.lean ====
section
/-! SUPPORT. What the operations of Machine/Bpm.lean keep. -/

namespace Sys2Proof.Laws

open Sys2Proof Sys2Proof.Machine Sys2Proof.Safety

set_option linter.unusedTactic false
set_option linter.unreachableTactic false
set_option linter.unusedSimpArgs false

@[simp] theorem modPool_keeps (p : Nat) (f : Pool → Pool) (s : State) : Keeps s (modPool p f s) := by
  unfold modPool
  simp [Keeps.upd]

@[simp] theorem poolFail_keeps (p : Nat) (s : State) : Keeps s (poolFail p s) := by
  unfold poolFail
  repeat' with_reducible first
    | assumption | exact Keeps.refl _ | refine Keeps.ite ?_ ?_ | (refine Keeps.app ?_ ?_; focus (simp; done))
    | simp only [Keeps.upd] | split

@[simp] theorem allocBuf_keeps (p port : Nat) (reserved : Bool) (s : State) :
    Keeps s (allocBuf p port reserved s).2 := by
  unfold allocBuf
  repeat' with_reducible first
    | assumption | exact Keeps.refl _ | refine Keeps.ite ?_ ?_ | (refine Keeps.app ?_ ?_; focus (simp; done))
    | simp only [Keeps.upd] | split

@[simp] theorem incRef_keeps (p b : Nat) (s : State) : Keeps s (incRef p b s).2 := by
  unfold incRef
  repeat' with_reducible first
    | assumption | exact Keeps.refl _ | refine Keeps.ite ?_ ?_ | (refine Keeps.app ?_ ?_; focus (simp; done))
    | simp only [Keeps.upd] | split

@[simp] theorem decRef_keeps (p b port : Nat) (s : State) : Keeps s (decRef p b port s) := by
  unfold decRef
  repeat' with_reducible first
    | assumption | exact Keeps.refl _ | refine Keeps.ite ?_ ?_ | (refine Keeps.app ?_ ?_; focus (simp; done))
    | simp only [Keeps.upd] | split

@[simp] theorem poisonBuf_keeps (p b : Nat) (s : State) : Keeps s (poisonBuf p b s) := by
  unfold poisonBuf
  simp [Keeps.upd]

@[simp] theorem freeBufs_keeps (port : Nat) (l : List (Nat × Nat)) (s : State) : Keeps s (freeBufs port l s) := by
  unfold freeBufs
  repeat' with_reducible first
    | assumption | exact Keeps.refl _
    | (intro x; refine (fun (hx : Keeps s x) => ?_) ?_; clear_value x; rotate_left; simp only [x]; clear x)
    | (intro (x : Dmc); simp only [x]; clear x) | (intro (x : Cfl); simp only [x]; clear x)
    | (intro (x : Slt); simp only [x]; clear x) | (intro x; clear_value x) | intro _ | lift_lets
    | refine Keeps.ite ?_ ?_ | (refine Keeps.app ?_ ?_; focus (simp; done)) | simp only [Keeps.upd]
    | refine Keeps.foldl ?_ ?_ | split

@[simp] theorem takeFirst_keeps (port : Nat) (l : List (Nat × Bool)) (s : State) :
    Keeps s (takeFirst port l s).2 := by
  induction l generalizing s with
  | nil => exact Keeps.refl s
  | cons q l ih =>
    obtain ⟨p, r⟩ := q
    have h := allocBuf_keeps p port r s
    unfold takeFirst
    split <;> rename_i e <;> rw [e] at h
    · exact h
    · exact h.trans (ih _)

@[simp] theorem takeEgress_keeps (half : Nat) (s : State) : Keeps s (takeEgress half s).2 := by
  exact takeFirst_keeps ..

@[simp] theorem takeStage_keeps (half : Nat) (s : State) : Keeps s (takeStage half s).2 := by
  exact takeFirst_keeps ..

@[simp] theorem takePage_keeps (s : State) : Keeps s (takePage s).2 := by
  refine List.foldlRecOn _ _ (motive := fun (a : List (Nat × Nat) × State) => Keeps s a.2) (Keeps.refl s) fun a h _ _ => ?_
  have k := takeFirst_keeps 4 [(10, true), (11, true)] a.2
  split <;> rename_i e <;> rw [e] at k <;> exact h.trans k

@[simp] theorem takeTwin_keeps (s : State) : Keeps s (takeTwin s).2 := by
  unfold takeTwin
  repeat' with_reducible first
    | assumption | exact Keeps.refl _
    | (intro x; refine (fun (hx : Keeps s x) => ?_) ?_; clear_value x; rotate_left; simp only [x]; clear x)
    | (intro (x : Dmc); simp only [x]; clear x) | (intro (x : Cfl); simp only [x]; clear x)
    | (intro (x : Slt); simp only [x]; clear x) | (intro x; clear_value x) | lift_lets | refine Keeps.ite ?_ ?_
    | (refine Keeps.app ?_ ?_; focus (simp; done)) | simp only [Keeps.upd]
    | (refine Keeps.app2 ?_ ?_; focus (simp; done)) | (refine Keeps.app1 ?_ ?_; focus (simp; done)) | dsimp only
    | split | (refine Keeps.snd (by assumption) ?_ ?_; rotate_left; focus (simp; done))
    | (refine Keeps.fst (by assumption) ?_ ?_; rotate_left; focus (simp; done))

@[simp] theorem takeTwins_keeps (n : Nat) (s : State) : Keeps s (takeTwins n s).2 := by
  induction n generalizing s with
  | zero => exact Keeps.refl s
  | succ n ih =>
    have h := takeTwin_keeps s
    unfold takeTwins
    split <;> rename_i e <;> rw [e] at h
    · exact h
    · exact h.trans (ih _)

@[simp] theorem freeTwin_keeps (t : Nat × Nat) (s : State) : Keeps s (freeTwin t s) := by
  unfold freeTwin
  repeat' with_reducible first
    | assumption | exact Keeps.refl _ | refine Keeps.ite ?_ ?_ | (refine Keeps.app ?_ ?_; focus (simp; done))
    | simp only [Keeps.upd] | split

@[simp] theorem refTwin_keeps (t : Nat × Nat) (s : State) : Keeps s (refTwin t s).2 := by
  unfold refTwin
  repeat' with_reducible first
    | assumption | exact Keeps.refl _
    | (intro x; refine (fun (hx : Keeps s x) => ?_) ?_; clear_value x; rotate_left; simp only [x]; clear x)
    | (intro (x : Dmc); simp only [x]; clear x) | (intro (x : Cfl); simp only [x]; clear x)
    | (intro (x : Slt); simp only [x]; clear x) | (intro x; clear_value x) | lift_lets | refine Keeps.ite ?_ ?_
    | (refine Keeps.app ?_ ?_; focus (simp; done)) | simp only [Keeps.upd]
    | (refine Keeps.app2 ?_ ?_; focus (simp; done)) | (refine Keeps.app1 ?_ ?_; focus (simp; done)) | dsimp only
    | split | (refine Keeps.snd (by assumption) ?_ ?_; rotate_left; focus (simp; done))
    | (refine Keeps.fst (by assumption) ?_ ?_; rotate_left; focus (simp; done))

end Sys2Proof.Laws
end

