-- ==== Sys2Proof/Laws/KeepsFrames.lean ====
section
/-! SUPPORT. What the operations of Machine/Frames.lean keep. -/

namespace Sys2Proof.Laws

open Sys2Proof Sys2Proof.Machine Sys2Proof.Safety

set_option linter.unusedTactic false
set_option linter.unreachableTactic false
set_option linter.unusedSimpArgs false

@[simp] theorem countOut_keeps (link bytes : Nat) (s : State) : Keeps s (countOut link bytes s) := by
  unfold countOut
  repeat' with_reducible first
    | assumption | exact Keeps.refl _ | refine Keeps.ite ?_ ?_ | (refine Keeps.app ?_ ?_; focus (simp; done))
    | simp only [Keeps.upd] | split

@[simp] theorem countIn_keeps (link bytes : Nat) (s : State) : Keeps s (countIn link bytes s) := by
  unfold countIn
  repeat' with_reducible first
    | assumption | exact Keeps.refl _ | refine Keeps.ite ?_ ?_ | (refine Keeps.app ?_ ?_; focus (simp; done))
    | simp only [Keeps.upd] | split

@[simp] theorem transmit_keeps (d : Down) (s : State) : Keeps s (transmit d s) := by
  unfold transmit
  repeat' with_reducible first
    | assumption | exact Keeps.refl _ | refine Keeps.ite ?_ ?_ | (refine Keeps.app ?_ ?_; focus (simp; done))
    | simp only [Keeps.upd] | split

@[simp] theorem emit_keeps (d : Down) (s : State) : Keeps s (emit d s) := by
  unfold emit
  repeat' with_reducible first
    | assumption | exact Keeps.refl _ | refine Keeps.ite ?_ ?_ | (refine Keeps.app ?_ ?_; focus (simp; done))
    | simp only [Keeps.upd] | split

@[simp] theorem sendOwned_keeps (i pref flags slot block : Nat) (body : Body) (trailer : Option Trailer) (buf : Option (Nat × Nat)) (s : State) :
    Keeps s (sendOwned i pref flags slot block body trailer buf s) := by
  unfold sendOwned
  repeat' with_reducible first
    | assumption | exact Keeps.refl _ | refine Keeps.ite ?_ ?_ | (refine Keeps.app ?_ ?_; focus (simp; done))
    | simp only [Keeps.upd] | split

@[simp] theorem sendSeq_keeps (i pref flags slot block : Nat) (body : Body) (trailer : Option Trailer) (s : State) :
    Keeps s (sendSeq i pref flags slot block body trailer s) := by
  unfold sendSeq
  repeat' with_reducible first
    | assumption | exact Keeps.refl _ | refine Keeps.ite ?_ ?_ | (refine Keeps.app ?_ ?_; focus (simp; done))
    | simp only [Keeps.upd] | split

@[simp] theorem sendUnseq_keeps (i pref flags slot : Nat) (body : Body) (s : State) :
    Keeps s (sendUnseq i pref flags slot body s) := by
  unfold sendUnseq
  repeat' with_reducible first
    | assumption | exact Keeps.refl _ | refine Keeps.ite ?_ ?_ | (refine Keeps.app ?_ ?_; focus (simp; done))
    | simp only [Keeps.upd] | split

@[simp] theorem notify_keeps (i ev a0 a1 a2 : Nat) (s : State) : Keeps s (notify i ev a0 a1 a2 s) := by
  unfold notify
  repeat' with_reducible first
    | assumption | exact Keeps.refl _ | refine Keeps.ite ?_ ?_ | (refine Keeps.app ?_ ?_; focus (simp; done))
    | simp only [Keeps.upd] | split

@[simp] theorem sendAck_keeps (i : Nat) (s : State) : Keeps s (sendAck i s) := by
  unfold sendAck
  repeat' with_reducible first
    | assumption | exact Keeps.refl _ | refine Keeps.ite ?_ ?_ | (refine Keeps.app ?_ ?_; focus (simp; done))
    | simp only [Keeps.upd] | split

@[simp] theorem sendProbeReply_keeps (i link : Nat) (s : State) : Keeps s (sendProbeReply i link s) := by
  unfold sendProbeReply
  repeat' with_reducible first
    | assumption | exact Keeps.refl _ | refine Keeps.ite ?_ ?_ | (refine Keeps.app ?_ ?_; focus (simp; done))
    | simp only [Keeps.upd] | split

@[simp] theorem violate_keeps (i : Nat) (s : State) : Keeps s (violate i s) := by
  unfold violate
  repeat' with_reducible first
    | assumption | exact Keeps.refl _ | refine Keeps.ite ?_ ?_ | (refine Keeps.app ?_ ?_; focus (simp; done))
    | simp only [Keeps.upd] | split

@[simp] theorem emitReject_keeps (i : Nat) (x : Inst) (e : Env) (own : Bool) (r : Reject) (s : State) :
    Keeps s (emitReject i x e own r s) := by
  unfold emitReject
  repeat' with_reducible first
    | assumption | exact Keeps.refl _ | refine Keeps.ite ?_ ?_ | (refine Keeps.app ?_ ?_; focus (simp; done))
    | simp only [Keeps.upd] | split

@[simp] theorem sendReject_keeps (i : Nat) (e : Env) (own : Bool) (r : Reject) (s : State) :
    Keeps s (sendReject i e own r s) := by
  unfold sendReject
  repeat' with_reducible first
    | assumption | exact Keeps.refl _ | refine Keeps.ite ?_ ?_ | (refine Keeps.app ?_ ?_; focus (simp; done))
    | simp only [Keeps.upd] | split

@[simp] theorem rejectNobody_keeps (e : Env) (r : Reject) (s : State) : Keeps s (rejectNobody e r s) := by
  unfold rejectNobody
  repeat' with_reducible first
    | assumption | exact Keeps.refl _ | refine Keeps.ite ?_ ?_ | (refine Keeps.app ?_ ?_; focus (simp; done))
    | simp only [Keeps.upd] | split

@[simp] theorem sendRejectTo_keeps (e : Env) (r : Reject) (s : State) : Keeps s (sendRejectTo e r s) := by
  unfold sendRejectTo
  repeat' with_reducible first
    | assumption | exact Keeps.refl _ | refine Keeps.ite ?_ ?_ | (refine Keeps.app ?_ ?_; focus (simp; done))
    | simp only [Keeps.upd] | split

@[simp] theorem silentDrop_keeps (link : Nat) (s : State) : Keeps s (silentDrop link s) := by
  unfold silentDrop
  repeat' with_reducible first
    | assumption | exact Keeps.refl _ | refine Keeps.ite ?_ ?_ | (refine Keeps.app ?_ ?_; focus (simp; done))
    | simp only [Keeps.upd] | split

@[simp] theorem resendDown_keeps (i : Nat) (d : Down) (s : State) : Keeps s (resendDown i d s) := by
  unfold resendDown
  repeat' with_reducible first
    | assumption | exact Keeps.refl _ | refine Keeps.ite ?_ ?_ | (refine Keeps.app ?_ ?_; focus (simp; done))
    | simp only [Keeps.upd] | split

@[simp] theorem resendWhere_keeps (i : Nat) (p : Down → Bool) (s : State) : Keeps s (resendWhere i p s) := by
  unfold resendWhere
  repeat' with_reducible first
    | assumption | exact Keeps.refl _
    | (intro x; refine (fun (hx : Keeps s x) => ?_) ?_; clear_value x; rotate_left; simp only [x]; clear x)
    | (intro (x : Dmc); simp only [x]; clear x) | (intro (x : Cfl); simp only [x]; clear x)
    | (intro (x : Slt); simp only [x]; clear x) | (intro x; clear_value x) | intro _ | lift_lets
    | refine Keeps.ite ?_ ?_ | (refine Keeps.app ?_ ?_; focus (simp; done)) | simp only [Keeps.upd]
    | refine Keeps.foldl ?_ ?_ | split

@[simp] theorem drainBacklog_keeps (i : Nat) (s : State) : Keeps s (drainBacklog i s) := by
  unfold drainBacklog
  repeat' with_reducible first
    | assumption | exact Keeps.refl _
    | (intro x; refine (fun (hx : Keeps s x) => ?_) ?_; clear_value x; rotate_left; simp only [x]; clear x)
    | (intro (x : Dmc); simp only [x]; clear x) | (intro (x : Cfl); simp only [x]; clear x)
    | (intro (x : Slt); simp only [x]; clear x) | (intro x; clear_value x) | intro _ | lift_lets
    | refine Keeps.ite ?_ ?_ | (refine Keeps.app ?_ ?_; focus (simp; done)) | simp only [Keeps.upd]
    | refine Keeps.foldl ?_ ?_ | split

end Sys2Proof.Laws
end

