-- ==== Sys2Proof/Laws/KeepsComplete.lean ====
section
/-! SUPPORT. What the operations of Machine/Complete.lean keep. -/

namespace Sys2Proof.Laws

open Sys2Proof Sys2Proof.Machine Sys2Proof.Safety

set_option linter.unusedTactic false
set_option linter.unreachableTactic false
set_option linter.unusedSimpArgs false

@[simp] theorem escalate_keeps (i : Nat) (s : State) : Keeps s (escalate i s) := by
  unfold escalate
  repeat' with_reducible first
    | assumption | exact Keeps.refl _ | refine Keeps.ite ?_ ?_ | (refine Keeps.app ?_ ?_; focus (simp; done))
    | simp only [Keeps.upd] | split

@[simp] theorem missLate_keeps (i slot : Nat) (t : Task) (s : State) : Keeps s (missLate i slot t s) := by
  unfold missLate
  repeat' with_reducible first
    | assumption | exact Keeps.refl _ | refine Keeps.ite ?_ ?_ | (refine Keeps.app ?_ ?_; focus (simp; done))
    | simp only [Keeps.upd] | split

@[simp] theorem missRestart_keeps (i : Nat) (s : State) : Keeps s (missRestart i s) := by
  unfold missRestart
  repeat' with_reducible first
    | assumption | exact Keeps.refl _ | refine Keeps.ite ?_ ?_ | (refine Keeps.app ?_ ?_; focus (simp; done))
    | simp only [Keeps.upd] | split

@[simp] theorem missTask_keeps (i slot : Nat) (t : Task) (s : State) : Keeps s (missTask i slot t s) := by
  unfold missTask
  repeat' with_reducible first
    | assumption | exact Keeps.refl _ | refine Keeps.ite ?_ ?_ | (refine Keeps.app ?_ ?_; focus (simp; done))
    | simp only [Keeps.upd] | split

@[simp] theorem missInternal_keeps (s : State) : Keeps s (missInternal s) := by
  unfold missInternal
  repeat' with_reducible first
    | assumption | exact Keeps.refl _ | refine Keeps.ite ?_ ?_ | (refine Keeps.app ?_ ?_; focus (simp; done))
    | simp only [Keeps.upd] | split

@[simp] theorem modTask_keeps (i slot : Nat) (f : Task → Task) (s : State) : Keeps s (modTask i slot f s) := by
  unfold modTask
  repeat' with_reducible first
    | assumption | exact Keeps.refl _ | refine Keeps.ite ?_ ?_ | (refine Keeps.app ?_ ?_; focus (simp; done))
    | simp only [Keeps.upd] | split

@[simp] theorem letGo_keeps (rb : ReadBlock) (s : State) : Keeps s (letGo rb s) := by
  unfold letGo
  repeat' with_reducible first
    | assumption | exact Keeps.refl _ | refine Keeps.ite ?_ ?_ | (refine Keeps.app ?_ ?_; focus (simp; done))
    | simp only [Keeps.upd] | split

@[simp] theorem modBlock_keeps (i slot b : Nat) (f : ReadBlock → ReadBlock) (s : State) :
    Keeps s (modBlock i slot b f s) := by
  unfold modBlock
  simp [Keeps.upd]

@[simp] theorem dropTwin_keeps (i slot b : Nat) (s : State) : Keeps s (dropTwin i slot b s) := by
  unfold dropTwin
  repeat' with_reducible first
    | assumption | exact Keeps.refl _ | refine Keeps.ite ?_ ?_ | (refine Keeps.app ?_ ?_; focus (simp; done))
    | simp only [Keeps.upd] | split

@[simp] theorem dropBlock_keeps (i slot b : Nat) (s : State) : Keeps s (dropBlock i slot b s) := by
  unfold dropBlock
  repeat' with_reducible first
    | assumption | exact Keeps.refl _ | refine Keeps.ite ?_ ?_ | (refine Keeps.app ?_ ?_; focus (simp; done))
    | simp only [Keeps.upd] | split

@[simp] theorem giveBuf_keeps (i slot b half : Nat) (s : State) : Keeps s (giveBuf i slot b half s) := by
  unfold giveBuf
  repeat' with_reducible first
    | assumption | exact Keeps.refl _ | refine Keeps.ite ?_ ?_ | (refine Keeps.app ?_ ?_; focus (simp; done))
    | simp only [Keeps.upd] | simp only [KeepsO.some, KeepsO.none] | refine KeepsO.ite ?_ ?_ | split
    | focus (simp; done)

@[simp] theorem completeTask_keeps (i slot st result : Nat) (dropped : Bool) (s : State) :
    Keeps s (completeTask i slot st result dropped s) := by
  unfold completeTask
  repeat' with_reducible first
    | assumption | exact Keeps.refl _
    | (intro x; refine (fun (hx : Keeps s x) => ?_) ?_; clear_value x; rotate_left; simp only [x]; clear x)
    | (intro (x : Dmc); simp only [x]; clear x) | (intro (x : Cfl); simp only [x]; clear x)
    | (intro (x : Slt); simp only [x]; clear x) | (intro x; clear_value x) | intro _ | lift_lets
    | refine Keeps.ite ?_ ?_ | (refine Keeps.app ?_ ?_; focus (simp; done)) | simp only [Keeps.upd]
    | refine Keeps.foldl ?_ ?_ | split

@[simp] theorem turnAll_keeps (old new : MissCause) (s : State) : Keeps s (turnAll old new s) := by
  unfold turnAll
  simp [Keeps.upd]

@[simp] theorem sendBlock_keeps (i slot b : Nat) (last : Bool) (s : State) : Keeps s (sendBlock i slot b last s) := by
  unfold sendBlock
  repeat' with_reducible first
    | assumption | exact Keeps.refl _ | refine Keeps.ite ?_ ?_ | (refine Keeps.app ?_ ?_; focus (simp; done))
    | simp only [Keeps.upd] | split

@[simp] theorem finishRead_keeps (i slot : Nat) (s : State) : Keeps s (finishRead i slot s) := by
  unfold finishRead
  repeat' with_reducible first
    | assumption | exact Keeps.refl _ | refine Keeps.ite ?_ ?_ | (refine Keeps.app ?_ ?_; focus (simp; done))
    | simp only [Keeps.upd] | split

@[simp] theorem blockReady_keeps (i slot b : Nat) (s : State) : Keeps s (blockReady i slot b s) := by
  unfold blockReady
  repeat' with_reducible first
    | assumption | exact Keeps.refl _ | refine Keeps.ite ?_ ?_ | (refine Keeps.app ?_ ?_; focus (simp; done))
    | simp only [Keeps.upd] | split

@[simp] theorem blockFailed_keeps (i slot b : Nat) (how : Nat) (s : State) : Keeps s (blockFailed i slot b how s) := by
  unfold blockFailed
  repeat' with_reducible first
    | assumption | exact Keeps.refl _ | refine Keeps.ite ?_ ?_ | (refine Keeps.app ?_ ?_; focus (simp; done))
    | simp only [Keeps.upd] | split

end Sys2Proof.Laws
end

