-- ==== Sys2Proof/Laws/KeepsMedia.lean ====
section
/-! SUPPORT. What the operations of Machine/Media.lean keep. -/

namespace Sys2Proof.Laws

open Sys2Proof Sys2Proof.Machine Sys2Proof.Safety

set_option linter.unusedTactic false
set_option linter.unreachableTactic false
set_option linter.unusedSimpArgs false

@[simp] theorem modDie_keeps (d : Nat) (f : Die → Die) (s : State) : Keeps s (modDie d f s) := by
  unfold modDie
  simp [Keeps.upd]

@[simp] theorem modSb_keeps (n : Nat) (f : Superblock → Superblock) (s : State) : Keeps s (modSb n f s) := by
  unfold modSb
  simp [Keeps.upd]

@[simp] theorem takeSb_keeps (worn : Bool) (inst : Nat) (ds : DieSet) (slc : Bool) (hint : Byte) (conv : Bool) (s : State) :
    Keeps s (takeSb worn inst ds slc hint conv s).2 := by
  unfold takeSb
  repeat' with_reducible first
    | assumption | exact Keeps.refl _
    | (intro x; refine (fun (hx : Keeps s x) => ?_) ?_; clear_value x; rotate_left; simp only [x]; clear x)
    | (intro x; refine (fun (hx : KeepsO s x) => ?_) ?_; clear_value x; rotate_left; simp only [x]; clear x)
    | (intro x; refine (fun (hx : KeepsR s x) => ?_) ?_; clear_value x; rotate_left; simp only [x]; clear x)
    | (intro x; refine (fun (hx : Keeps s x.2) => ?_) ?_; clear_value x; rotate_left; simp only [x]; clear x)
    | (intro x; refine (fun (hx : Keeps s x.1) => ?_) ?_; clear_value x; rotate_left; simp only [x]; clear x)
    | (intro (x : Obs); simp only [x]; clear x) | (intro (x : Dmc); simp only [x]; clear x)
    | (intro (x : Cfl); simp only [x]; clear x) | (intro (x : Slt); simp only [x]; clear x)
    | (intro x; clear_value x) | intro (_ : Keeps _ _) | (intro x; simp only [x]; clear x) | intro _ | lift_lets
    | refine Keeps.ite ?_ ?_ | (refine Keeps.app ?_ ?_; focus (simp; done)) | simp only [Keeps.upd, Keeps.updObs]
    | refine Keeps.forInsts ?_ ?_ | refine Keeps.forHeld ?_ ?_ | refine Keeps.foldl ?_ ?_
    | refine Keeps.foldl2 ?_ ?_ | refine Keeps.foldl1 ?_ ?_ | (refine Keeps.app2 ?_ ?_; focus (simp; done))
    | (refine Keeps.app1 ?_ ?_; focus (simp; done)) | dsimp only
    | simp only [KeepsO.some, KeepsO.none, KeepsR.ok, KeepsR.error, KeepsP.some] | refine KeepsO.ite ?_ ?_
    | refine KeepsR.ite ?_ ?_ | refine KeepsP.ite ?_ ?_ | split
    | (refine Keeps.snd (by assumption) ?_ ?_; rotate_left; focus (simp; done))
    | (refine Keeps.fst (by assumption) ?_ ?_; rotate_left; focus (simp; done))
    | (refine KeepsO.of (by assumption) ?_ ?_; rotate_left; focus (simp; done))
    | (refine KeepsP.of (by assumption) ?_ ?_; rotate_left; focus (simp; done)) | focus (simp; done)
    | (refine KeepsR.app ?_ ?_; focus (simp; done))
    | (refine KeepsR.of_ok (by assumption) ?_ ?_; rotate_left; focus (simp; done))
    | (refine KeepsR.of_error (by assumption) ?_ ?_; rotate_left; focus (simp; done))

@[simp] theorem modStored_keeps (k : BlkKey) (f : Stored → Stored) (s : State) : Keeps s (modStored k f s) := by
  unfold modStored
  simp [Keeps.upd]

@[simp] theorem takeEntry_keeps (i slot b half : Nat) (t : Nat × Nat) (s : State) :
    Keeps s (takeEntry i slot b half t s) := by
  unfold takeEntry
  repeat' with_reducible first
    | assumption | exact Keeps.refl _ | refine Keeps.ite ?_ ?_ | (refine Keeps.app ?_ ?_; focus (simp; done))
    | simp only [Keeps.upd] | simp only [KeepsO.some, KeepsO.none] | refine KeepsO.ite ?_ ?_ | split
    | focus (simp; done)

@[simp] theorem keepEntry_keeps (i : Nat) (t : Nat × Nat) (s : State) : Keeps s (keepEntry i t s) := by
  unfold keepEntry
  repeat' with_reducible first
    | assumption | exact Keeps.refl _
    | (intro x; refine (fun (hx : Keeps s x) => ?_) ?_; clear_value x; rotate_left; simp only [x]; clear x)
    | (intro (x : Dmc); simp only [x]; clear x) | (intro (x : Cfl); simp only [x]; clear x)
    | (intro (x : Slt); simp only [x]; clear x) | (intro x; clear_value x) | intro _ | lift_lets
    | refine Keeps.ite ?_ ?_ | (refine Keeps.app ?_ ?_; focus (simp; done)) | simp only [Keeps.upd]
    | refine Keeps.foldl ?_ ?_ | split

@[simp] theorem dropStored_keeps (i : Nat) (st : Stored) (s : State) : Keeps s (dropStored i st s) := by
  unfold dropStored
  repeat' with_reducible first
    | assumption | exact Keeps.refl _ | refine Keeps.ite ?_ ?_ | (refine Keeps.app ?_ ?_; focus (simp; done))
    | simp only [Keeps.upd] | split

@[simp] theorem dropTwins_keeps (i : Nat) (l : List (Nat × Stored)) (s : State) : Keeps s (dropTwins i l s) := by
  unfold dropTwins
  repeat' with_reducible first
    | assumption | exact Keeps.refl _
    | (intro x; refine (fun (hx : Keeps s x) => ?_) ?_; clear_value x; rotate_left; simp only [x]; clear x)
    | (intro (x : Dmc); simp only [x]; clear x) | (intro (x : Cfl); simp only [x]; clear x)
    | (intro (x : Slt); simp only [x]; clear x) | (intro x; clear_value x) | intro _ | lift_lets
    | refine Keeps.ite ?_ ?_ | (refine Keeps.app ?_ ?_; focus (simp; done)) | simp only [Keeps.upd]
    | refine Keeps.foldl ?_ ?_ | split

@[simp] theorem dropZone_keeps (i z : Nat) (s : State) : Keeps s (dropZone i z s) := by
  unfold dropZone
  repeat' with_reducible first
    | assumption | exact Keeps.refl _ | refine Keeps.ite ?_ ?_ | (refine Keeps.app ?_ ?_; focus (simp; done))
    | simp only [Keeps.upd] | split

@[simp] theorem releaseTwin_keeps (k : BlkKey) (s : State) : Keeps s (releaseTwin k s) := by
  unfold releaseTwin
  repeat' with_reducible first
    | assumption | exact Keeps.refl _ | refine Keeps.ite ?_ ?_ | (refine Keeps.app ?_ ?_; focus (simp; done))
    | simp only [Keeps.upd] | split

@[simp] theorem resumeDie_keeps (d : Nat) (s : State) : Keeps s (resumeDie d s) := by
  unfold resumeDie
  simp [Keeps.upd]

@[simp] theorem kickDie_keeps (d : Nat) (s : State) : Keeps s (kickDie d s) := by
  unfold kickDie
  repeat' with_reducible first
    | assumption | exact Keeps.refl _ | refine Keeps.ite ?_ ?_ | (refine Keeps.app ?_ ?_; focus (simp; done))
    | simp only [Keeps.upd] | split

@[simp] theorem kickSuspended_keeps (d : Nat) (s : State) : Keeps s (kickSuspended d s) := by
  unfold kickSuspended
  repeat' with_reducible first
    | assumption | exact Keeps.refl _ | refine Keeps.ite ?_ ?_ | (refine Keeps.app ?_ ?_; focus (simp; done))
    | simp only [Keeps.upd] | split

@[simp] theorem kickAll_keeps (s : State) : Keeps s (kickAll s) := by
  unfold kickAll
  repeat' with_reducible first
    | assumption | exact Keeps.refl _
    | (intro x; refine (fun (hx : Keeps s x) => ?_) ?_; clear_value x; rotate_left; simp only [x]; clear x)
    | (intro (x : Dmc); simp only [x]; clear x) | (intro (x : Cfl); simp only [x]; clear x)
    | (intro (x : Slt); simp only [x]; clear x) | (intro x; clear_value x) | intro _ | lift_lets
    | refine Keeps.ite ?_ ?_ | (refine Keeps.app ?_ ?_; focus (simp; done)) | simp only [Keeps.upd]
    | refine Keeps.foldl ?_ ?_ | split

@[simp] theorem modProg_keeps (n : Nat) (f : Prog → Prog) (s : State) : Keeps s (modProg n f s) := by
  unfold modProg
  simp [Keeps.upd]

@[simp] theorem issueProg_keeps (n : Nat) (s : State) : Keeps s (issueProg n s) := by
  unfold issueProg
  repeat' with_reducible first
    | assumption | exact Keeps.refl _
    | (intro x; refine (fun (hx : Keeps s x) => ?_) ?_; clear_value x; rotate_left; simp only [x]; clear x)
    | (intro (x : Dmc); simp only [x]; clear x) | (intro (x : Cfl); simp only [x]; clear x)
    | (intro (x : Slt); simp only [x]; clear x) | (intro x; clear_value x) | intro _ | lift_lets
    | refine Keeps.ite ?_ ?_ | (refine Keeps.app ?_ ?_; focus (simp; done)) | simp only [Keeps.upd]
    | refine Keeps.foldl ?_ ?_ | split

@[simp] theorem addProg_keeps (pr : Prog) (s : State) : Keeps s (addProg pr s).2 := by
  unfold addProg
  simp [Keeps.upd]

@[simp] theorem startProg_keeps (pr : Prog) (s : State) : Keeps s (startProg pr s) := by
  unfold startProg
  repeat' with_reducible first
    | assumption | exact Keeps.refl _ | refine Keeps.ite ?_ ?_ | (refine Keeps.app ?_ ?_; focus (simp; done))
    | simp only [Keeps.upd] | simp only [KeepsO.some, KeepsO.none] | refine KeepsO.ite ?_ ?_ | split
    | focus (simp; done)

@[simp] theorem issueGroups_keeps (kind : ProgKind) (n lo hi groups : Nat) (s : State) :
    Keeps s (issueGroups kind n lo hi groups s) := by
  unfold issueGroups
  repeat' with_reducible first
    | assumption | exact Keeps.refl _ | refine Keeps.ite ?_ ?_ | (refine Keeps.app ?_ ?_; focus (simp; done))
    | simp only [Keeps.upd] | split

@[simp] theorem settleSb_keeps (n : Nat) (s : State) : Keeps s (settleSb n s) := by
  unfold settleSb
  repeat' with_reducible first
    | assumption | exact Keeps.refl _
    | (intro x; refine (fun (hx : Keeps s x) => ?_) ?_; clear_value x; rotate_left; simp only [x]; clear x)
    | (intro (x : Dmc); simp only [x]; clear x) | (intro (x : Cfl); simp only [x]; clear x)
    | (intro (x : Slt); simp only [x]; clear x) | (intro x; clear_value x) | intro _ | lift_lets
    | refine Keeps.ite ?_ ?_ | (refine Keeps.app ?_ ?_; focus (simp; done)) | simp only [Keeps.upd]
    | refine Keeps.foldl ?_ ?_ | split

@[simp] theorem closeSb_keeps (n : Nat) (s : State) : Keeps s (closeSb n s) := by
  unfold closeSb
  repeat' with_reducible first
    | assumption | exact Keeps.refl _
    | (intro x; refine (fun (hx : Keeps s x) => ?_) ?_; clear_value x; rotate_left; simp only [x]; clear x)
    | (intro (x : Dmc); simp only [x]; clear x) | (intro (x : Cfl); simp only [x]; clear x)
    | (intro (x : Slt); simp only [x]; clear x) | (intro x; clear_value x) | intro _ | lift_lets
    | refine Keeps.ite ?_ ?_ | (refine Keeps.app ?_ ?_; focus (simp; done)) | simp only [Keeps.upd]
    | refine Keeps.foldl ?_ ?_ | split

@[simp] theorem afterPlace_keeps (n : Nat) (s : State) : Keeps s (afterPlace n s) := by
  unfold afterPlace
  repeat' with_reducible first
    | assumption | exact Keeps.refl _ | refine Keeps.ite ?_ ?_ | (refine Keeps.app ?_ ?_; focus (simp; done))
    | simp only [Keeps.upd] | split

@[simp] theorem newConv_keeps (k : BlkKey) (hint : Byte) (d : DieSet) (slc : Bool) (s : State) :
    Keeps s (newConv k hint d slc s).2 := by
  unfold newConv
  repeat' with_reducible first
    | assumption | exact Keeps.refl _ | refine Keeps.ite ?_ ?_ | (refine Keeps.app ?_ ?_; focus (simp; done))
    | simp only [Keeps.upd] | simp only [KeepsO.some, KeepsO.none] | refine KeepsO.ite ?_ ?_ | split
    | focus (simp; done)

@[simp] theorem convSbFor_keeps (k : BlkKey) (x : Inst) (hint : Byte) (s : State) :
    Keeps s (convSbFor k x hint s).2 := by
  unfold convSbFor
  repeat' with_reducible first
    | assumption | exact Keeps.refl _ | refine Keeps.ite ?_ ?_ | (refine Keeps.app ?_ ?_; focus (simp; done))
    | simp only [Keeps.upd] | simp only [KeepsO.some, KeepsO.none] | refine KeepsO.ite ?_ ?_ | split
    | focus (simp; done)

@[simp] theorem zoneSbFor_keeps (k : BlkKey) (x : Inst) (hint : Byte) (s : State) :
    Keeps s (zoneSbFor k x hint s).2 := by
  unfold zoneSbFor
  repeat' with_reducible first
    | assumption | exact Keeps.refl _
    | (intro x; refine (fun (hx : Keeps s x) => ?_) ?_; clear_value x; rotate_left; simp only [x]; clear x)
    | (intro (x : Dmc); simp only [x]; clear x) | (intro (x : Cfl); simp only [x]; clear x)
    | (intro (x : Slt); simp only [x]; clear x) | (intro x; clear_value x) | lift_lets | refine Keeps.ite ?_ ?_
    | (refine Keeps.app ?_ ?_; focus (simp; done)) | simp only [Keeps.upd]
    | (refine Keeps.app2 ?_ ?_; focus (simp; done)) | (refine Keeps.app1 ?_ ?_; focus (simp; done)) | dsimp only
    | split | (refine Keeps.snd (by assumption) ?_ ?_; rotate_left; focus (simp; done))
    | (refine Keeps.fst (by assumption) ?_ ?_; rotate_left; focus (simp; done))

@[simp] theorem openSbFor_keeps (k : BlkKey) (hint : Byte) (s : State) : Keeps s (openSbFor k hint s).2 := by
  unfold openSbFor
  repeat' with_reducible first
    | assumption | exact Keeps.refl _ | refine Keeps.ite ?_ ?_ | (refine Keeps.app ?_ ?_; focus (simp; done))
    | simp only [Keeps.upd] | simp only [KeepsO.some, KeepsO.none] | refine KeepsO.ite ?_ ?_ | split
    | focus (simp; done)

@[simp] theorem placeBlock_keeps (k : BlkKey) (s : State) : Keeps s (placeBlock k s) := by
  unfold placeBlock
  repeat' with_reducible first
    | assumption | exact Keeps.refl _
    | (intro x; refine (fun (hx : Keeps s x) => ?_) ?_; clear_value x; rotate_left; simp only [x]; clear x)
    | (intro (x : Dmc); simp only [x]; clear x) | (intro (x : Cfl); simp only [x]; clear x)
    | (intro (x : Slt); simp only [x]; clear x) | (intro x; clear_value x) | lift_lets | refine Keeps.ite ?_ ?_
    | (refine Keeps.app ?_ ?_; focus (simp; done)) | simp only [Keeps.upd]
    | (refine Keeps.app2 ?_ ?_; focus (simp; done)) | (refine Keeps.app1 ?_ ?_; focus (simp; done)) | dsimp only
    | split | (refine Keeps.snd (by assumption) ?_ ?_; rotate_left; focus (simp; done))
    | (refine Keeps.fst (by assumption) ?_ ?_; rotate_left; focus (simp; done))

@[simp] theorem padSb_keeps (n : Nat) (s : State) : Keeps s (padSb n s) := by
  unfold padSb
  repeat' with_reducible first
    | assumption | exact Keeps.refl _ | refine Keeps.ite ?_ ?_ | (refine Keeps.app ?_ ?_; focus (simp; done))
    | simp only [Keeps.upd] | split

@[simp] theorem takeStaging_keeps (k : BlkKey) (hint : Byte) (d : DieSet) (s : State) :
    Keeps s (takeStaging k hint d s).2 := by
  unfold takeStaging
  repeat' with_reducible first
    | assumption | exact Keeps.refl _ | refine Keeps.ite ?_ ?_ | (refine Keeps.app ?_ ?_; focus (simp; done))
    | simp only [Keeps.upd] | simp only [KeepsO.some, KeepsO.none] | refine KeepsO.ite ?_ ?_ | split
    | focus (simp; done)

@[simp] theorem stagingSb_keeps (k : BlkKey) (hint : Byte) (set : Nat) (s : State) :
    Keeps s (stagingSb k hint set s).2 := by
  unfold stagingSb
  repeat' with_reducible first
    | assumption | exact Keeps.refl _ | refine Keeps.ite ?_ ?_ | (refine Keeps.app ?_ ?_; focus (simp; done))
    | simp only [Keeps.upd] | simp only [KeepsO.some, KeepsO.none] | refine KeepsO.ite ?_ ?_ | split
    | focus (simp; done)

@[simp] theorem stageBlock_keeps (ask : Stored → Bool) (n set : Nat) (k : BlkKey) (s : State) :
    Keeps s (stageBlock ask n set k s) := by
  unfold stageBlock
  repeat' with_reducible first
    | assumption | exact Keeps.refl _
    | (intro x; refine (fun (hx : Keeps s x) => ?_) ?_; clear_value x; rotate_left; simp only [x]; clear x)
    | (intro (x : Dmc); simp only [x]; clear x) | (intro (x : Cfl); simp only [x]; clear x)
    | (intro (x : Slt); simp only [x]; clear x) | (intro x; clear_value x) | lift_lets | refine Keeps.ite ?_ ?_
    | (refine Keeps.app ?_ ?_; focus (simp; done)) | simp only [Keeps.upd]
    | (refine Keeps.app2 ?_ ?_; focus (simp; done)) | (refine Keeps.app1 ?_ ?_; focus (simp; done)) | dsimp only
    | split | (refine Keeps.snd (by assumption) ?_ ?_; rotate_left; focus (simp; done))
    | (refine Keeps.fst (by assumption) ?_ ?_; rotate_left; focus (simp; done))

@[simp] theorem stageGroup_keeps (ask : Stored → Bool) (n : Nat) (b : Superblock) (s : State) :
    Keeps s (stageGroup ask n b s) := by
  unfold stageGroup
  repeat' with_reducible first
    | assumption | exact Keeps.refl _
    | (intro x; refine (fun (hx : Keeps s x) => ?_) ?_; clear_value x; rotate_left; simp only [x]; clear x)
    | (intro (x : Dmc); simp only [x]; clear x) | (intro (x : Cfl); simp only [x]; clear x)
    | (intro (x : Slt); simp only [x]; clear x) | (intro x; clear_value x) | intro _ | lift_lets
    | refine Keeps.ite ?_ ?_ | (refine Keeps.app ?_ ?_; focus (simp; done)) | simp only [Keeps.upd]
    | refine Keeps.foldl ?_ ?_ | split

@[simp] theorem padGroup_keeps (ask : Stored → Bool) (n : Nat) (s : State) : Keeps s (padGroup ask n s) := by
  unfold padGroup
  repeat' with_reducible first
    | assumption | exact Keeps.refl _ | refine Keeps.ite ?_ ?_ | (refine Keeps.app ?_ ?_; focus (simp; done))
    | simp only [Keeps.upd] | split

@[simp] theorem padZoneIf_keeps (ask : Stored → Bool) (i z : Nat) (s : State) : Keeps s (padZoneIf ask i z s) := by
  unfold padZoneIf
  repeat' with_reducible first
    | assumption | exact Keeps.refl _ | refine Keeps.ite ?_ ?_ | (refine Keeps.app ?_ ?_; focus (simp; done))
    | simp only [Keeps.upd] | split

@[simp] theorem padConvIf_keeps (ask : Stored → Bool) (i : Nat) (s : State) : Keeps s (padConvIf ask i s) := by
  unfold padConvIf
  repeat' with_reducible first
    | assumption | exact Keeps.refl _
    | (intro x; refine (fun (hx : Keeps s x) => ?_) ?_; clear_value x; rotate_left; simp only [x]; clear x)
    | (intro (x : Dmc); simp only [x]; clear x) | (intro (x : Cfl); simp only [x]; clear x)
    | (intro (x : Slt); simp only [x]; clear x) | (intro x; clear_value x) | intro _ | lift_lets
    | refine Keeps.ite ?_ ?_ | (refine Keeps.app ?_ ?_; focus (simp; done)) | simp only [Keeps.upd]
    | refine Keeps.foldl ?_ ?_ | split

@[simp] theorem padInstIf_keeps (ask : Stored → Bool) (i : Nat) (s : State) : Keeps s (padInstIf ask i s) := by
  unfold padInstIf
  repeat' with_reducible first
    | assumption | exact Keeps.refl _
    | (intro x; refine (fun (hx : Keeps s x) => ?_) ?_; clear_value x; rotate_left; simp only [x]; clear x)
    | (intro (x : Dmc); simp only [x]; clear x) | (intro (x : Cfl); simp only [x]; clear x)
    | (intro (x : Slt); simp only [x]; clear x) | (intro x; clear_value x) | intro _ | lift_lets
    | refine Keeps.ite ?_ ?_ | (refine Keeps.app ?_ ?_; focus (simp; done)) | simp only [Keeps.upd]
    | refine Keeps.foldl ?_ ?_ | split

@[simp] theorem padZone_keeps (i z : Nat) (s : State) : Keeps s (padZone i z s) := by
  unfold padZone
  repeat' with_reducible first
    | assumption | exact Keeps.refl _ | refine Keeps.ite ?_ ?_ | (refine Keeps.app ?_ ?_; focus (simp; done))
    | simp only [Keeps.upd] | split

@[simp] theorem padInst_keeps (i : Nat) (s : State) : Keeps s (padInst i s) := by
  unfold padInst
  repeat' with_reducible first
    | assumption | exact Keeps.refl _
    | (intro x; refine (fun (hx : Keeps s x) => ?_) ?_; clear_value x; rotate_left; simp only [x]; clear x)
    | (intro (x : Dmc); simp only [x]; clear x) | (intro (x : Cfl); simp only [x]; clear x)
    | (intro (x : Slt); simp only [x]; clear x) | (intro x; clear_value x) | intro _ | lift_lets
    | refine Keeps.ite ?_ ?_ | (refine Keeps.app ?_ ?_; focus (simp; done)) | simp only [Keeps.upd]
    | refine Keeps.foldl ?_ ?_ | split

@[simp] theorem padFlush_keeps (i : Nat) (t : Task) (s : State) : Keeps s (padFlush i t s) := by
  unfold padFlush
  repeat' with_reducible first
    | assumption | exact Keeps.refl _ | refine Keeps.ite ?_ ?_ | (refine Keeps.app ?_ ?_; focus (simp; done))
    | simp only [Keeps.upd] | split

@[simp] theorem checkPreserve_keeps (s : State) : Keeps s (checkPreserve s) := by
  unfold checkPreserve
  repeat' with_reducible first
    | assumption | exact Keeps.refl _ | refine Keeps.ite ?_ ?_ | (refine Keeps.app ?_ ?_; focus (simp; done))
    | simp only [Keeps.upd] | split

@[simp] theorem freeBlock_keeps (d b : Nat) (s : State) : Keeps s (freeBlock d b s) := by
  unfold freeBlock
  repeat' with_reducible first
    | assumption | exact Keeps.refl _ | refine Keeps.ite ?_ ?_ | (refine Keeps.app ?_ ?_; focus (simp; done))
    | simp only [Keeps.upd] | split

@[simp] theorem releaseSb_keeps (n : Nat) (s : State) : Keeps s (releaseSb n s) := by
  unfold releaseSb
  repeat' with_reducible first
    | assumption | exact Keeps.refl _
    | (intro x; refine (fun (hx : Keeps s x) => ?_) ?_; clear_value x; rotate_left; simp only [x]; clear x)
    | (intro (x : Dmc); simp only [x]; clear x) | (intro (x : Cfl); simp only [x]; clear x)
    | (intro (x : Slt); simp only [x]; clear x) | (intro x; clear_value x) | intro _ | lift_lets
    | refine Keeps.ite ?_ ?_ | (refine Keeps.app ?_ ?_; focus (simp; done)) | simp only [Keeps.upd]
    | refine Keeps.foldl ?_ ?_ | split

@[simp] theorem releaseDead_keeps (i : Nat) (s : State) : Keeps s (releaseDead i s) := by
  unfold releaseDead
  repeat' with_reducible first
    | assumption | exact Keeps.refl _
    | (intro x; refine (fun (hx : Keeps s x) => ?_) ?_; clear_value x; rotate_left; simp only [x]; clear x)
    | (intro (x : Dmc); simp only [x]; clear x) | (intro (x : Cfl); simp only [x]; clear x)
    | (intro (x : Slt); simp only [x]; clear x) | (intro x; clear_value x) | intro _ | lift_lets
    | refine Keeps.ite ?_ ?_ | (refine Keeps.app ?_ ?_; focus (simp; done)) | simp only [Keeps.upd]
    | refine Keeps.foldl ?_ ?_ | split

@[simp] theorem holdFlash_keeps (i z : Nat) (s : State) : Keeps s (holdFlash i z s) := by
  unfold holdFlash
  repeat' with_reducible first
    | assumption | exact Keeps.refl _
    | (intro x; refine (fun (hx : Keeps s x) => ?_) ?_; clear_value x; rotate_left; simp only [x]; clear x)
    | (intro (x : Dmc); simp only [x]; clear x) | (intro (x : Cfl); simp only [x]; clear x)
    | (intro (x : Slt); simp only [x]; clear x) | (intro x; clear_value x) | intro _ | lift_lets
    | refine Keeps.ite ?_ ?_ | (refine Keeps.app ?_ ?_; focus (simp; done)) | simp only [Keeps.upd]
    | refine Keeps.foldl ?_ ?_ | split

@[simp] theorem tallyRead_keeps (r : ReadReq) (n : Nat) (s : State) : Keeps s (tallyRead r n s) := by
  unfold tallyRead
  repeat' with_reducible first
    | assumption | exact Keeps.refl _ | refine Keeps.ite ?_ ?_ | (refine Keeps.app ?_ ?_; focus (simp; done))
    | simp only [Keeps.upd] | split

@[simp] theorem suspendFor_keeps (d : Nat) (r : ReadReq) (s : State) : Keeps s (suspendFor d r s) := by
  unfold suspendFor
  repeat' with_reducible first
    | assumption | exact Keeps.refl _ | refine Keeps.ite ?_ ?_ | (refine Keeps.app ?_ ?_; focus (simp; done))
    | simp only [Keeps.upd] | split

@[simp] theorem memberRead_keeps (d : Nat) (r : ReadReq) (s : State) : Keeps s (memberRead d r s) := by
  unfold memberRead
  repeat' with_reducible first
    | assumption | exact Keeps.refl _ | refine Keeps.ite ?_ ?_ | (refine Keeps.app ?_ ?_; focus (simp; done))
    | simp only [Keeps.upd] | split

@[simp] theorem dropReads_keeps (r : ReadReq) (s : State) : Keeps s (dropReads r s) := by
  unfold dropReads
  simp [Keeps.upd]

@[simp] theorem enqueue_keeps (d : Nat) (r : ReadReq) (s : State) : Keeps s (enqueue d r s) := by
  unfold enqueue
  simp [Keeps.upd]

@[simp] theorem setNeed_keeps (r : ReadReq) (die n : Nat) (s : State) : Keeps s (setNeed r die n s) := by
  unfold setNeed
  repeat' with_reducible first
    | assumption | exact Keeps.refl _ | refine Keeps.ite ?_ ?_ | (refine Keeps.app ?_ ?_; focus (simp; done))
    | simp only [Keeps.upd] | split

@[simp] theorem reconstruct_keeps (r : ReadReq) (pl : Nat × Nat) (s : State) : Keeps s (reconstruct r pl s) := by
  unfold reconstruct
  repeat' with_reducible first
    | assumption | exact Keeps.refl _
    | (intro x; refine (fun (hx : Keeps s x) => ?_) ?_; clear_value x; rotate_left; simp only [x]; clear x)
    | (intro (x : Dmc); simp only [x]; clear x) | (intro (x : Cfl); simp only [x]; clear x)
    | (intro (x : Slt); simp only [x]; clear x) | (intro x; clear_value x) | intro _ | lift_lets
    | refine Keeps.ite ?_ ?_ | (refine Keeps.app ?_ ?_; focus (simp; done)) | simp only [Keeps.upd]
    | refine Keeps.foldl ?_ ?_ | split

@[simp] theorem aroundRead_keeps (d : Nat) (r : ReadReq) (s : State) : Keeps s (aroundRead d r s) := by
  unfold aroundRead
  repeat' with_reducible first
    | assumption | exact Keeps.refl _ | refine Keeps.ite ?_ ?_ | (refine Keeps.app ?_ ?_; focus (simp; done))
    | simp only [Keeps.upd] | split

@[simp] theorem headReached_keeps (r : ReadReq) (s : State) : Keeps s (headReached r s) := by
  unfold headReached
  simp [Keeps.upd]

@[simp] theorem readAround_keeps (d : Nat) (s : State) : Keeps s (readAround d s) := by
  unfold readAround
  repeat' with_reducible first
    | assumption | exact Keeps.refl _
    | (intro x; refine (fun (hx : Keeps s x) => ?_) ?_; clear_value x; rotate_left; simp only [x]; clear x)
    | (intro (x : Dmc); simp only [x]; clear x) | (intro (x : Cfl); simp only [x]; clear x)
    | (intro (x : Slt); simp only [x]; clear x) | (intro x; clear_value x) | intro _ | lift_lets
    | refine Keeps.ite ?_ ?_ | (refine Keeps.app ?_ ?_; focus (simp; done)) | simp only [Keeps.upd]
    | refine Keeps.foldl ?_ ?_ | split

@[simp] theorem poisonBlock_keeps (k : BlkKey) (die : Nat) (s : State) : Keeps s (poisonBlock k die s) := by
  unfold poisonBlock
  repeat' with_reducible first
    | assumption | exact Keeps.refl _ | refine Keeps.ite ?_ ?_ | (refine Keeps.app ?_ ?_; focus (simp; done))
    | simp only [Keeps.upd] | split

@[simp] theorem startCopy_keeps (n : Nat) (s : State) : Keeps s (startCopy n s) := by
  unfold startCopy
  repeat' with_reducible first
    | assumption | exact Keeps.refl _ | refine Keeps.ite ?_ ?_ | (refine Keeps.app ?_ ?_; focus (simp; done))
    | simp only [Keeps.upd] | split

@[simp] theorem itemRead_keeps (n ix : Nat) (s : State) : Keeps s (itemRead n ix s) := by
  unfold itemRead
  repeat' with_reducible first
    | assumption | exact Keeps.refl _ | refine Keeps.ite ?_ ?_ | (refine Keeps.app ?_ ?_; focus (simp; done))
    | simp only [Keeps.upd] | split

@[simp] theorem readLost_keeps (r : ReadReq) (s : State) : Keeps s (readLost r s) := by
  unfold readLost
  repeat' with_reducible first
    | assumption | exact Keeps.refl _ | refine Keeps.ite ?_ ?_ | (refine Keeps.app ?_ ?_; focus (simp; done))
    | simp only [Keeps.upd] | split

@[simp] theorem setDirect_keeps (r : ReadReq) (d : Nat) (s : State) : Keeps s (setDirect r d s) := by
  unfold setDirect
  repeat' with_reducible first
    | assumption | exact Keeps.refl _ | refine Keeps.ite ?_ ?_ | (refine Keeps.app ?_ ?_; focus (simp; done))
    | simp only [Keeps.upd] | split

@[simp] theorem directRead_keeps (r : ReadReq) (pl : Nat × Nat) (s : State) : Keeps s (directRead r pl s) := by
  unfold directRead
  repeat' with_reducible first
    | assumption | exact Keeps.refl _ | refine Keeps.ite ?_ ?_ | (refine Keeps.app ?_ ?_; focus (simp; done))
    | simp only [Keeps.upd] | split

@[simp] theorem startBlock_keeps (r : ReadReq) (pl : Nat × Nat) (s : State) : Keeps s (startBlock r pl s) := by
  unfold startBlock
  repeat' with_reducible first
    | assumption | exact Keeps.refl _ | refine Keeps.ite ?_ ?_ | (refine Keeps.app ?_ ?_; focus (simp; done))
    | simp only [Keeps.upd] | split

@[simp] theorem queueRead_keeps (i slot b : Nat) (t : Task) (pl : Nat × Nat) (s : State) :
    Keeps s (queueRead i slot b t pl s) := by
  unfold queueRead
  repeat' with_reducible first
    | assumption | exact Keeps.refl _ | refine Keeps.ite ?_ ?_ | (refine Keeps.app ?_ ?_; focus (simp; done))
    | simp only [Keeps.upd] | split

@[simp] theorem serveTwin_keeps (i slot b half : Nat) (harm : Option Harm) (t : Nat × Nat) (s : State) :
    Keeps s (serveTwin i slot b half harm t s) := by
  unfold serveTwin
  repeat' with_reducible first
    | assumption | exact Keeps.refl _ | refine Keeps.ite ?_ ?_ | (refine Keeps.app ?_ ?_; focus (simp; done))
    | simp only [Keeps.upd] | split

@[simp] theorem lookBlock_keeps (i slot : Nat) (t : Task) (s : State) (b : Nat) :
    Keeps s (lookBlock i slot t s b) := by
  unfold lookBlock
  repeat' with_reducible first
    | assumption | exact Keeps.refl _ | refine Keeps.ite ?_ ?_ | (refine Keeps.app ?_ ?_; focus (simp; done))
    | simp only [Keeps.upd] | split

@[simp] theorem startRead_keeps (i slot : Nat) (s : State) : Keeps s (startRead i slot s) := by
  unfold startRead
  split
  · exact Keeps.refl s
  · exact Keeps.foldl ((modTask_keeps ..).trans (finishRead_keeps ..)) fun x a h => h.trans (lookBlock_keeps _ _ _ x a)

@[simp] theorem startItem_keeps (n ix : Nat) (s : State) : Keeps s (startItem n ix s) := by
  unfold startItem
  repeat' with_reducible first
    | assumption | exact Keeps.refl _ | refine Keeps.ite ?_ ?_ | (refine Keeps.app ?_ ?_; focus (simp; done))
    | simp only [Keeps.upd] | simp only [KeepsO.some, KeepsO.none] | refine KeepsO.ite ?_ ?_ | split
    | focus (simp; done)

@[simp] theorem copyJob_keeps (kind : ProgKind) (bundle : Option Nat) (blks : List (BlkKey × Stored)) (ds : DieSet) (slc staging : Bool) (s : State) :
    Keeps s (copyJob kind bundle blks ds slc staging s) := by
  unfold copyJob
  repeat' with_reducible first
    | assumption | exact Keeps.refl _
    | (intro x; refine (fun (hx : Keeps s x) => ?_) ?_; clear_value x; rotate_left; simp only [x]; clear x)
    | (intro x; refine (fun (hx : KeepsO s x) => ?_) ?_; clear_value x; rotate_left; simp only [x]; clear x)
    | (intro x; refine (fun (hx : KeepsR s x) => ?_) ?_; clear_value x; rotate_left; simp only [x]; clear x)
    | (intro x; refine (fun (hx : Keeps s x.2) => ?_) ?_; clear_value x; rotate_left; simp only [x]; clear x)
    | (intro x; refine (fun (hx : Keeps s x.1) => ?_) ?_; clear_value x; rotate_left; simp only [x]; clear x)
    | (intro (x : Obs); simp only [x]; clear x) | (intro (x : Dmc); simp only [x]; clear x)
    | (intro (x : Cfl); simp only [x]; clear x) | (intro (x : Slt); simp only [x]; clear x)
    | (intro x; clear_value x) | intro (_ : Keeps _ _) | (intro x; simp only [x]; clear x) | intro _ | lift_lets
    | refine Keeps.ite ?_ ?_ | (refine Keeps.app ?_ ?_; focus (simp; done)) | simp only [Keeps.upd, Keeps.updObs]
    | refine Keeps.forInsts ?_ ?_ | refine Keeps.forHeld ?_ ?_ | refine Keeps.foldl ?_ ?_
    | refine Keeps.foldl2 ?_ ?_ | refine Keeps.foldl1 ?_ ?_ | (refine Keeps.app2 ?_ ?_; focus (simp; done))
    | (refine Keeps.app1 ?_ ?_; focus (simp; done)) | dsimp only
    | simp only [KeepsO.some, KeepsO.none, KeepsR.ok, KeepsR.error, KeepsP.some] | refine KeepsO.ite ?_ ?_
    | refine KeepsR.ite ?_ ?_ | refine KeepsP.ite ?_ ?_ | split
    | (refine Keeps.snd (by assumption) ?_ ?_; rotate_left; focus (simp; done))
    | (refine Keeps.fst (by assumption) ?_ ?_; rotate_left; focus (simp; done))
    | (refine KeepsO.of (by assumption) ?_ ?_; rotate_left; focus (simp; done))
    | (refine KeepsP.of (by assumption) ?_ ?_; rotate_left; focus (simp; done)) | focus (simp; done)
    | (refine KeepsR.app ?_ ?_; focus (simp; done))
    | (refine KeepsR.of_ok (by assumption) ?_ ?_; rotate_left; focus (simp; done))
    | (refine KeepsR.of_error (by assumption) ?_ ?_; rotate_left; focus (simp; done))

@[simp] theorem copyTo_keeps (kind : ProgKind) (blks : List (BlkKey × Stored)) (ds : DieSet) (slc : Bool) (s : State) :
    Keeps s (copyTo kind blks ds slc s) := by
  unfold copyTo
  repeat' with_reducible first
    | assumption | exact Keeps.refl _
    | (intro x; refine (fun (hx : Keeps s x) => ?_) ?_; clear_value x; rotate_left; simp only [x]; clear x)
    | (intro (x : Dmc); simp only [x]; clear x) | (intro (x : Cfl); simp only [x]; clear x)
    | (intro (x : Slt); simp only [x]; clear x) | (intro x; clear_value x) | intro _ | lift_lets
    | refine Keeps.ite ?_ ?_ | (refine Keeps.app ?_ ?_; focus (simp; done)) | simp only [Keeps.upd]
    | refine Keeps.foldl ?_ ?_ | split

@[simp] theorem foldZone_keeps (i z : Nat) (s : State) : Keeps s (foldZone i z s) := by
  unfold foldZone
  repeat' with_reducible first
    | assumption | exact Keeps.refl _ | refine Keeps.ite ?_ ?_ | (refine Keeps.app ?_ ?_; focus (simp; done))
    | simp only [Keeps.upd] | split

@[simp] theorem rejoinZone_keeps (i z : Nat) (s : State) : Keeps s (rejoinZone i z s) := by
  unfold rejoinZone
  repeat' with_reducible first
    | assumption | exact Keeps.refl _ | refine Keeps.ite ?_ ?_ | (refine Keeps.app ?_ ?_; focus (simp; done))
    | simp only [Keeps.upd] | split

@[simp] theorem endFold_keeps (i z : Nat) (s : State) : Keeps s (endFold i z s) := by
  unfold endFold
  repeat' with_reducible first
    | assumption | exact Keeps.refl _
    | (intro x; refine (fun (hx : Keeps s x) => ?_) ?_; clear_value x; rotate_left; simp only [x]; clear x)
    | (intro (x : Dmc); simp only [x]; clear x) | (intro (x : Cfl); simp only [x]; clear x)
    | (intro (x : Slt); simp only [x]; clear x) | (intro x; clear_value x) | intro _ | lift_lets
    | refine Keeps.ite ?_ ?_ | (refine Keeps.app ?_ ?_; focus (simp; done)) | simp only [Keeps.upd]
    | refine Keeps.foldl ?_ ?_ | split

@[simp] theorem gcSet_keeps (ds : DieSet) (s : State) : Keeps s (gcSet ds s) := by
  unfold gcSet
  repeat' with_reducible first
    | assumption | exact Keeps.refl _ | refine Keeps.ite ?_ ?_ | (refine Keeps.app ?_ ?_; focus (simp; done))
    | simp only [Keeps.upd] | split

@[simp] theorem wearSet_keeps (ds : DieSet) (s : State) : Keeps s (wearSet ds s) := by
  unfold wearSet
  repeat' with_reducible first
    | assumption | exact Keeps.refl _ | refine Keeps.ite ?_ ?_ | (refine Keeps.app ?_ ?_; focus (simp; done))
    | simp only [Keeps.upd] | split

@[simp] theorem refreshPage_keeps (k : BlkKey) (s : State) : Keeps s (refreshPage k s) := by
  unfold refreshPage
  repeat' with_reducible first
    | assumption | exact Keeps.refl _ | refine Keeps.ite ?_ ?_ | (refine Keeps.app ?_ ?_; focus (simp; done))
    | simp only [Keeps.upd] | split

@[simp] theorem refreshWaiting_keeps (s : State) : Keeps s (refreshWaiting s) := by
  unfold refreshWaiting
  repeat' with_reducible first
    | assumption | exact Keeps.refl _
    | (intro x; refine (fun (hx : Keeps s x) => ?_) ?_; clear_value x; rotate_left; simp only [x]; clear x)
    | (intro (x : Dmc); simp only [x]; clear x) | (intro (x : Cfl); simp only [x]; clear x)
    | (intro (x : Slt); simp only [x]; clear x) | (intro x; clear_value x) | intro _ | lift_lets
    | refine Keeps.ite ?_ ?_ | (refine Keeps.app ?_ ?_; focus (simp; done)) | simp only [Keeps.upd]
    | refine Keeps.foldl ?_ ?_ | split

@[simp] theorem replaceMember_keeps (lost n : Nat) (s : State) : Keeps s (replaceMember lost n s).1 := by
  unfold replaceMember
  repeat' with_reducible first
    | assumption | exact Keeps.refl _ | refine Keeps.ite ?_ ?_ | (refine Keeps.app ?_ ?_; focus (simp; done))
    | simp only [Keeps.upd] | split

@[simp] theorem replaceInSets_keeps (lost : Nat) (s : State) : Keeps s (replaceInSets lost s) := by
  unfold replaceInSets
  repeat' with_reducible first
    | assumption | exact Keeps.refl _
    | (intro x; refine (fun (hx : Keeps s x) => ?_) ?_; clear_value x; rotate_left; simp only [x]; clear x)
    | (intro (x : Dmc); simp only [x]; clear x) | (intro (x : Cfl); simp only [x]; clear x)
    | (intro (x : Slt); simp only [x]; clear x) | (intro x; clear_value x) | intro _ | lift_lets
    | refine Keeps.ite ?_ ?_ | (refine Keeps.app ?_ ?_; focus (simp; done)) | simp only [Keeps.upd]
    | refine Keeps.foldl ?_ ?_ | split

@[simp] theorem moveZone_keeps (i z : Nat) (st : ZState) (s : State) : Keeps s (moveZone i z st s) := by
  unfold moveZone
  repeat' with_reducible first
    | assumption | exact Keeps.refl _ | refine Keeps.ite ?_ ?_ | (refine Keeps.app ?_ ?_; focus (simp; done))
    | simp only [Keeps.upd] | split

@[simp] theorem zonesReadOnly_keeps (s : State) : Keeps s (zonesReadOnly s) := by
  unfold zonesReadOnly
  repeat' with_reducible first
    | assumption | exact Keeps.refl _
    | (intro x; refine (fun (hx : Keeps s x) => ?_) ?_; clear_value x; rotate_left; simp only [x]; clear x)
    | (intro (x : Dmc); simp only [x]; clear x) | (intro (x : Cfl); simp only [x]; clear x)
    | (intro (x : Slt); simp only [x]; clear x) | (intro x; clear_value x) | intro _ | lift_lets
    | refine Keeps.ite ?_ ?_ | (refine Keeps.app ?_ ?_; focus (simp; done)) | simp only [Keeps.upd]
    | refine Keeps.foldl ?_ ?_ | split

@[simp] theorem rerouteReads_keeps (d : Nat) (s : State) : Keeps s (rerouteReads d s) := by
  unfold rerouteReads
  repeat' with_reducible first
    | assumption | exact Keeps.refl _
    | (intro x; refine (fun (hx : Keeps s x) => ?_) ?_; clear_value x; rotate_left; simp only [x]; clear x)
    | (intro (x : Dmc); simp only [x]; clear x) | (intro (x : Cfl); simp only [x]; clear x)
    | (intro (x : Slt); simp only [x]; clear x) | (intro x; clear_value x) | intro _ | lift_lets
    | refine Keeps.ite ?_ ?_ | (refine Keeps.app ?_ ?_; focus (simp; done)) | simp only [Keeps.upd]
    | refine Keeps.foldl ?_ ?_ | split

@[simp] theorem dropDie_keeps (d : Nat) (s : State) : Keeps s (dropDie d s) := by
  unfold dropDie
  repeat' with_reducible first
    | assumption | exact Keeps.refl _
    | (intro x; refine (fun (hx : Keeps s x) => ?_) ?_; clear_value x; rotate_left; simp only [x]; clear x)
    | (intro x; refine (fun (hx : KeepsO s x) => ?_) ?_; clear_value x; rotate_left; simp only [x]; clear x)
    | (intro x; refine (fun (hx : KeepsR s x) => ?_) ?_; clear_value x; rotate_left; simp only [x]; clear x)
    | (intro x; refine (fun (hx : Keeps s x.2) => ?_) ?_; clear_value x; rotate_left; simp only [x]; clear x)
    | (intro x; refine (fun (hx : Keeps s x.1) => ?_) ?_; clear_value x; rotate_left; simp only [x]; clear x)
    | (intro (x : Obs); simp only [x]; clear x) | (intro (x : Dmc); simp only [x]; clear x)
    | (intro (x : Cfl); simp only [x]; clear x) | (intro (x : Slt); simp only [x]; clear x)
    | (intro x; clear_value x) | intro (_ : Keeps _ _) | (intro x; simp only [x]; clear x) | intro _ | lift_lets
    | refine Keeps.ite ?_ ?_ | (refine Keeps.app ?_ ?_; focus (simp; done)) | simp only [Keeps.upd, Keeps.updObs]
    | refine Keeps.forInsts ?_ ?_ | refine Keeps.forHeld ?_ ?_ | refine Keeps.foldl ?_ ?_
    | refine Keeps.foldl2 ?_ ?_ | refine Keeps.foldl1 ?_ ?_ | (refine Keeps.app2 ?_ ?_; focus (simp; done))
    | (refine Keeps.app1 ?_ ?_; focus (simp; done)) | dsimp only
    | simp only [KeepsO.some, KeepsO.none, KeepsR.ok, KeepsR.error, KeepsP.some] | refine KeepsO.ite ?_ ?_
    | refine KeepsR.ite ?_ ?_ | refine KeepsP.ite ?_ ?_ | split
    | (refine Keeps.snd (by assumption) ?_ ?_; rotate_left; focus (simp; done))
    | (refine Keeps.fst (by assumption) ?_ ?_; rotate_left; focus (simp; done))
    | (refine KeepsO.of (by assumption) ?_ ?_; rotate_left; focus (simp; done))
    | (refine KeepsP.of (by assumption) ?_ ?_; rotate_left; focus (simp; done)) | focus (simp; done)
    | (refine KeepsR.app ?_ ?_; focus (simp; done))
    | (refine KeepsR.of_ok (by assumption) ?_ ?_; rotate_left; focus (simp; done))
    | (refine KeepsR.of_error (by assumption) ?_ ?_; rotate_left; focus (simp; done))

@[simp] theorem loseDie_keeps (d : Nat) (s : State) : Keeps s (loseDie d s) := by
  unfold loseDie
  repeat' with_reducible first
    | assumption | exact Keeps.refl _ | refine Keeps.ite ?_ ?_ | (refine Keeps.app ?_ ?_; focus (simp; done))
    | simp only [Keeps.upd] | split

@[simp] theorem loseChannel_keeps (ch : Nat) (s : State) : Keeps s (loseChannel ch s) := by
  unfold loseChannel
  repeat' with_reducible first
    | assumption | exact Keeps.refl _
    | (intro x; refine (fun (hx : Keeps s x) => ?_) ?_; clear_value x; rotate_left; simp only [x]; clear x)
    | (intro (x : Dmc); simp only [x]; clear x) | (intro (x : Cfl); simp only [x]; clear x)
    | (intro (x : Slt); simp only [x]; clear x) | (intro x; clear_value x) | intro _ | lift_lets
    | refine Keeps.ite ?_ ?_ | (refine Keeps.app ?_ ?_; focus (simp; done)) | simp only [Keeps.upd]
    | refine Keeps.foldl ?_ ?_ | split

end Sys2Proof.Laws
end

