-- ==== Sys2Proof/Laws/KeepsKeys.lean ====
section
/-! SUPPORT. What the operations of Machine/Keys.lean keep. -/

namespace Sys2Proof.Laws

open Sys2Proof Sys2Proof.Machine Sys2Proof.Safety

set_option linter.unusedTactic false
set_option linter.unreachableTactic false
set_option linter.unusedSimpArgs false

@[simp] theorem rekey_keeps (i kind : Nat) (s : State) : Keeps s (rekey i kind s) := by
  unfold rekey
  repeat' with_reducible first
    | assumption | exact Keeps.refl _ | refine Keeps.ite ?_ ?_ | (refine Keeps.app ?_ ?_; focus (simp; done))
    | simp only [Keeps.upd] | split

@[simp] theorem reloadKeys_keeps (s : State) : Keeps s (reloadKeys s) := by
  unfold reloadKeys
  repeat' with_reducible first
    | assumption | exact Keeps.refl _ | refine Keeps.ite ?_ ?_ | (refine Keeps.app ?_ ?_; focus (simp; done))
    | simp only [Keeps.upd] | split

@[simp] theorem rekeyPrev_keeps (i kind : Nat) (s : State) : Keeps s (rekeyPrev i kind s) := by
  unfold rekeyPrev
  repeat' with_reducible first
    | assumption | exact Keeps.refl _ | refine Keeps.ite ?_ ?_ | (refine Keeps.app ?_ ?_; focus (simp; done))
    | simp only [Keeps.upd] | split

@[simp] theorem acceptCounter_keeps (i gen counter : Nat) (s : State) : Keeps s (acceptCounter i gen counter s) := by
  unfold acceptCounter
  repeat' with_reducible first
    | assumption | exact Keeps.refl _ | refine Keeps.ite ?_ ?_ | (refine Keeps.app ?_ ?_; focus (simp; done))
    | simp only [Keeps.upd] | split

@[simp] theorem installKey_keeps (i : Nat) (key : BitVec 256) (byRotate : Bool) (s : State) :
    Keeps s (installKey i key byRotate s) := by
  unfold installKey
  repeat' with_reducible first
    | assumption | exact Keeps.refl _ | refine Keeps.ite ?_ ?_ | (refine Keeps.app ?_ ?_; focus (simp; done))
    | simp only [Keeps.upd] | split

@[simp] theorem countAuthFail_keeps (s : State) : Keeps s (countAuthFail s) := by
  unfold countAuthFail
  repeat' with_reducible first
    | assumption | exact Keeps.refl _ | refine Keeps.ite ?_ ?_ | (refine Keeps.app ?_ ?_; focus (simp; done))
    | simp only [Keeps.upd] | split

@[simp] theorem sealFail_keeps (purpose inst : Nat) (s : State) : Keeps s (sealFail purpose inst s) := by
  unfold sealFail
  repeat' with_reducible first
    | assumption | exact Keeps.refl _ | refine Keeps.ite ?_ ?_ | (refine Keeps.app ?_ ?_; focus (simp; done))
    | simp only [Keeps.upd] | split

@[simp] theorem tagFail_keeps (s : State) : Keeps s (tagFail s) := by
  unfold tagFail
  repeat' with_reducible first
    | assumption | exact Keeps.refl _ | refine Keeps.ite ?_ ?_ | (refine Keeps.app ?_ ?_; focus (simp; done))
    | simp only [Keeps.upd] | split

end Sys2Proof.Laws
end

