-- ==== Sys2Proof/Laws/KeepsPools.lean ====
section
/-! SUPPORT. What the operations of Machine/Pools.lean keep. -/

namespace Sys2Proof.Laws

open Sys2Proof Sys2Proof.Machine Sys2Proof.Safety

set_option linter.unusedTactic false
set_option linter.unreachableTactic false
set_option linter.unusedSimpArgs false

@[simp] theorem freeLanding_keeps (l : List (U32 × Up × Land)) (s : State) : Keeps s (freeLanding l s) := by
  unfold freeLanding
  repeat' with_reducible first
    | assumption | exact Keeps.refl _
    | (intro x; refine (fun (hx : Keeps s x) => ?_) ?_; clear_value x; rotate_left; simp only [x]; clear x)
    | (intro (x : Dmc); simp only [x]; clear x) | (intro (x : Cfl); simp only [x]; clear x)
    | (intro (x : Slt); simp only [x]; clear x) | (intro x; clear_value x) | intro _ | lift_lets
    | refine Keeps.ite ?_ ?_ | (refine Keeps.app ?_ ?_; focus (simp; done)) | simp only [Keeps.upd]
    | refine Keeps.foldl ?_ ?_ | split

end Sys2Proof.Laws
end

