-- ==== Sys2Proof/Laws/KeepsLinks.lean ====
section
/-! SUPPORT. What the operations of Machine/Links.lean keep. -/

namespace Sys2Proof.Laws

open Sys2Proof Sys2Proof.Machine Sys2Proof.Safety

set_option linter.unusedTactic false
set_option linter.unreachableTactic false
set_option linter.unusedSimpArgs false

@[simp] theorem notifyLink_keeps (ev l : Nat) (s : State) : Keeps s (notifyLink ev l s) := by
  unfold notifyLink
  repeat' with_reducible first
    | assumption | exact Keeps.refl _ | intro _ | refine Keeps.ite ?_ ?_
    | (refine Keeps.app ?_ ?_; focus (simp; done)) | simp only [Keeps.upd] | refine Keeps.forInsts ?_ ?_
    | refine Keeps.foldl ?_ ?_ | split

@[simp] theorem loseLink_keeps (l : Nat) (s : State) : Keeps s (loseLink l s) := by
  unfold loseLink
  repeat' with_reducible first
    | assumption | exact Keeps.refl _ | intro _ | refine Keeps.ite ?_ ?_
    | (refine Keeps.app ?_ ?_; focus (simp; done)) | simp only [Keeps.upd] | refine Keeps.forInsts ?_ ?_
    | refine Keeps.foldl ?_ ?_ | split

@[simp] theorem darkenPort_keeps (p : Nat) (s : State) : Keeps s (darkenPort p s) := by
  unfold darkenPort
  repeat' with_reducible first
    | assumption | exact Keeps.refl _
    | (intro x; refine (fun (hx : Keeps s x) => ?_) ?_; clear_value x; rotate_left; simp only [x]; clear x)
    | (intro (x : Dmc); simp only [x]; clear x) | (intro (x : Cfl); simp only [x]; clear x)
    | (intro (x : Slt); simp only [x]; clear x) | (intro x; clear_value x) | intro _ | lift_lets
    | refine Keeps.ite ?_ ?_ | (refine Keeps.app ?_ ?_; focus (simp; done)) | simp only [Keeps.upd]
    | refine Keeps.foldl ?_ ?_ | split

@[simp] theorem portFails_keeps (p : Nat) (clock : Bool) (s : State) : Keeps s (portFails p clock s) := by
  unfold portFails
  repeat' with_reducible first
    | assumption | exact Keeps.refl _ | refine Keeps.ite ?_ ?_ | (refine Keeps.app ?_ ?_; focus (simp; done))
    | simp only [Keeps.upd] | split

@[simp] theorem linkDown_keeps (l : Nat) (s : State) : Keeps s (linkDown l s) := by
  unfold linkDown
  repeat' with_reducible first
    | assumption | exact Keeps.refl _ | refine Keeps.ite ?_ ?_ | (refine Keeps.app ?_ ?_; focus (simp; done))
    | simp only [Keeps.upd] | split

@[simp] theorem portReturns_keeps (p : Nat) (s : State) : Keeps s (portReturns p s) := by
  unfold portReturns
  repeat' with_reducible first
    | assumption | exact Keeps.refl _
    | (intro x; refine (fun (hx : Keeps s x) => ?_) ?_; clear_value x; rotate_left; simp only [x]; clear x)
    | (intro (x : Dmc); simp only [x]; clear x) | (intro (x : Cfl); simp only [x]; clear x)
    | (intro (x : Slt); simp only [x]; clear x) | (intro x; clear_value x) | intro _ | lift_lets
    | refine Keeps.ite ?_ ?_ | (refine Keeps.app ?_ ?_; focus (simp; done)) | simp only [Keeps.upd]
    | refine Keeps.foldl ?_ ?_ | split

@[simp] theorem linkReturns_keeps (l : Nat) (s : State) : Keeps s (linkReturns l s) := by
  unfold linkReturns
  repeat' with_reducible first
    | assumption | exact Keeps.refl _ | refine Keeps.ite ?_ ?_ | (refine Keeps.app ?_ ?_; focus (simp; done))
    | simp only [Keeps.upd] | split

@[simp] theorem trainPorts_keeps (s : State) : Keeps s (trainPorts s) := by
  unfold trainPorts
  simp [Keeps.upd]

@[simp] theorem sendPause_keeps (p : Nat) (xoff : Bool) (s : State) : Keeps s (sendPause p xoff s) := by
  unfold sendPause
  repeat' with_reducible first
    | assumption | exact Keeps.refl _
    | (intro x; refine (fun (hx : Keeps s x) => ?_) ?_; clear_value x; rotate_left; simp only [x]; clear x)
    | (intro (x : Dmc); simp only [x]; clear x) | (intro (x : Cfl); simp only [x]; clear x)
    | (intro (x : Slt); simp only [x]; clear x) | (intro x; clear_value x) | intro _ | lift_lets
    | refine Keeps.ite ?_ ?_ | (refine Keeps.app ?_ ?_; focus (simp; done)) | simp only [Keeps.upd]
    | refine Keeps.foldl ?_ ?_ | split

@[simp] theorem flowControl_keeps (p : Nat) (s : State) : Keeps s (flowControl p s) := by
  unfold flowControl
  repeat' with_reducible first
    | assumption | exact Keeps.refl _ | refine Keeps.ite ?_ ?_ | (refine Keeps.app ?_ ?_; focus (simp; done))
    | simp only [Keeps.upd] | split

@[simp] theorem flushPaused_keeps (l : Nat) (s : State) : Keeps s (flushPaused l s) := by
  unfold flushPaused
  repeat' with_reducible first
    | assumption | exact Keeps.refl _
    | (intro x; refine (fun (hx : Keeps s x) => ?_) ?_; clear_value x; rotate_left; simp only [x]; clear x)
    | (intro (x : Dmc); simp only [x]; clear x) | (intro (x : Cfl); simp only [x]; clear x)
    | (intro (x : Slt); simp only [x]; clear x) | (intro x; clear_value x) | intro _ | lift_lets
    | refine Keeps.ite ?_ ?_ | (refine Keeps.app ?_ ?_; focus (simp; done)) | simp only [Keeps.upd]
    | refine Keeps.foldl ?_ ?_ | split

@[simp] theorem pauseFrame_keeps (l : Nat) (priority quanta : Nat) (s : State) :
    Keeps s (pauseFrame l priority quanta s) := by
  unfold pauseFrame
  repeat' with_reducible first
    | assumption | exact Keeps.refl _ | refine Keeps.ite ?_ ?_ | (refine Keeps.app ?_ ?_; focus (simp; done))
    | simp only [Keeps.upd] | split

@[simp] theorem answer_keeps (l : Nat) (body : Body) (dst : Source) (s : State) : Keeps s (answer l body dst s) := by
  unfold answer
  simp [Keeps.upd]

@[simp] theorem arpRequest_keeps (l : Nat) (target : BitVec 32) (vlan : Option U16) (src : Source) (s : State) :
    Keeps s (arpRequest l target vlan src s) := by
  unfold arpRequest
  repeat' with_reducible first
    | assumption | exact Keeps.refl _ | refine Keeps.ite ?_ ?_ | (refine Keeps.app ?_ ?_; focus (simp; done))
    | simp only [Keeps.upd] | split

@[simp] theorem neighborSolicitation_keeps (l : Nat) (target : BitVec 128) (vlan : Option U16) (src : Source) (s : State) :
    Keeps s (neighborSolicitation l target vlan src s) := by
  unfold neighborSolicitation
  repeat' with_reducible first
    | assumption | exact Keeps.refl _ | refine Keeps.ite ?_ ?_ | (refine Keeps.app ?_ ?_; focus (simp; done))
    | simp only [Keeps.upd] | split

@[simp] theorem ethTimers_keeps (v : Nat) (s : State) : Keeps s (ethTimers v s) := by
  unfold ethTimers
  repeat' with_reducible first
    | assumption | exact Keeps.refl _ | refine Keeps.ite ?_ ?_ | (refine Keeps.app ?_ ?_; focus (simp; done))
    | simp only [Keeps.upd] | split

@[simp] theorem ethWrite_keeps (off v : Nat) (s : State) : KeepsO s (ethWrite off v s) := by
  unfold ethWrite
  repeat' with_reducible first
    | assumption | exact Keeps.refl _ | refine Keeps.ite ?_ ?_ | (refine Keeps.app ?_ ?_; focus (simp; done))
    | simp only [Keeps.upd] | simp only [KeepsO.some, KeepsO.none] | refine KeepsO.ite ?_ ?_ | split
    | focus (simp; done)

end Sys2Proof.Laws
end

