-- ==== Sys2Proof/Laws/KeepsTally.lean ====
section
/-! SUPPORT. What the operations of Machine/Tally.lean keep. -/

namespace Sys2Proof.Laws

open Sys2Proof Sys2Proof.Machine Sys2Proof.Safety

set_option linter.unusedTactic false
set_option linter.unreachableTactic false
set_option linter.unusedSimpArgs false

@[simp] theorem clearGroup_keeps (g target : Nat) (s : State) : Keeps s (clearGroup g target s) := by
  unfold clearGroup
  repeat' with_reducible first
    | assumption | exact Keeps.refl _ | refine Keeps.ite ?_ ?_ | (refine Keeps.app ?_ ?_; focus (simp; done))
    | simp only [Keeps.upd] | split

@[simp] theorem talClear_keeps (v : Nat) (s : State) : Keeps s (talClear v s) := by
  unfold talClear
  repeat' with_reducible first
    | assumption | exact Keeps.refl _ | refine Keeps.ite ?_ ?_ | (refine Keeps.app ?_ ?_; focus (simp; done))
    | simp only [Keeps.upd] | split

@[simp] theorem talWrite_keeps (off v : Nat) (s : State) : KeepsO s (talWrite off v s) := by
  unfold talWrite
  repeat' with_reducible first
    | assumption | exact Keeps.refl _ | refine Keeps.ite ?_ ?_ | (refine Keeps.app ?_ ?_; focus (simp; done))
    | simp only [Keeps.upd] | simp only [KeepsO.some, KeepsO.none] | refine KeepsO.ite ?_ ?_ | split
    | focus (simp; done)

end Sys2Proof.Laws
end

