-- ==== Sys2Proof/Laws/KeepsObs.lean ====
section
/-! SUPPORT. What the operations of Machine/Obs.lean keep. -/

namespace Sys2Proof.Laws

open Sys2Proof Sys2Proof.Machine Sys2Proof.Safety

set_option linter.unusedTactic false
set_option linter.unreachableTactic false
set_option linter.unusedSimpArgs false

@[simp] theorem countPut_keeps (p : Put) (s : State) : Keeps s (countPut p s) := by
  cases p <;> dsimp only [countPut]
  · exact Keeps.refl s
  · exact Keeps.app (tallyRaw_keeps ..) ((Keeps.refl s).obs (Nat.le_refl _) fun k => ⟨k.1, k.2⟩)
  · exact Keeps.app (tallyRaw_keeps ..) ((Keeps.refl s).obs (Nat.le_refl _) fun k => ⟨k.1, k.2⟩)

@[simp] theorem putDevice_keeps (r : Rec) (s : State) : Keeps s (putDevice r s) := by
  unfold putDevice
  split
  · exact Keeps.app (countPut_keeps ..) ((Keeps.refl s).obs (Nat.le_refl _) fun k => ⟨k.1, k.2⟩)
  · split
    · exact countPut_keeps ..
    · split <;> exact (Keeps.refl s).obs (Nat.le_refl _) fun k => ⟨k.1, k.2⟩

@[simp] theorem putMain_keeps (r : Rec) (s : State) : Keeps s (putMain r s) := by
  unfold putMain
  exact Keeps.ite (Keeps.app (countPut_keeps ..) ((Keeps.refl s).obs (Nat.le_refl _) fun k => ⟨k.1, k.2⟩)) (putDevice_keeps ..)

@[simp] theorem putInst_keeps (r : Rec) (s : State) : Keeps s (putInst r s) := by
  unfold putInst
  exact Keeps.ite (Keeps.app (countPut_keeps ..) ((Keeps.refl s).obs (Nat.le_refl _) fun k => ⟨k.1, k.2⟩)) (Keeps.refl s)

@[simp] theorem writeRecord_keeps (r : Rec) (s : State) : Keeps s (writeRecord r s) := by
  unfold writeRecord
  repeat' with_reducible first
    | assumption | exact Keeps.refl _ | refine Keeps.ite ?_ ?_ | (refine Keeps.app ?_ ?_; focus (simp; done))
    | simp only [Keeps.upd] | split

theorem countPut_fifo (p : Put) (s : State) : (countPut p s).obs.fifo = s.obs.fifo := by cases p <;> rfl

theorem putDevice_fifo (r : Rec) (s : State) : (putDevice r s).obs.fifo = s.obs.fifo := by
  unfold putDevice
  split
  · exact countPut_fifo ..
  · split
    · exact countPut_fifo ..
    · split <;> rfl

/-- The writer does not touch the FIFO but for the entry it takes. -/
theorem writeRecord_fifo (r : Rec) (s : State) : (writeRecord r s).obs.fifo = s.obs.fifo := by
  have a : (putMain r s).obs.fifo = s.obs.fifo := by
    unfold putMain
    split
    · exact countPut_fifo ..
    · exact putDevice_fifo ..
  have b : ∀ s, (putInst r s).obs.fifo = s.obs.fifo := fun s => by
    unfold putInst
    split
    · exact countPut_fifo ..
    · rfl
  unfold writeRecord
  split
  · rfl
  · exact (b _).trans a

@[simp] theorem recordWrite_keeps (s : State) : Keeps s (recordWrite s) := by
  unfold recordWrite
  split
  · exact Keeps.refl s
  · rename_i r rest h
    have k := writeRecord_keeps r { s with obs := { s.obs with fifo := rest } }
    have f := writeRecord_fifo r { s with obs := { s.obs with fifo := rest } }
    have b : RingsOk s.obs → rest.length < 64 := fun q => by have := q.1; rw [h] at this; simp at this; omega
    have m : RingsOk s.obs → RingsOk { s.obs with fifo := rest } := fun q => ⟨Nat.le_of_lt (b q), q.2⟩
    generalize writeRecord r { s with obs := { s.obs with fifo := rest } } = x at k f
    dsimp only at k f ⊢
    unfold lostRecord
    refine Keeps.ite ?_ ?_
    · exact ⟨k.pending, k.tck, k.seq, fun q => k.rings (m q), k.fuses, k.buffers⟩
    · refine ⟨k.pending, k.tck, Nat.le_succ_of_le k.seq, fun q => ⟨?_, (k.rings (m q)).2⟩, k.fuses, k.buffers⟩
      dsimp only
      rw [f, List.length_append]
      exact b q

@[simp] theorem drainFifo_keeps (s : State) : Keeps s (drainFifo s) := by
  unfold drainFifo
  repeat' with_reducible first
    | assumption | exact Keeps.refl _
    | (intro x; refine (fun (hx : Keeps s x) => ?_) ?_; clear_value x; rotate_left; simp only [x]; clear x)
    | (intro (x : Dmc); simp only [x]; clear x) | (intro (x : Cfl); simp only [x]; clear x)
    | (intro (x : Slt); simp only [x]; clear x) | (intro x; clear_value x) | intro _ | lift_lets
    | refine Keeps.ite ?_ ?_ | (refine Keeps.app ?_ ?_; focus (simp; done)) | simp only [Keeps.upd]
    | refine Keeps.foldl ?_ ?_ | split

@[simp] theorem carryRecords_keeps (s : State) : Keeps s (carryRecords s) := by
  unfold carryRecords
  refine Keeps.foldl ?_ fun x a h => Keeps.app (putDevice_keeps ..) h
  exact (Keeps.refl s).obs (Nat.le_refl _) fun k => ⟨k.1, k.2⟩

@[simp] theorem latchRecord_keeps (s : State) : Keeps s (latchRecord s) := by
  exact (Keeps.refl s).obs (Nat.le_refl _) fun k => ⟨k.1, k.2⟩

@[simp] theorem rdwinRead_keeps (k : Nat) (s : State) : Keeps s (rdwinRead k s).2 := by
  have h : Keeps s (if k = 0 then latchRecord s else s) := Keeps.ite (latchRecord_keeps s) (Keeps.refl s)
  unfold rdwinRead
  dsimp only
  split
  · split
    · exact h.obs (Nat.le_refl _) fun k => ⟨k.1, k.2⟩
    · exact h
  · exact h

@[simp] theorem headRead_keeps (s : State) : Keeps s (headRead s).2 := by
  unfold headRead
  simp [Keeps.upd]

@[simp] theorem obsWrite_keeps (off v : Nat) (s : State) : KeepsO s (obsWrite off v s) := by
  unfold obsWrite
  refine KeepsO.ite ?_ (KeepsO.ite ?_ (KeepsO.ite ?_ (KeepsO.none s))) <;>
    exact (KeepsO.some ..).mpr ((Keeps.refl s).obs (Nat.le_refl _) fun k => ⟨k.1, k.2⟩)

end Sys2Proof.Laws
end

