-- ==== Sys2Proof/Laws/KeepsCodeFlash.lean ====
section
/-! SUPPORT. What the operations of Machine/CodeFlash.lean keep. -/

namespace Sys2Proof.Laws

open Sys2Proof Sys2Proof.Machine Sys2Proof.Safety

set_option linter.unusedTactic false
set_option linter.unreachableTactic false
set_option linter.unusedSimpArgs false

@[simp] theorem setGran_keeps (bank sector granule : Nat) (d : BitVec 2048) (s : State) :
    Keeps s (setGran bank sector granule d s) := by
  exact ⟨rfl, rfl, Nat.le_refl _, id, FusesLe.refl _, fun b => ⟨memWf_memSet _ _ _ _ b.1, b.2⟩⟩

@[simp] theorem setHdr_keeps (bank sector : Nat) (f : SectorHdr → SectorHdr) (s : State) :
    Keeps s (setHdr bank sector f s) := by
  exact ⟨rfl, rfl, Nat.le_refl _, id, FusesLe.refl _, fun b => ⟨b.1, memWf_memSet _ _ _ _ b.2.1, b.2.2⟩⟩

@[simp] theorem modUnit_keeps (bank : Nat) (f : CflUnit → CflUnit) (s : State) : Keeps s (modUnit bank f s) := by
  unfold modUnit
  repeat' with_reducible first
    | assumption | exact Keeps.refl _ | refine Keeps.ite ?_ ?_ | (refine Keeps.app ?_ ?_; focus (simp; done))
    | simp only [Keeps.upd] | split

@[simp] theorem setOp_keeps (bank : Nat) (o : Option CflOp) (s : State) : Keeps s (setOp bank o s) := by
  unfold setOp
  simp [Keeps.upd]

@[simp] theorem setNested_keeps (bank : Nat) (o : Option CflOp) (s : State) : Keeps s (setNested bank o s) := by
  unfold setNested
  simp [Keeps.upd]

@[simp] theorem drawGran_keeps (s : State) : Keeps s (drawGran s).2 := by
  unfold drawGran
  simp [Keeps.upd]

@[simp] theorem readGran_keeps (bank sector granule : Nat) (s : State) :
    Keeps s (readGran bank sector granule s).2 := by
  unfold readGran
  repeat' with_reducible first
    | assumption | exact Keeps.refl _ | refine Keeps.ite ?_ ?_ | (refine Keeps.app ?_ ?_; focus (simp; done))
    | simp only [Keeps.upd] | simp only [KeepsO.some, KeepsO.none] | refine KeepsO.ite ?_ ?_ | split
    | focus (simp; done)

@[simp] theorem cflEnd_keeps (mgr : Bool) (result detail : Nat) (s : State) :
    Keeps s (cflEnd mgr result detail s) := by
  unfold cflEnd
  repeat' with_reducible first
    | assumption | exact Keeps.refl _ | refine Keeps.ite ?_ ?_ | (refine Keeps.app ?_ ?_; focus (simp; done))
    | simp only [Keeps.upd] | split

@[simp] theorem cflSuspend_keeps (o : CflOp) (s : State) : Keeps s (cflSuspend o s) := by
  unfold cflSuspend
  repeat' with_reducible first
    | assumption | exact Keeps.refl _ | refine Keeps.ite ?_ ?_ | (refine Keeps.app ?_ ?_; focus (simp; done))
    | simp only [Keeps.upd] | split

@[simp] theorem cflResumeOp_keeps (bank : Nat) (s : State) : Keeps s (cflResumeOp bank s) := by
  unfold cflResumeOp
  repeat' with_reducible first
    | assumption | exact Keeps.refl _ | refine Keeps.ite ?_ ?_ | (refine Keeps.app ?_ ?_; focus (simp; done))
    | simp only [Keeps.upd] | split

@[simp] theorem beginProgram_keeps (o : CflOp) (s : State) : Keeps s (beginProgram o s) := by
  unfold beginProgram
  repeat' with_reducible first
    | assumption | exact Keeps.refl _ | refine Keeps.ite ?_ ?_ | (refine Keeps.app ?_ ?_; focus (simp; done))
    | simp only [Keeps.upd] | split

@[simp] theorem beginErase_keeps (bank sector : Nat) (s : State) : Keeps s (beginErase bank sector s) := by
  unfold beginErase
  simp [Keeps.upd]

@[simp] theorem cflCorrected_keeps (s : State) : Keeps s (cflCorrected s) := by
  unfold cflCorrected
  repeat' with_reducible first
    | assumption | exact Keeps.refl _ | refine Keeps.ite ?_ ?_ | (refine Keeps.app ?_ ?_; focus (simp; done))
    | simp only [Keeps.upd] | split

@[simp] theorem eccGran_keeps (ecc : CflEcc) (bank sector granule : Nat) (s : State) :
    Keeps s (eccGran ecc bank sector granule s).2 := by
  unfold eccGran
  repeat' with_reducible first
    | assumption | exact Keeps.refl _
    | (intro x; refine (fun (hx : Keeps s x) => ?_) ?_; clear_value x; rotate_left; simp only [x]; clear x)
    | (intro (x : Dmc); simp only [x]; clear x) | (intro (x : Cfl); simp only [x]; clear x)
    | (intro (x : Slt); simp only [x]; clear x) | (intro x; clear_value x) | lift_lets | refine Keeps.ite ?_ ?_
    | (refine Keeps.app ?_ ?_; focus (simp; done)) | simp only [Keeps.upd]
    | (refine Keeps.app2 ?_ ?_; focus (simp; done)) | (refine Keeps.app1 ?_ ?_; focus (simp; done)) | dsimp only
    | split | (refine Keeps.snd (by assumption) ?_ ?_; rotate_left; focus (simp; done))
    | (refine Keeps.fst (by assumption) ?_ ?_; rotate_left; focus (simp; done))

@[simp] theorem serveRead_keeps (mgr : Bool) (bank sector granule : Nat) (ecc : CflEcc) (s : State) :
    Keeps s (serveRead mgr bank sector granule ecc s) := by
  unfold serveRead
  repeat' with_reducible first
    | assumption | exact Keeps.refl _ | refine Keeps.ite ?_ ?_ | (refine Keeps.app ?_ ?_; focus (simp; done))
    | simp only [Keeps.upd] | simp only [KeepsO.some, KeepsO.none] | refine KeepsO.ite ?_ ?_ | split
    | focus (simp; done)

@[simp] theorem serveWaiting_keeps (bank : Nat) (s : State) : Keeps s (serveWaiting bank s) := by
  unfold serveWaiting
  repeat' with_reducible first
    | assumption | exact Keeps.refl _
    | (intro x; refine (fun (hx : Keeps s x) => ?_) ?_; clear_value x; rotate_left; simp only [x]; clear x)
    | (intro (x : Dmc); simp only [x]; clear x) | (intro (x : Cfl); simp only [x]; clear x)
    | (intro (x : Slt); simp only [x]; clear x) | (intro x; clear_value x) | intro _ | lift_lets
    | refine Keeps.ite ?_ ?_ | (refine Keeps.app ?_ ?_; focus (simp; done)) | simp only [Keeps.upd]
    | refine Keeps.foldl ?_ ?_ | split

@[simp] theorem cflRead_keeps (mgr : Bool) (bank sector granule : Nat) (ecc : CflEcc) (s : State) :
    Keeps s (cflRead mgr bank sector granule ecc s) := by
  unfold cflRead
  repeat' with_reducible first
    | assumption | exact Keeps.refl _ | refine Keeps.ite ?_ ?_ | (refine Keeps.app ?_ ?_; focus (simp; done))
    | simp only [Keeps.upd] | split

@[simp] theorem cflProgram_keeps (mgr : Bool) (fetch : Option Nat) (bank sector granule : Nat) (data : BitVec 2048) (s : State) :
    Keeps s (cflProgram mgr fetch bank sector granule data s) := by
  unfold cflProgram
  repeat' with_reducible first
    | assumption | exact Keeps.refl _ | refine Keeps.ite ?_ ?_ | (refine Keeps.app ?_ ?_; focus (simp; done))
    | simp only [Keeps.upd] | split

@[simp] theorem cflErase_keeps (mgr : Bool) (fetch : Option Nat) (bank sector : Nat) (s : State) :
    Keeps s (cflErase mgr fetch bank sector s) := by
  unfold cflErase
  repeat' with_reducible first
    | assumption | exact Keeps.refl _ | refine Keeps.ite ?_ ?_ | (refine Keeps.app ?_ ?_; focus (simp; done))
    | simp only [Keeps.upd] | split

@[simp] theorem cflEraseBank_keeps (mgr : Bool) (fetch : Option Nat) (bank : Nat) (s : State) :
    Keeps s (cflEraseBank mgr fetch bank s) := by
  unfold cflEraseBank
  repeat' with_reducible first
    | assumption | exact Keeps.refl _ | refine Keeps.ite ?_ ?_ | (refine Keeps.app ?_ ?_; focus (simp; done))
    | simp only [Keeps.upd] | split

@[simp] theorem cflVerify_keeps (mgr : Bool) (bank : Nat) (sigOk : Bool) (s : State) :
    Keeps s (cflVerify mgr bank sigOk s) := by
  unfold cflVerify
  simp [Keeps.upd]

@[simp] theorem cflActivate_keeps (mgr : Bool) (fetch : Option Nat) (bank : Nat) (s : State) :
    Keeps s (cflActivate mgr fetch bank s) := by
  unfold cflActivate
  repeat' with_reducible first
    | assumption | exact Keeps.refl _ | refine Keeps.ite ?_ ?_ | (refine Keeps.app ?_ ?_; focus (simp; done))
    | simp only [Keeps.upd] | split

@[simp] theorem endVerify_keeps (v : CflVerify) (s : State) : Keeps s (endVerify v s) := by
  unfold endVerify
  repeat' with_reducible first
    | assumption | exact Keeps.refl _ | refine Keeps.ite ?_ ?_ | (refine Keeps.app ?_ ?_; focus (simp; done))
    | simp only [Keeps.upd] | split

@[simp] theorem cflLimit_keeps (o : CflOp) (s : State) : Keeps s (cflLimit o s) := by
  unfold cflLimit
  repeat' with_reducible first
    | assumption | exact Keeps.refl _ | refine Keeps.ite ?_ ?_ | (refine Keeps.app ?_ ?_; focus (simp; done))
    | simp only [Keeps.upd] | split

@[simp] theorem endProgram_keeps (o : CflOp) (s : State) : Keeps s (endProgram o s) := by
  unfold endProgram
  repeat' with_reducible first
    | assumption | exact Keeps.refl _ | refine Keeps.ite ?_ ?_ | (refine Keeps.app ?_ ?_; focus (simp; done))
    | simp only [Keeps.upd] | split

@[simp] theorem eraseSector_keeps (bank sector : Nat) (s : State) : Keeps s (eraseSector bank sector s) := by
  unfold eraseSector
  refine Keeps.app (setHdr_keeps ..) ?_
  exact ⟨rfl, rfl, Nat.le_refl _, id, FusesLe.refl _, fun b => ⟨memWf_filter _ _ _ b.1, b.2⟩⟩

@[simp] theorem afterOp_keeps (bank : Nat) (s : State) : Keeps s (afterOp bank s) := by
  unfold afterOp
  repeat' with_reducible first
    | assumption | exact Keeps.refl _ | refine Keeps.ite ?_ ?_ | (refine Keeps.app ?_ ?_; focus (simp; done))
    | simp only [Keeps.upd] | split

@[simp] theorem nextErase_keeps (o : CflOp) (s : State) : Keeps s (nextErase o s) := by
  unfold nextErase
  repeat' with_reducible first
    | assumption | exact Keeps.refl _ | refine Keeps.ite ?_ ?_ | (refine Keeps.app ?_ ?_; focus (simp; done))
    | simp only [Keeps.upd] | split

@[simp] theorem endActivate_keeps (o : CflOp) (s : State) : Keeps s (endActivate o s) := by
  unfold endActivate
  repeat' with_reducible first
    | assumption | exact Keeps.refl _ | refine Keeps.ite ?_ ?_ | (refine Keeps.app ?_ ?_; focus (simp; done))
    | simp only [Keeps.upd] | split

@[simp] theorem endOp_keeps (o : CflOp) (ok : Bool) (s : State) : Keeps s (endOp o ok s) := by
  unfold endOp
  repeat' with_reducible first
    | assumption | exact Keeps.refl _ | refine Keeps.ite ?_ ?_ | (refine Keeps.app ?_ ?_; focus (simp; done))
    | simp only [Keeps.upd] | split

@[simp] theorem endNested_keeps (n : CflOp) (ok : Bool) (s : State) : Keeps s (endNested n ok s) := by
  unfold endNested
  repeat' with_reducible first
    | assumption | exact Keeps.refl _ | refine Keeps.ite ?_ ?_ | (refine Keeps.app ?_ ?_; focus (simp; done))
    | simp only [Keeps.upd] | split

@[simp] theorem endVerifyOf_keeps (bank : Nat) (s : State) : Keeps s (endVerifyOf bank s) := by
  unfold endVerifyOf
  repeat' with_reducible first
    | assumption | exact Keeps.refl _ | refine Keeps.ite ?_ ?_ | (refine Keeps.app ?_ ?_; focus (simp; done))
    | simp only [Keeps.upd] | split

@[simp] theorem cflComplete_keeps (bank : Nat) (ok : Bool) (s : State) : Keeps s (cflComplete bank ok s) := by
  unfold cflComplete
  repeat' with_reducible first
    | assumption | exact Keeps.refl _ | refine Keeps.ite ?_ ?_ | (refine Keeps.app ?_ ?_; focus (simp; done))
    | simp only [Keeps.upd] | split

@[simp] theorem dropOp_keeps (o : Option CflOp) (s : State) : Keeps s (dropOp o s) := by
  unfold dropOp
  repeat' with_reducible first
    | assumption | exact Keeps.refl _ | refine Keeps.ite ?_ ?_ | (refine Keeps.app ?_ ?_; focus (simp; done))
    | simp only [Keeps.upd] | simp only [KeepsO.some, KeepsO.none] | refine KeepsO.ite ?_ ?_ | split
    | focus (simp; done)

@[simp] theorem cflAbandon_keeps (s : State) : Keeps s (cflAbandon s) := by
  unfold cflAbandon
  repeat' with_reducible first
    | assumption | exact Keeps.refl _ | refine Keeps.ite ?_ ?_ | (refine Keeps.app ?_ ?_; focus (simp; done))
    | simp only [Keeps.upd] | split

@[simp] theorem drawBit_keeps (s : State) : Keeps s (drawBit s).2 := by
  unfold drawBit
  simp [Keeps.upd]

@[simp] theorem cflCmd_keeps (v : Nat) (sigOk : Bool) (ecc : CflEcc) (s : State) : Keeps s (cflCmd v sigOk ecc s) := by
  unfold cflCmd
  repeat' with_reducible first
    | assumption | exact Keeps.refl _ | refine Keeps.ite ?_ ?_ | (refine Keeps.app ?_ ?_; focus (simp; done))
    | simp only [Keeps.upd] | split

@[simp] theorem cflFirmware_keeps (op : Nat) (fetch : Option (Fin 2)) (bank sector granule : Nat) (data : BitVec 2048) (sigOk : Bool) (ecc : CflEcc) (s : State) :
    Keeps s (cflFirmware op fetch bank sector granule data sigOk ecc s) := by
  unfold cflFirmware
  repeat' with_reducible first
    | assumption | exact Keeps.refl _ | refine Keeps.ite ?_ ?_ | (refine Keeps.app ?_ ?_; focus (simp; done))
    | simp only [Keeps.upd] | split

@[simp] theorem cflPort_keeps (op : Nat) (p : CflPort) (sigOk : Bool) (ecc : CflEcc) (s : State) :
    Keeps s (cflPort op p sigOk ecc s) := by
  unfold cflPort
  repeat' with_reducible first
    | assumption | exact Keeps.refl _ | refine Keeps.ite ?_ ?_ | (refine Keeps.app ?_ ?_; focus (simp; done))
    | simp only [Keeps.upd] | split

@[simp] theorem drawEcc_keeps (s : State) : Keeps s (drawEcc s).2 := by
  unfold drawEcc
  simp [Keeps.upd]

@[simp] theorem cflRegWrite_keeps (off v : Nat) (s : State) : KeepsO s (cflRegWrite off v s) := by
  unfold cflRegWrite
  repeat' with_reducible first
    | assumption | exact Keeps.refl _ | refine Keeps.ite ?_ ?_ | (refine Keeps.app ?_ ?_; focus (simp; done))
    | simp only [Keeps.upd] | simp only [KeepsO.some, KeepsO.none] | refine KeepsO.ite ?_ ?_ | split
    | focus (simp; done)

end Sys2Proof.Laws
end

