-- ==== Sys2Proof/Laws/KeepsDram.lean ====
section
/-! SUPPORT. What the operations of Machine/Dram.lean keep. -/

namespace Sys2Proof.Laws

open Sys2Proof Sys2Proof.Machine Sys2Proof.Safety

set_option linter.unusedTactic false
set_option linter.unreachableTactic false
set_option linter.unusedSimpArgs false

@[simp] theorem modCh_keeps (n : Nat) (f : DmcCh → DmcCh) (s : State) : Keeps s (modCh n f s) := by
  unfold modCh
  simp [Keeps.upd]

@[simp] theorem countCe_keeps (n : Nat) (s : State) : Keeps s (countCe n s) := by
  unfold countCe
  repeat' with_reducible first
    | assumption | exact Keeps.refl _ | refine Keeps.ite ?_ ?_ | (refine Keeps.app ?_ ?_; focus (simp; done))
    | simp only [Keeps.upd] | split

@[simp] theorem countUe_keeps (n : Nat) (s : State) : Keeps s (countUe n s) := by
  unfold countUe
  repeat' with_reducible first
    | assumption | exact Keeps.refl _ | refine Keeps.ite ?_ ?_ | (refine Keeps.app ?_ ?_; focus (simp; done))
    | simp only [Keeps.upd] | split

@[simp] theorem failBlocks_keeps (h : Harm) (l : List (Nat × Nat × Nat)) (s : State) : Keeps s (failBlocks h l s) := by
  unfold failBlocks
  repeat' with_reducible first
    | assumption | exact Keeps.refl _
    | (intro x; refine (fun (hx : Keeps s x) => ?_) ?_; clear_value x; rotate_left; simp only [x]; clear x)
    | (intro (x : Dmc); simp only [x]; clear x) | (intro (x : Cfl); simp only [x]; clear x)
    | (intro (x : Slt); simp only [x]; clear x) | (intro x; clear_value x) | intro _ | lift_lets
    | refine Keeps.ite ?_ ?_ | (refine Keeps.app ?_ ?_; focus (simp; done)) | simp only [Keeps.upd]
    | refine Keeps.foldl ?_ ?_ | split

@[simp] theorem judgeCopies_keeps (h : Harm) (s : State) : Keeps s (judgeCopies h s) := by
  unfold judgeCopies
  repeat' with_reducible first
    | assumption | exact Keeps.refl _ | refine Keeps.ite ?_ ?_ | (refine Keeps.app ?_ ?_; focus (simp; done))
    | simp only [Keeps.upd] | split

@[simp] theorem dropDram_keeps (n : Nat) (s : State) : Keeps s (dropDram n s) := by
  unfold dropDram
  repeat' with_reducible first
    | assumption | exact Keeps.refl _
    | (intro x; refine (fun (hx : Keeps s x) => ?_) ?_; clear_value x; rotate_left; simp only [x]; clear x)
    | (intro (x : Dmc); simp only [x]; clear x) | (intro (x : Cfl); simp only [x]; clear x)
    | (intro (x : Slt); simp only [x]; clear x) | (intro x; clear_value x) | lift_lets | refine Keeps.ite ?_ ?_
    | (refine Keeps.app ?_ ?_; focus (simp; done)) | simp only [Keeps.upd]
    | (refine Keeps.app2 ?_ ?_; focus (simp; done)) | (refine Keeps.app1 ?_ ?_; focus (simp; done)) | dsimp only
    | split | (refine Keeps.snd (by assumption) ?_ ?_; rotate_left; focus (simp; done))
    | (refine Keeps.fst (by assumption) ?_ ?_; rotate_left; focus (simp; done))

@[simp] theorem loseDram_keeps (n : Nat) (access master addr : Nat) (s : State) :
    Keeps s (loseDram n access master addr s) := by
  unfold loseDram
  repeat' with_reducible first
    | assumption | exact Keeps.refl _ | refine Keeps.ite ?_ ?_ | (refine Keeps.app ?_ ?_; focus (simp; done))
    | simp only [Keeps.upd] | split

@[simp] theorem recentUe_keeps (n addr : Nat) (s : State) : Keeps s (recentUe n addr s) := by
  unfold recentUe
  repeat' with_reducible first
    | assumption | exact Keeps.refl _ | refine Keeps.ite ?_ ?_ | (refine Keeps.app ?_ ?_; focus (simp; done))
    | simp only [Keeps.upd] | split

@[simp] theorem poisonWord_keeps (half addr : Nat) (s : State) : Keeps s (poisonWord half addr s) := by
  unfold poisonWord
  simp [Keeps.upd]

@[simp] theorem poisonSingle_keeps (half addr : Nat) (s : State) : Keeps s (poisonSingle half addr s) := by
  unfold poisonSingle
  repeat' with_reducible first
    | assumption | exact Keeps.refl _
    | (intro x; refine (fun (hx : Keeps s x) => ?_) ?_; clear_value x; rotate_left; simp only [x]; clear x)
    | (intro (x : Dmc); simp only [x]; clear x) | (intro (x : Cfl); simp only [x]; clear x)
    | (intro (x : Slt); simp only [x]; clear x) | (intro x; clear_value x) | intro _ | lift_lets
    | refine Keeps.ite ?_ ?_ | (refine Keeps.app ?_ ?_; focus (simp; done)) | simp only [Keeps.upd]
    | refine Keeps.foldl ?_ ?_ | split

@[simp] theorem uncorrectable_keeps (half addr port : Nat) (otherOk corr : Bool) (s : State) :
    Keeps s (uncorrectable half addr port otherOk corr s) := by
  unfold uncorrectable
  repeat' with_reducible first
    | assumption | exact Keeps.refl _ | refine Keeps.ite ?_ ?_ | (refine Keeps.app ?_ ?_; focus (simp; done))
    | simp only [Keeps.upd] | split

@[simp] theorem setWinWord_keeps (half addr : Nat) (d : BitVec 512) (s : State) :
    Keeps s (setWinWord half addr d s) := by
  exact ⟨rfl, rfl, Nat.le_refl _, id, FusesLe.refl _,
    fun b => ⟨b.1, b.2.1, memWf_memSet _ _ _ _ b.2.2.1, b.2.2.2⟩⟩

@[simp] theorem setWinCheck_keeps (half group : Nat) (d : BitVec 512) (s : State) :
    Keeps s (setWinCheck half group d s) := by
  exact ⟨rfl, rfl, Nat.le_refl _, id, FusesLe.refl _,
    fun b => ⟨b.1, b.2.1, b.2.2.1, amSorted_amSet _ _ _ b.2.2.2.1, b.2.2.2.2⟩⟩

@[simp] theorem rawRead_keeps (half addr : Nat) (s : State) : Keeps s (rawRead half addr s) := by
  unfold rawRead
  repeat' with_reducible first
    | assumption | exact Keeps.refl _ | refine Keeps.ite ?_ ?_ | (refine Keeps.app ?_ ?_; focus (simp; done))
    | simp only [Keeps.upd] | split

@[simp] theorem dmcTcmd_keeps (v : Nat) (s : State) : Keeps s (dmcTcmd v s) := by
  unfold dmcTcmd
  repeat' with_reducible first
    | assumption | exact Keeps.refl _ | refine Keeps.ite ?_ ?_ | (refine Keeps.app ?_ ?_; focus (simp; done))
    | simp only [Keeps.upd] | split

@[simp] theorem setPoint_keeps (sp : Nat) (s : State) : Keeps s (setPoint sp s) := by
  unfold setPoint
  simp [Keeps.upd]

@[simp] theorem dmcSpreq_keeps (v : Nat) (s : State) : Keeps s (dmcSpreq v s) := by
  unfold dmcSpreq
  repeat' with_reducible first
    | assumption | exact Keeps.refl _ | refine Keeps.ite ?_ ?_ | (refine Keeps.app ?_ ?_; focus (simp; done))
    | simp only [Keeps.upd] | split

@[simp] theorem dmcBwreg_keeps (p v : Nat) (s : State) : Keeps s (dmcBwreg p v s) := by
  unfold dmcBwreg
  repeat' with_reducible first
    | assumption | exact Keeps.refl _ | refine Keeps.ite ?_ ?_ | (refine Keeps.app ?_ ?_; focus (simp; done))
    | simp only [Keeps.upd] | split

@[simp] theorem dmcWrite_keeps (off v : Nat) (s : State) : KeepsO s (dmcWrite off v s) := by
  unfold dmcWrite
  repeat' with_reducible first
    | assumption | exact Keeps.refl _ | refine Keeps.ite ?_ ?_ | (refine Keeps.app ?_ ?_; focus (simp; done))
    | simp only [Keeps.upd] | simp only [KeepsO.some, KeepsO.none] | refine KeepsO.ite ?_ ?_ | split
    | focus (simp; done)

end Sys2Proof.Laws
end

