-- ==== Sys2Proof/Laws/KeepsCache.lean ====
section
/-! SUPPORT. What the operations of Machine/Cache.lean keep. -/

namespace Sys2Proof.Laws

open Sys2Proof Sys2Proof.Machine Sys2Proof.Safety

set_option linter.unusedTactic false
set_option linter.unreachableTactic false
set_option linter.unusedSimpArgs false

@[simp] theorem evictLine_keeps (line : Nat) (l : Line) (s : State) : Keeps s (evictLine line l s) := by
  unfold evictLine
  repeat' with_reducible first
    | assumption | exact Keeps.refl _ | refine Keeps.ite ?_ ?_ | (refine Keeps.app ?_ ?_; focus (simp; done))
    | simp only [Keeps.upd] | split

@[simp] theorem putLine_keeps (line : Nat) (l : Line) (s : State) : Keeps s (putLine line l s) := by
  unfold putLine
  simp [Keeps.upd]

@[simp] theorem installLine_keeps (line : Nat) (l : Line) (s : State) : Keeps s (installLine line l s) := by
  unfold installLine
  repeat' with_reducible first
    | assumption | exact Keeps.refl _ | refine Keeps.ite ?_ ?_ | (refine Keeps.app ?_ ?_; focus (simp; done))
    | simp only [Keeps.upd] | split

@[simp] theorem prefetchLine_keeps (part line : Nat) (s : State) : Keeps s (prefetchLine part line s) := by
  unfold prefetchLine
  repeat' with_reducible first
    | assumption | exact Keeps.refl _ | refine Keeps.ite ?_ ?_ | (refine Keeps.app ?_ ?_; focus (simp; done))
    | simp only [Keeps.upd] | split

@[simp] theorem prefetch_keeps (part n : Nat) (s : State) : Keeps s (prefetch part n s) := by
  unfold prefetch
  repeat' with_reducible first
    | assumption | exact Keeps.refl _
    | (intro x; refine (fun (hx : Keeps s x) => ?_) ?_; clear_value x; rotate_left; simp only [x]; clear x)
    | (intro (x : Dmc); simp only [x]; clear x) | (intro (x : Cfl); simp only [x]; clear x)
    | (intro (x : Slt); simp only [x]; clear x) | (intro x; clear_value x) | intro _ | lift_lets
    | refine Keeps.ite ?_ ?_ | (refine Keeps.app ?_ ?_; focus (simp; done)) | simp only [Keeps.upd]
    | refine Keeps.foldl ?_ ?_ | split

@[simp] theorem track_keeps (part line : Nat) (miss : Bool) (s : State) : Keeps s (track part line miss s) := by
  unfold track
  repeat' with_reducible first
    | assumption | exact Keeps.refl _
    | (intro x; refine (fun (hx : Keeps s x) => ?_) ?_; clear_value x; rotate_left; simp only [x]; clear x)
    | (intro (x : Dmc); simp only [x]; clear x) | (intro (x : Cfl); simp only [x]; clear x)
    | (intro (x : Slt); simp only [x]; clear x) | (intro x; clear_value x) | intro _ | lift_lets
    | refine Keeps.ite ?_ ?_ | (refine Keeps.app ?_ ?_; focus (simp; done)) | simp only [Keeps.upd]
    | refine Keeps.foldl ?_ ?_ | split

@[simp] theorem demandAccess_keeps (part line : Nat) (s : State) : Keeps s (demandAccess part line s) := by
  unfold demandAccess
  repeat' with_reducible first
    | assumption | exact Keeps.refl _
    | (intro x; refine (fun (hx : Keeps s x) => ?_) ?_; clear_value x; rotate_left; simp only [x]; clear x)
    | (intro (x : Dmc); simp only [x]; clear x) | (intro (x : Cfl); simp only [x]; clear x)
    | (intro (x : Slt); simp only [x]; clear x) | (intro x; clear_value x) | lift_lets | refine Keeps.ite ?_ ?_
    | (refine Keeps.app ?_ ?_; focus (simp; done)) | simp only [Keeps.upd] | split

@[simp] theorem mapAccess_keeps (part line : Nat) (s : State) : Keeps s (mapAccess part line s) := by
  unfold mapAccess
  repeat' with_reducible first
    | assumption | exact Keeps.refl _
    | (intro x; refine (fun (hx : Keeps s x) => ?_) ?_; clear_value x; rotate_left; simp only [x]; clear x)
    | (intro (x : Dmc); simp only [x]; clear x) | (intro (x : Cfl); simp only [x]; clear x)
    | (intro (x : Slt); simp only [x]; clear x) | (intro x; clear_value x) | lift_lets | refine Keeps.ite ?_ ?_
    | (refine Keeps.app ?_ ?_; focus (simp; done)) | simp only [Keeps.upd] | split

@[simp] theorem cleanLine_keeps (line : Nat) (s : State) : Keeps s (cleanLine line s) := by
  unfold cleanLine
  simp [Keeps.upd]

@[simp] theorem invalLine_keeps (line : Nat) (s : State) : Keeps s (invalLine line s) := by
  unfold invalLine
  simp [Keeps.upd]

@[simp] theorem maintLine_keeps (op line : Nat) (s : State) : Keeps s (maintLine op line s) := by
  unfold maintLine
  repeat' with_reducible first
    | assumption | exact Keeps.refl _ | refine Keeps.ite ?_ ?_ | (refine Keeps.app ?_ ?_; focus (simp; done))
    | simp only [Keeps.upd] | split

@[simp] theorem mchMaint_keeps (v : Nat) (s : State) : Keeps s (mchMaint v s) := by
  unfold mchMaint
  repeat' with_reducible first
    | assumption | exact Keeps.refl _
    | (intro x; refine (fun (hx : Keeps s x) => ?_) ?_; clear_value x; rotate_left; simp only [x]; clear x)
    | (intro (x : Dmc); simp only [x]; clear x) | (intro (x : Cfl); simp only [x]; clear x)
    | (intro (x : Slt); simp only [x]; clear x) | (intro x; clear_value x) | intro _ | lift_lets
    | refine Keeps.ite ?_ ?_ | (refine Keeps.app ?_ ?_; focus (simp; done)) | simp only [Keeps.upd]
    | refine Keeps.foldl ?_ ?_ | split

@[simp] theorem mchInvall_keeps (s : State) : Keeps s (mchInvall s) := by
  unfold mchInvall
  simp [Keeps.upd]

@[simp] theorem mchCtrl_keeps (v : Nat) (s : State) : Keeps s (mchCtrl v s) := by
  unfold mchCtrl
  repeat' with_reducible first
    | assumption | exact Keeps.refl _ | refine Keeps.ite ?_ ?_ | (refine Keeps.app ?_ ?_; focus (simp; done))
    | simp only [Keeps.upd] | split

@[simp] theorem mchLockWay_keeps (way : Nat) (s : State) : Keeps s (mchLockWay way s) := by
  unfold mchLockWay
  repeat' with_reducible first
    | assumption | exact Keeps.refl _
    | (intro x; refine (fun (hx : Keeps s x) => ?_) ?_; clear_value x; rotate_left; simp only [x]; clear x)
    | (intro (x : Dmc); simp only [x]; clear x) | (intro (x : Cfl); simp only [x]; clear x)
    | (intro (x : Slt); simp only [x]; clear x) | (intro x; clear_value x) | intro _ | lift_lets
    | refine Keeps.ite ?_ ?_ | (refine Keeps.app ?_ ?_; focus (simp; done)) | simp only [Keeps.upd]
    | refine Keeps.foldl ?_ ?_ | split

@[simp] theorem mchPart_keeps (p v : Nat) (s : State) : Keeps s (mchPart p v s) := by
  unfold mchPart
  repeat' with_reducible first
    | assumption | exact Keeps.refl _ | refine Keeps.ite ?_ ?_ | (refine Keeps.app ?_ ?_; focus (simp; done))
    | simp only [Keeps.upd] | split

@[simp] theorem mchWrite_keeps (off v : Nat) (s : State) : KeepsO s (mchWrite off v s) := by
  unfold mchWrite
  repeat' with_reducible first
    | assumption | exact Keeps.refl _ | refine Keeps.ite ?_ ?_ | (refine Keeps.app ?_ ?_; focus (simp; done))
    | simp only [Keeps.upd] | simp only [KeepsO.some, KeepsO.none] | refine KeepsO.ite ?_ ?_ | split
    | focus (simp; done)

@[simp] theorem fillComplete_keeps (part line way poison : Nat) (write : Bool) (s : State) :
    Keeps s (fillComplete part line way poison write s) := by
  unfold fillComplete
  repeat' with_reducible first
    | assumption | exact Keeps.refl _ | refine Keeps.ite ?_ ?_ | (refine Keeps.app ?_ ?_; focus (simp; done))
    | simp only [Keeps.upd] | split

@[simp] theorem evictDone_keeps (part line : Nat) (s : State) : Keeps s (evictDone part line s) := by
  unfold evictDone
  simp [Keeps.upd]

@[simp] theorem bpmFree_keeps (p : Nat) (s : State) : Keeps s (bpmFree p s).2 := by
  unfold bpmFree
  simp [Keeps.upd]

@[simp] theorem bpmOwned_keeps (p : Nat) (s : State) : Keeps s (bpmOwned p s).2 := by
  unfold bpmOwned
  simp [Keeps.upd]

@[simp] theorem bpmInflight_keeps (p : Nat) (s : State) : Keeps s (bpmInflight p s).2 := by
  unfold bpmInflight
  simp [Keeps.upd]

@[simp] theorem bpmWrite_keeps (off v : Nat) (s : State) : KeepsO s (bpmWrite off v s) := by
  unfold bpmWrite
  repeat' with_reducible first
    | assumption | exact Keeps.refl _ | refine Keeps.ite ?_ ?_ | (refine Keeps.app ?_ ?_; focus (simp; done))
    | simp only [Keeps.upd] | simp only [KeepsO.some, KeepsO.none] | refine KeepsO.ite ?_ ?_ | split
    | focus (simp; done)

end Sys2Proof.Laws
end

