-- ==== Sys2Proof/Laws/KeepsTrust.lean ====
section
/-! SUPPORT. What the operations of Machine/Trust.lean keep. -/

namespace Sys2Proof.Laws

open Sys2Proof Sys2Proof.Machine Sys2Proof.Safety

set_option linter.unusedTactic false
set_option linter.unreachableTactic false
set_option linter.unusedSimpArgs false

@[simp] theorem fenceLane_keeps (n : Nat) (s : State) : Keeps s (fenceLane n s) := by
  unfold fenceLane
  repeat' with_reducible first
    | assumption | exact Keeps.refl _ | refine Keeps.ite ?_ ?_ | (refine Keeps.app ?_ ?_; focus (simp; done))
    | simp only [Keeps.upd] | split

@[simp] theorem fenceKeccak_keeps (u : Nat) (s : State) : Keeps s (fenceKeccak u s) := by
  unfold fenceKeccak
  simp [Keeps.upd]

@[simp] theorem cphKcmd_keeps (v : Nat) (s : State) : Keeps s (cphKcmd v s) := by
  unfold cphKcmd
  repeat' with_reducible first
    | assumption | exact Keeps.refl _ | refine Keeps.ite ?_ ?_ | (refine Keeps.app ?_ ?_; focus (simp; done))
    | simp only [Keeps.upd] | split

@[simp] theorem cphLaneTest_keeps (v : Nat) (pass : Bool) (s : State) : Keeps s (cphLaneTest v pass s) := by
  unfold cphLaneTest
  repeat' with_reducible first
    | assumption | exact Keeps.refl _ | refine Keeps.ite ?_ ?_ | (refine Keeps.app ?_ ?_; focus (simp; done))
    | simp only [Keeps.upd] | split

@[simp] theorem trngFail_keeps (repetition : Bool) (s : State) : Keeps s (trngFail repetition s) := by
  unfold trngFail
  repeat' with_reducible first
    | assumption | exact Keeps.refl _ | refine Keeps.ite ?_ ?_ | (refine Keeps.app ?_ ?_; focus (simp; done))
    | simp only [Keeps.upd] | split

@[simp] theorem trngPass_keeps (s : State) : Keeps s (trngPass s) := by
  unfold trngPass
  repeat' with_reducible first
    | assumption | exact Keeps.refl _ | refine Keeps.ite ?_ ?_ | (refine Keeps.app ?_ ?_; focus (simp; done))
    | simp only [Keeps.upd] | split

@[simp] theorem formIdentity_keeps (dikOk : Bool) (s : State) : Keeps s (formIdentity dikOk s) := by
  unfold formIdentity
  repeat' with_reducible first
    | assumption | exact Keeps.refl _
    | (intro x; refine (fun (hx : Keeps s x) => ?_) ?_; clear_value x; rotate_left; simp only [x]; clear x)
    | (intro (x : Dmc); simp only [x]; clear x) | (intro (x : Cfl); simp only [x]; clear x)
    | (intro (x : Slt); simp only [x]; clear x) | (intro x; clear_value x) | lift_lets | refine Keeps.ite ?_ ?_
    | (refine Keeps.app ?_ ?_; focus (simp; done)) | simp only [Keeps.upd]
    | (refine Keeps.app2 ?_ ?_; focus (simp; done)) | (refine Keeps.app1 ?_ ?_; focus (simp; done)) | dsimp only
    | split | (refine Keeps.snd (by assumption) ?_ ?_; rotate_left; focus (simp; done))
    | (refine Keeps.fst (by assumption) ?_ ?_; rotate_left; focus (simp; done))

@[simp] theorem kecAttReq_keeps (v : Nat) (s : State) : Keeps s (kecAttReq v s) := by
  unfold kecAttReq
  repeat' with_reducible first
    | assumption | exact Keeps.refl _ | refine Keeps.ite ?_ ?_ | (refine Keeps.app ?_ ?_; focus (simp; done))
    | simp only [Keeps.upd] | split

@[simp] theorem attDone_keeps (s : State) : Keeps s (attDone s) := by
  unfold attDone
  repeat' with_reducible first
    | assumption | exact Keeps.refl _ | refine Keeps.ite ?_ ?_ | (refine Keeps.app ?_ ?_; focus (simp; done))
    | simp only [Keeps.upd] | simp only [KeepsO.some, KeepsO.none] | refine KeepsO.ite ?_ ?_ | split
    | focus (simp; done)

@[simp] theorem cphWrite_keeps (off v : Nat) (s : State) : KeepsO s (cphWrite off v s) := by
  unfold cphWrite
  repeat' with_reducible first
    | assumption | exact Keeps.refl _ | refine Keeps.ite ?_ ?_ | (refine Keeps.app ?_ ?_; focus (simp; done))
    | simp only [Keeps.upd] | simp only [KeepsO.some, KeepsO.none] | refine KeepsO.ite ?_ ?_ | split
    | focus (simp; done)

@[simp] theorem kecWrite_keeps (off v : Nat) (s : State) : KeepsO s (kecWrite off v s) := by
  unfold kecWrite
  repeat' with_reducible first
    | assumption | exact Keeps.refl _ | refine Keeps.ite ?_ ?_ | (refine Keeps.app ?_ ?_; focus (simp; done))
    | simp only [Keeps.upd] | simp only [KeepsO.some, KeepsO.none] | refine KeepsO.ite ?_ ?_ | split
    | focus (simp; done)

end Sys2Proof.Laws
end

