-- ==== Sys2Proof/Laws/KeepsPower.lean ====
section
/-! SUPPORT. What the operations of Machine/Power.lean keep. -/

namespace Sys2Proof.Laws

open Sys2Proof Sys2Proof.Machine Sys2Proof.Safety

set_option linter.unusedTactic false
set_option linter.unreachableTactic false
set_option linter.unusedSimpArgs false

@[simp] theorem notifyDerate_keeps (arg1 : Nat) (s : State) : Keeps s (notifyDerate arg1 s) := by
  unfold notifyDerate
  repeat' with_reducible first
    | assumption | exact Keeps.refl _ | intro _ | refine Keeps.ite ?_ ?_
    | (refine Keeps.app ?_ ?_; focus (simp; done)) | simp only [Keeps.upd] | refine Keeps.forInsts ?_ ?_
    | refine Keeps.foldl ?_ ?_ | split

@[simp] theorem rebaseAll_keeps (s : State) : Keeps s (rebaseAll s) := by
  unfold rebaseAll
  simp [Keeps.upd]

@[simp] theorem recordWake_keeps (src detail from' : Nat) (s : State) : Keeps s (recordWake src detail from' s) := by
  unfold recordWake
  repeat' with_reducible first
    | assumption | exact Keeps.refl _ | refine Keeps.ite ?_ ?_ | (refine Keeps.app ?_ ?_; focus (simp; done))
    | simp only [Keeps.upd] | split

@[simp] theorem wake_keeps (src detail : Nat) (s : State) : Keeps s (wake src detail s) := by
  unfold wake
  repeat' with_reducible first
    | assumption | exact Keeps.refl _ | refine Keeps.ite ?_ ?_ | (refine Keeps.app ?_ ?_; focus (simp; done))
    | simp only [Keeps.upd] | split

@[simp] theorem setDerate_keeps (s : State) : Keeps s (setDerate s) := by
  unfold setDerate
  repeat' with_reducible first
    | assumption | exact Keeps.refl _ | refine Keeps.ite ?_ ?_ | (refine Keeps.app ?_ ?_; focus (simp; done))
    | simp only [Keeps.upd] | split

@[simp] theorem raiseAdelay_keeps (s : State) : Keeps s (raiseAdelay s) := by
  unfold raiseAdelay
  simp [Keeps.upd]

@[simp] theorem requestTo_keeps (mv : Nat) (s : State) : Keeps s (requestTo mv s) := by
  unfold requestTo
  repeat' with_reducible first
    | assumption | exact Keeps.refl _ | refine Keeps.ite ?_ ?_ | (refine Keeps.app ?_ ?_; focus (simp; done))
    | simp only [Keeps.upd] | split

@[simp] theorem cycleCheck_keeps (cycle : Nat) (s : State) : Keeps s (cycleCheck cycle s) := by
  unfold cycleCheck
  repeat' with_reducible first
    | assumption | exact Keeps.refl _ | refine Keeps.ite ?_ ?_ | (refine Keeps.app ?_ ?_; focus (simp; done))
    | simp only [Keeps.upd] | split

@[simp] theorem modSensor_keeps (n : Nat) (f : Sensor → Sensor) (s : State) : Keeps s (modSensor n f s) := by
  unfold modSensor
  simp [Keeps.upd]

@[simp] theorem thermalRise_keeps (s : State) : Keeps s (thermalRise s) := by
  unfold thermalRise
  repeat' with_reducible first
    | assumption | exact Keeps.refl _ | refine Keeps.ite ?_ ?_ | (refine Keeps.app ?_ ?_; focus (simp; done))
    | simp only [Keeps.upd] | split

@[simp] theorem shutdownAt_keeps (reading : Int) (s : State) : Keeps s (shutdownAt reading s) := by
  unfold shutdownAt
  repeat' with_reducible first
    | assumption | exact Keeps.refl _ | refine Keeps.ite ?_ ?_ | (refine Keeps.app ?_ ?_; focus (simp; done))
    | simp only [Keeps.upd] | split

@[simp] theorem shutdownCheck_keeps (s : State) : Keeps s (shutdownCheck s) := by
  unfold shutdownCheck
  repeat' with_reducible first
    | assumption | exact Keeps.refl _ | refine Keeps.ite ?_ ?_ | (refine Keeps.app ?_ ?_; focus (simp; done))
    | simp only [Keeps.upd] | split

@[simp] theorem measureSite_keeps (n : Nat) (d0 d1 : Int) (s : State) : Keeps s (measureSite n d0 d1 s) := by
  unfold measureSite
  repeat' with_reducible first
    | assumption | exact Keeps.refl _ | refine Keeps.ite ?_ ?_ | (refine Keeps.app ?_ ?_; focus (simp; done))
    | simp only [Keeps.upd] | split

@[simp] theorem measureInput_keeps (n type bad : Nat) (t : Int) (s : State) :
    Keeps s (measureInput n type bad t s) := by
  unfold measureInput
  repeat' with_reducible first
    | assumption | exact Keeps.refl _ | refine Keeps.ite ?_ ?_ | (refine Keeps.app ?_ ?_; focus (simp; done))
    | simp only [Keeps.upd] | split

@[simp] theorem dropFloors_keeps (st : Nat) (s : State) : Keeps s (dropFloors st s) := by
  unfold dropFloors
  repeat' with_reducible first
    | assumption | exact Keeps.refl _ | refine Keeps.ite ?_ ?_ | (refine Keeps.app ?_ ?_; focus (simp; done))
    | simp only [Keeps.upd] | split

@[simp] theorem setTrim_keeps (on : Bool) (s : State) : Keeps s (setTrim on s) := by
  unfold setTrim
  repeat' with_reducible first
    | assumption | exact Keeps.refl _ | refine Keeps.ite ?_ ?_ | (refine Keeps.app ?_ ?_; focus (simp; done))
    | simp only [Keeps.upd] | split

@[simp] theorem exitTrim_keeps (s : State) : Keeps s (exitTrim s) := by
  unfold exitTrim
  repeat' with_reducible first
    | assumption | exact Keeps.refl _ | refine Keeps.ite ?_ ?_ | (refine Keeps.app ?_ ?_; focus (simp; done))
    | simp only [Keeps.upd] | split

@[simp] theorem abandonErases_keeps (s : State) : Keeps s (abandonErases s) := by
  unfold abandonErases
  simp [Keeps.upd]

@[simp] theorem enter_keeps (st : Nat) (s : State) : Keeps s (enter st s) := by
  unfold enter
  repeat' with_reducible first
    | assumption | exact Keeps.refl _ | intro _ | refine Keeps.ite ?_ ?_
    | (refine Keeps.app ?_ ?_; focus (simp; done)) | simp only [Keeps.upd] | refine Keeps.forInsts ?_ ?_
    | refine Keeps.foldl ?_ ?_ | split

@[simp] theorem takePending_keeps (s : State) : Keeps s (takePending s) := by
  unfold takePending
  repeat' with_reducible first
    | assumption | exact Keeps.refl _ | refine Keeps.ite ?_ ?_ | (refine Keeps.app ?_ ?_; focus (simp; done))
    | simp only [Keeps.upd] | split

@[simp] theorem closeEntry_keeps (src detail : Nat) (s : State) : Keeps s (closeEntry src detail s) := by
  unfold closeEntry
  repeat' with_reducible first
    | assumption | exact Keeps.refl _ | refine Keeps.ite ?_ ?_ | (refine Keeps.app ?_ ?_; focus (simp; done))
    | simp only [Keeps.upd] | split

@[simp] theorem endEntry_keeps (src detail : Nat) (s : State) : Keeps s (endEntry src detail s) := by
  unfold endEntry
  repeat' with_reducible first
    | assumption | exact Keeps.refl _ | refine Keeps.ite ?_ ?_ | (refine Keeps.app ?_ ?_; focus (simp; done))
    | simp only [Keeps.upd] | split

@[simp] theorem pwrReq_keeps (v : Nat) (s : State) : Keeps s (pwrReq v s) := by
  unfold pwrReq
  repeat' with_reducible first
    | assumption | exact Keeps.refl _ | refine Keeps.ite ?_ ?_ | (refine Keeps.app ?_ ?_; focus (simp; done))
    | simp only [Keeps.upd] | split

@[simp] theorem pwrPolicy_keeps (v : Nat) (s : State) : Keeps s (pwrPolicy v s) := by
  unfold pwrPolicy
  repeat' with_reducible first
    | assumption | exact Keeps.refl _ | refine Keeps.ite ?_ ?_ | (refine Keeps.app ?_ ?_; focus (simp; done))
    | simp only [Keeps.upd] | split

@[simp] theorem takeHolds_keeps (p n : Nat) (s : State) : Keeps s (takeHolds p n s).2 := by
  induction n generalizing s with
  | zero => exact Keeps.refl s
  | succ n ih =>
    have h := allocBuf_keeps p p false s
    unfold takeHolds
    split <;> rename_i e <;> rw [e] at h
    · exact h
    · exact h.trans (ih _)

@[simp] theorem takeHoldLists_keeps (s : State) : Keeps s (takeHoldLists s) := by
  unfold takeHoldLists
  repeat' with_reducible first
    | assumption | exact Keeps.refl _
    | (intro x; refine (fun (hx : Keeps s x) => ?_) ?_; clear_value x; rotate_left; simp only [x]; clear x)
    | (intro x; refine (fun (hx : KeepsO s x) => ?_) ?_; clear_value x; rotate_left; simp only [x]; clear x)
    | (intro x; refine (fun (hx : KeepsR s x) => ?_) ?_; clear_value x; rotate_left; simp only [x]; clear x)
    | (intro x; refine (fun (hx : Keeps s x.2) => ?_) ?_; clear_value x; rotate_left; simp only [x]; clear x)
    | (intro x; refine (fun (hx : Keeps s x.1) => ?_) ?_; clear_value x; rotate_left; simp only [x]; clear x)
    | (intro (x : Obs); simp only [x]; clear x) | (intro (x : Dmc); simp only [x]; clear x)
    | (intro (x : Cfl); simp only [x]; clear x) | (intro (x : Slt); simp only [x]; clear x)
    | (intro x; clear_value x) | intro (_ : Keeps _ _) | (intro x; simp only [x]; clear x) | intro _ | lift_lets
    | refine Keeps.ite ?_ ?_ | (refine Keeps.app ?_ ?_; focus (simp; done)) | simp only [Keeps.upd, Keeps.updObs]
    | refine Keeps.forInsts ?_ ?_ | refine Keeps.forHeld ?_ ?_ | refine Keeps.foldl ?_ ?_
    | refine Keeps.foldl2 ?_ ?_ | refine Keeps.foldl1 ?_ ?_ | (refine Keeps.app2 ?_ ?_; focus (simp; done))
    | (refine Keeps.app1 ?_ ?_; focus (simp; done)) | dsimp only
    | simp only [KeepsO.some, KeepsO.none, KeepsR.ok, KeepsR.error, KeepsP.some] | refine KeepsO.ite ?_ ?_
    | refine KeepsR.ite ?_ ?_ | refine KeepsP.ite ?_ ?_ | split
    | (refine Keeps.snd (by assumption) ?_ ?_; rotate_left; focus (simp; done))
    | (refine Keeps.fst (by assumption) ?_ ?_; rotate_left; focus (simp; done))
    | (refine KeepsO.of (by assumption) ?_ ?_; rotate_left; focus (simp; done))
    | (refine KeepsP.of (by assumption) ?_ ?_; rotate_left; focus (simp; done)) | focus (simp; done)
    | (refine KeepsR.app ?_ ?_; focus (simp; done))
    | (refine KeepsR.of_ok (by assumption) ?_ ?_; rotate_left; focus (simp; done))
    | (refine KeepsR.of_error (by assumption) ?_ ?_; rotate_left; focus (simp; done))

@[simp] theorem dropHoldLists_keeps (s : State) : Keeps s (dropHoldLists s) := by
  unfold dropHoldLists
  repeat' with_reducible first
    | assumption | exact Keeps.refl _ | refine Keeps.ite ?_ ?_ | (refine Keeps.app ?_ ?_; focus (simp; done))
    | simp only [Keeps.upd] | split

@[simp] theorem commitDeep_keeps (s : State) : Keeps s (commitDeep s) := by
  unfold commitDeep
  repeat' with_reducible first
    | assumption | exact Keeps.refl _ | refine Keeps.ite ?_ ?_ | (refine Keeps.app ?_ ?_; focus (simp; done))
    | simp only [Keeps.upd] | split

@[simp] theorem commitTrim_keeps (s : State) : Keeps s (commitTrim s) := by
  unfold commitTrim
  repeat' with_reducible first
    | assumption | exact Keeps.refl _ | refine Keeps.ite ?_ ?_ | (refine Keeps.app ?_ ?_; focus (simp; done))
    | simp only [Keeps.upd] | split

@[simp] theorem prepareEffect_keeps (o : PrepareOutcome) (s : State) : Keeps s (prepareEffect o s) := by
  unfold prepareEffect
  repeat' with_reducible first
    | assumption | exact Keeps.refl _ | refine Keeps.ite ?_ ?_ | (refine Keeps.app ?_ ?_; focus (simp; done))
    | simp only [Keeps.upd] | split

@[simp] theorem restoreDomains_keeps (s : State) : Keeps s (restoreDomains s) := by
  unfold restoreDomains
  repeat' with_reducible first
    | assumption | exact Keeps.refl _ | refine Keeps.ite ?_ ?_ | (refine Keeps.app ?_ ?_; focus (simp; done))
    | simp only [Keeps.upd] | split

@[simp] theorem leaveDeep_keeps (s : State) : Keeps s (leaveDeep s) := by
  unfold leaveDeep
  repeat' with_reducible first
    | assumption | exact Keeps.refl _ | refine Keeps.ite ?_ ?_ | (refine Keeps.app ?_ ?_; focus (simp; done))
    | simp only [Keeps.upd] | split

@[simp] theorem pwrWrite_keeps (off v : Nat) (s : State) : KeepsO s (pwrWrite off v s) := by
  unfold pwrWrite
  repeat' with_reducible first
    | assumption | exact Keeps.refl _ | refine Keeps.ite ?_ ?_ | (refine Keeps.app ?_ ?_; focus (simp; done))
    | simp only [Keeps.upd] | simp only [KeepsO.some, KeepsO.none] | refine KeepsO.ite ?_ ?_ | split
    | focus (simp; done)

@[simp] theorem junctionRead_keeps (s : State) : Keeps s (junctionRead s).2 := by
  unfold junctionRead
  simp [Keeps.upd]

@[simp] theorem qtzDerate_keeps (v : Nat) (s : State) : Keeps s (qtzDerate v s) := by
  unfold qtzDerate
  repeat' with_reducible first
    | assumption | exact Keeps.refl _ | refine Keeps.ite ?_ ?_ | (refine Keeps.app ?_ ?_; focus (simp; done))
    | simp only [Keeps.upd] | split

@[simp] theorem qtzWrite_keeps (off v : Nat) (s : State) : KeepsO s (qtzWrite off v s) := by
  unfold qtzWrite
  repeat' with_reducible first
    | assumption | exact Keeps.refl _ | refine Keeps.ite ?_ ?_ | (refine Keeps.app ?_ ?_; focus (simp; done))
    | simp only [Keeps.upd] | simp only [KeepsO.some, KeepsO.none] | refine KeepsO.ite ?_ ?_ | split
    | focus (simp; done)

end Sys2Proof.Laws
end

