-- ==== Sys2Proof/Laws/KeepsNand.lean ====
section
/-! SUPPORT. What the operations of Machine/Nand.lean keep. -/

namespace Sys2Proof.Laws

open Sys2Proof Sys2Proof.Machine Sys2Proof.Safety

set_option linter.unusedTactic false
set_option linter.unreachableTactic false
set_option linter.unusedSimpArgs false

@[simp] theorem drainSet_keeps (ds : DieSet) (s : State) : Keeps s (drainSet ds s) := by
  unfold drainSet
  repeat' with_reducible first
    | assumption | exact Keeps.refl _ | refine Keeps.ite ?_ ?_ | (refine Keeps.app ?_ ?_; focus (simp; done))
    | simp only [Keeps.upd] | split

@[simp] theorem rejoinZones_keeps (s : State) : Keeps s (rejoinZones s) := by
  unfold rejoinZones
  repeat' with_reducible first
    | assumption | exact Keeps.refl _
    | (intro x; refine (fun (hx : Keeps s x) => ?_) ?_; clear_value x; rotate_left; simp only [x]; clear x)
    | (intro (x : Dmc); simp only [x]; clear x) | (intro (x : Cfl); simp only [x]; clear x)
    | (intro (x : Slt); simp only [x]; clear x) | (intro x; clear_value x) | intro _ | lift_lets
    | refine Keeps.ite ?_ ?_ | (refine Keeps.app ?_ ?_; focus (simp; done)) | simp only [Keeps.upd]
    | refine Keeps.foldl ?_ ?_ | split

@[simp] theorem housekeep_keeps (s : State) : Keeps s (housekeep s) := by
  unfold housekeep
  repeat' with_reducible first
    | assumption | exact Keeps.refl _
    | (intro x; refine (fun (hx : Keeps s x) => ?_) ?_; clear_value x; rotate_left; simp only [x]; clear x)
    | (intro (x : Dmc); simp only [x]; clear x) | (intro (x : Cfl); simp only [x]; clear x)
    | (intro (x : Slt); simp only [x]; clear x) | (intro x; clear_value x) | intro _ | lift_lets
    | refine Keeps.ite ?_ ?_ | (refine Keeps.app ?_ ?_; focus (simp; done)) | simp only [Keeps.upd]
    | refine Keeps.foldl ?_ ?_ | split

@[simp] theorem placeWaiting_keeps (s : State) : Keeps s (placeWaiting s) := by
  unfold placeWaiting
  repeat' with_reducible first
    | assumption | exact Keeps.refl _ | intro _ | refine Keeps.ite ?_ ?_
    | (refine Keeps.app ?_ ?_; focus (simp; done)) | simp only [Keeps.upd] | refine Keeps.forInsts ?_ ?_
    | refine Keeps.foldl ?_ ?_ | split

@[simp] theorem modNfc_keeps (ch : Nat) (f : Nfc → Nfc) (s : State) : Keeps s (modNfc ch f s) := by
  unfold modNfc
  simp [Keeps.upd]

@[simp] theorem injUsed_keeps (ch : Nat) (s : State) : Keeps s (injUsed ch s) := by
  unfold injUsed
  simp [Keeps.upd]

@[simp] theorem dieNext_keeps (d : Nat) (s : State) : Keeps s (dieNext d s) := by
  unfold dieNext
  repeat' with_reducible first
    | assumption | exact Keeps.refl _ | refine Keeps.ite ?_ ?_ | (refine Keeps.app ?_ ?_; focus (simp; done))
    | simp only [Keeps.upd] | split

@[simp] theorem toLane_keeps (r : ReadReq) (s : State) : Keeps s (toLane r s) := by
  unfold toLane
  repeat' with_reducible first
    | assumption | exact Keeps.refl _ | refine Keeps.ite ?_ ?_ | (refine Keeps.app ?_ ?_; focus (simp; done))
    | simp only [Keeps.upd] | split

@[simp] theorem readLevels_keeps (d : Nat) (pl : Nat × Nat) (stage : Nat) (decoded : Bool) (s : State) :
    Keeps s (readLevels d pl stage decoded s) := by
  unfold readLevels
  repeat' with_reducible first
    | assumption | exact Keeps.refl _ | refine Keeps.ite ?_ ?_ | (refine Keeps.app ?_ ?_; focus (simp; done))
    | simp only [Keeps.upd] | split

@[simp] theorem readGot_keeps (r : ReadReq) (s : State) : Keeps s (readGot r s) := by
  unfold readGot
  repeat' with_reducible first
    | assumption | exact Keeps.refl _ | refine Keeps.ite ?_ ?_ | (refine Keeps.app ?_ ?_; focus (simp; done))
    | simp only [Keeps.upd] | split

@[simp] theorem lessNeed_keeps (r : ReadReq) (n : Nat) (s : State) : Keeps s (lessNeed r n s) := by
  unfold lessNeed
  repeat' with_reducible first
    | assumption | exact Keeps.refl _ | refine Keeps.ite ?_ ?_ | (refine Keeps.app ?_ ?_; focus (simp; done))
    | simp only [Keeps.upd] | split

@[simp] theorem reconDone_keeps (r : ReadReq) (s : State) : Keeps s (reconDone r s) := by
  unfold reconDone
  repeat' with_reducible first
    | assumption | exact Keeps.refl _ | refine Keeps.ite ?_ ?_ | (refine Keeps.app ?_ ?_; focus (simp; done))
    | simp only [Keeps.upd] | split

@[simp] theorem memberDone_keeps (r : ReadReq) (o : ReadOutcome) (s : State) : Keeps s (memberDone r o s) := by
  unfold memberDone
  repeat' with_reducible first
    | assumption | exact Keeps.refl _ | refine Keeps.ite ?_ ?_ | (refine Keeps.app ?_ ?_; focus (simp; done))
    | simp only [Keeps.upd] | split

@[simp] theorem stageFive_keeps (r : ReadReq) (pl : Nat × Nat) (s : State) : Keeps s (stageFive r pl s) := by
  unfold stageFive
  repeat' with_reducible first
    | assumption | exact Keeps.refl _ | refine Keeps.ite ?_ ?_ | (refine Keeps.app ?_ ?_; focus (simp; done))
    | simp only [Keeps.upd] | split

@[simp] theorem readDone_keeps (d : Nat) (r : ReadReq) (o : ReadOutcome) (s : State) : Keeps s (readDone d r o s) := by
  unfold readDone
  repeat' with_reducible first
    | assumption | exact Keeps.refl _ | refine Keeps.ite ?_ ?_ | (refine Keeps.app ?_ ?_; focus (simp; done))
    | simp only [Keeps.upd] | split

@[simp] theorem nandReadCompleteEffect_keeps (die : Fin 4096) (plane : Fin 4) (o : ReadOutcome) (s : State) :
    Keeps s (nandReadCompleteEffect die plane o s) := by
  unfold nandReadCompleteEffect
  repeat' with_reducible first
    | assumption | exact Keeps.refl _ | refine Keeps.ite ?_ ?_ | (refine Keeps.app ?_ ?_; focus (simp; done))
    | simp only [Keeps.upd] | split

@[simp] theorem swapFailed_keeps (n d new : Nat) (s : State) : Keeps s (swapFailed n d new s) := by
  unfold swapFailed
  repeat' with_reducible first
    | assumption | exact Keeps.refl _ | refine Keeps.ite ?_ ?_ | (refine Keeps.app ?_ ?_; focus (simp; done))
    | simp only [Keeps.upd] | split

@[simp] theorem applyItem_keeps (pr : Prog) (slc : Bool) (it : BlkKey × Nat × Nat) (s : State) :
    Keeps s (applyItem pr slc it s) := by
  unfold applyItem
  repeat' with_reducible first
    | assumption | exact Keeps.refl _ | refine Keeps.ite ?_ ?_ | (refine Keeps.app ?_ ?_; focus (simp; done))
    | simp only [Keeps.upd] | split

@[simp] theorem applyProg_keeps (n : Nat) (s : State) : Keeps s (applyProg n s) := by
  unfold applyProg
  repeat' with_reducible first
    | assumption | exact Keeps.refl _
    | (intro x; refine (fun (hx : Keeps s x) => ?_) ?_; clear_value x; rotate_left; simp only [x]; clear x)
    | (intro (x : Dmc); simp only [x]; clear x) | (intro (x : Cfl); simp only [x]; clear x)
    | (intro (x : Slt); simp only [x]; clear x) | (intro x; clear_value x) | intro _ | lift_lets
    | refine Keeps.ite ?_ ?_ | (refine Keeps.app ?_ ?_; focus (simp; done)) | simp only [Keeps.upd]
    | refine Keeps.foldl ?_ ?_ | split

@[simp] theorem progDone_keeps (n : Nat) (s : State) : Keeps s (progDone n s) := by
  unfold progDone
  repeat' with_reducible first
    | assumption | exact Keeps.refl _
    | (intro x; refine (fun (hx : Keeps s x) => ?_) ?_; clear_value x; rotate_left; simp only [x]; clear x)
    | (intro (x : Dmc); simp only [x]; clear x) | (intro (x : Cfl); simp only [x]; clear x)
    | (intro (x : Slt); simp only [x]; clear x) | (intro x; clear_value x) | intro _ | lift_lets
    | refine Keeps.ite ?_ ?_ | (refine Keeps.app ?_ ?_; focus (simp; done)) | simp only [Keeps.upd]
    | refine Keeps.foldl ?_ ?_ | split

@[simp] theorem progFails_keeps (n d : Nat) (s : State) : Keeps s (progFails n d s) := by
  unfold progFails
  repeat' with_reducible first
    | assumption | exact Keeps.refl _ | refine Keeps.ite ?_ ?_ | (refine Keeps.app ?_ ?_; focus (simp; done))
    | simp only [Keeps.upd] | split

@[simp] theorem progEnds_keeps (n d : Nat) (pass : Bool) (s : State) : Keeps s (progEnds n d pass s) := by
  unfold progEnds
  repeat' with_reducible first
    | assumption | exact Keeps.refl _ | refine Keeps.ite ?_ ?_ | (refine Keeps.app ?_ ?_; focus (simp; done))
    | simp only [Keeps.upd] | split

@[simp] theorem clearOp_keeps (d : Nat) (s : State) : Keeps s (clearOp d s) := by
  unfold clearOp
  simp [Keeps.upd]

@[simp] theorem programComplete_keeps (d : Nat) (pass : Bool) (s : State) : Keeps s (programComplete d pass s) := by
  unfold programComplete
  repeat' with_reducible first
    | assumption | exact Keeps.refl _ | refine Keeps.ite ?_ ?_ | (refine Keeps.app ?_ ?_; focus (simp; done))
    | simp only [Keeps.upd] | split

@[simp] theorem nandProgramCompleteEffect_keeps (die : Fin 4096) (pass : Bool) (s : State) :
    Keeps s (nandProgramCompleteEffect die pass s) := by
  unfold nandProgramCompleteEffect
  simp [Keeps.upd]

@[simp] theorem eraseEnds_keeps (d b : Nat) (pass : Bool) (s : State) : Keeps s (eraseEnds d b pass s) := by
  unfold eraseEnds
  repeat' with_reducible first
    | assumption | exact Keeps.refl _ | refine Keeps.ite ?_ ?_ | (refine Keeps.app ?_ ?_; focus (simp; done))
    | simp only [Keeps.upd] | split

@[simp] theorem eraseComplete_keeps (d : Nat) (pass : Bool) (s : State) : Keeps s (eraseComplete d pass s) := by
  unfold eraseComplete
  repeat' with_reducible first
    | assumption | exact Keeps.refl _ | refine Keeps.ite ?_ ?_ | (refine Keeps.app ?_ ?_; focus (simp; done))
    | simp only [Keeps.upd] | split

@[simp] theorem nandEraseCompleteEffect_keeps (die : Fin 4096) (pass : Bool) (s : State) :
    Keeps s (nandEraseCompleteEffect die pass s) := by
  unfold nandEraseCompleteEffect
  simp [Keeps.upd]

@[simp] theorem operationLimitEffect_keeps (die : Fin 4096) (s : State) : Keeps s (operationLimitEffect die s) := by
  unfold operationLimitEffect
  repeat' with_reducible first
    | assumption | exact Keeps.refl _ | refine Keeps.ite ?_ ?_ | (refine Keeps.app ?_ ?_; focus (simp; done))
    | simp only [Keeps.upd] | split

@[simp] theorem dieResetAnsweredEffect_keeps (die : Fin 4096) (s : State) :
    Keeps s (dieResetAnsweredEffect die s) := by
  unfold dieResetAnsweredEffect
  repeat' with_reducible first
    | assumption | exact Keeps.refl _ | refine Keeps.ite ?_ ?_ | (refine Keeps.app ?_ ?_; focus (simp; done))
    | simp only [Keeps.upd] | split

@[simp] theorem dieResetTimeoutEffect_keeps (die : Fin 4096) (s : State) : Keeps s (dieResetTimeoutEffect die s) := by
  unfold dieResetTimeoutEffect
  repeat' with_reducible first
    | assumption | exact Keeps.refl _ | refine Keeps.ite ?_ ?_ | (refine Keeps.app ?_ ?_; focus (simp; done))
    | simp only [Keeps.upd] | split

@[simp] theorem dieSuspendedEffect_keeps (die : Fin 4096) (s : State) : Keeps s (dieSuspendedEffect die s) := by
  unfold dieSuspendedEffect
  repeat' with_reducible first
    | assumption | exact Keeps.refl _ | refine Keeps.ite ?_ ?_ | (refine Keeps.app ?_ ?_; focus (simp; done))
    | simp only [Keeps.upd] | split

@[simp] theorem suspensionTimeoutEffect_keeps (die : Fin 4096) (s : State) :
    Keeps s (suspensionTimeoutEffect die s) := by
  unfold suspensionTimeoutEffect
  repeat' with_reducible first
    | assumption | exact Keeps.refl _
    | (intro x; refine (fun (hx : Keeps s x) => ?_) ?_; clear_value x; rotate_left; simp only [x]; clear x)
    | (intro (x : Dmc); simp only [x]; clear x) | (intro (x : Cfl); simp only [x]; clear x)
    | (intro (x : Slt); simp only [x]; clear x) | (intro x; clear_value x) | intro _ | lift_lets
    | refine Keeps.ite ?_ ?_ | (refine Keeps.app ?_ ?_; focus (simp; done)) | simp only [Keeps.upd]
    | refine Keeps.foldl ?_ ?_ | split

@[simp] theorem suspensionCapReachedEffect_keeps (die : Fin 4096) (s : State) :
    Keeps s (suspensionCapReachedEffect die s) := by
  unfold suspensionCapReachedEffect
  repeat' with_reducible first
    | assumption | exact Keeps.refl _ | refine Keeps.ite ?_ ?_ | (refine Keeps.app ?_ ?_; focus (simp; done))
    | simp only [Keeps.upd] | split

@[simp] theorem stagingExtentTimeoutEffect_keeps (i : Fin 1024) (zone : U32) (s : State) :
    Keeps s (stagingExtentTimeoutEffect i zone s) := by
  unfold stagingExtentTimeoutEffect
  repeat' with_reducible first
    | assumption | exact Keeps.refl _ | refine Keeps.ite ?_ ?_ | (refine Keeps.app ?_ ?_; focus (simp; done))
    | simp only [Keeps.upd] | split

@[simp] theorem scrubRead_keeps (k : BlkKey) (o : ScrubOutcome) (s : State) : Keeps s (scrubRead k o s) := by
  unfold scrubRead
  repeat' with_reducible first
    | assumption | exact Keeps.refl _ | refine Keeps.ite ?_ ?_ | (refine Keeps.app ?_ ?_; focus (simp; done))
    | simp only [Keeps.upd] | split

@[simp] theorem patrolScrubEffect_keeps (i : Fin 1024) (conv : Bool) (addr : U64) (o : ScrubOutcome) (s : State) :
    Keeps s (patrolScrubEffect i conv addr o s) := by
  unfold patrolScrubEffect
  repeat' with_reducible first
    | assumption | exact Keeps.refl _ | refine Keeps.ite ?_ ?_ | (refine Keeps.app ?_ ?_; focus (simp; done))
    | simp only [Keeps.upd] | split

@[simp] theorem rebuildCompleteEffect_keeps (die : Fin 4096) (s : State) : Keeps s (rebuildCompleteEffect die s) := by
  unfold rebuildCompleteEffect
  repeat' with_reducible first
    | assumption | exact Keeps.refl _ | refine Keeps.ite ?_ ?_ | (refine Keeps.app ?_ ?_; focus (simp; done))
    | simp only [Keeps.upd] | split

@[simp] theorem failChannel_keeps (ch access master addr : Nat) (s : State) :
    Keeps s (failChannel ch access master addr s) := by
  unfold failChannel
  repeat' with_reducible first
    | assumption | exact Keeps.refl _ | refine Keeps.ite ?_ ?_ | (refine Keeps.app ?_ ?_; focus (simp; done))
    | simp only [Keeps.upd] | split

@[simp] theorem retrainCh_keeps (ch : Nat) (ok : Bool) (s : State) : Keeps s (retrainCh ch ok s) := by
  unfold retrainCh
  repeat' with_reducible first
    | assumption | exact Keeps.refl _ | refine Keeps.ite ?_ ?_ | (refine Keeps.app ?_ ?_; focus (simp; done))
    | simp only [Keeps.upd] | split

@[simp] theorem nfcCtrl_keeps (ch v : Nat) (ok : Bool) (s : State) : Keeps s (nfcCtrl ch v ok s) := by
  unfold nfcCtrl
  repeat' with_reducible first
    | assumption | exact Keeps.refl _ | refine Keeps.ite ?_ ?_ | (refine Keeps.app ?_ ?_; focus (simp; done))
    | simp only [Keeps.upd] | split

@[simp] theorem nfcInj_keeps (ch v : Nat) (s : State) : Keeps s (nfcInj ch v s) := by
  unfold nfcInj
  repeat' with_reducible first
    | assumption | exact Keeps.refl _ | refine Keeps.ite ?_ ?_ | (refine Keeps.app ?_ ?_; focus (simp; done))
    | simp only [Keeps.upd] | split

@[simp] theorem nfcWrite_keeps (off v : Nat) (s : State) : KeepsO s (nfcWrite off v s) := by
  unfold nfcWrite
  repeat' with_reducible first
    | assumption | exact Keeps.refl _ | refine Keeps.ite ?_ ?_ | (refine Keeps.app ?_ ?_; focus (simp; done))
    | simp only [Keeps.upd] | simp only [KeepsO.some, KeepsO.none] | refine KeepsO.ite ?_ ?_ | split
    | focus (simp; done)

@[simp] theorem medWrite_keeps (off v : Nat) (s : State) : KeepsO s (medWrite off v s) := by
  unfold medWrite
  repeat' with_reducible first
    | assumption | exact Keeps.refl _ | refine Keeps.ite ?_ ?_ | (refine Keeps.app ?_ ?_; focus (simp; done))
    | simp only [Keeps.upd] | simp only [KeepsO.some, KeepsO.none] | refine KeepsO.ite ?_ ?_ | split
    | focus (simp; done)

end Sys2Proof.Laws
end

