-- ==== Sys2Proof/Laws/KeepsLine.lean ====
section
/-! SUPPORT. What the operations of Machine/Line.lean keep. -/

namespace Sys2Proof.Laws

open Sys2Proof Sys2Proof.Machine Sys2Proof.Safety

set_option linter.unusedTactic false
set_option linter.unreachableTactic false
set_option linter.unusedSimpArgs false

@[simp] theorem breakSensor_keeps (n : Nat) (s : State) : Keeps s (breakSensor n s) := by
  unfold breakSensor
  repeat' with_reducible first
    | assumption | exact Keeps.refl _ | refine Keeps.ite ?_ ?_ | (refine Keeps.app ?_ ?_; focus (simp; done))
    | simp only [Keeps.upd] | simp only [KeepsO.some, KeepsO.none] | refine KeepsO.ite ?_ ?_ | split
    | focus (simp; done)

@[simp] theorem handlePart_keeps (src : Nat) (s : State) : Keeps s (handlePart src s) := by
  unfold handlePart
  repeat' with_reducible first
    | assumption | exact Keeps.refl _ | refine Keeps.ite ?_ ?_ | (refine Keeps.app ?_ ?_; focus (simp; done))
    | simp only [Keeps.upd] | split

@[simp] theorem lineError_keeps (src access master addr : Nat) (s : State) :
    Keeps s (lineError src access master addr s) := by
  unfold lineError
  repeat' with_reducible first
    | assumption | exact Keeps.refl _ | refine Keeps.ite ?_ ?_ | (refine Keeps.app ?_ ?_; focus (simp; done))
    | simp only [Keeps.upd] | split

@[simp] theorem faultLineErrorEffect_keeps (src : Fin 384) (addr : U64) (master : Byte) (access : BitVec 4) (s : State) :
    Keeps s (faultLineErrorEffect src addr master access s) := by
  unfold faultLineErrorEffect
  repeat' with_reducible first
    | assumption | exact Keeps.refl _ | refine Keeps.ite ?_ ?_ | (refine Keeps.app ?_ ?_; focus (simp; done))
    | simp only [Keeps.upd] | split

@[simp] theorem handshakeTimeoutEffect_keeps (src : Fin 384) (stage : U64) (master : Byte) (s : State) :
    Keeps s (handshakeTimeoutEffect src stage master s) := by
  unfold handshakeTimeoutEffect
  repeat' with_reducible first
    | assumption | exact Keeps.refl _ | refine Keeps.ite ?_ ?_ | (refine Keeps.app ?_ ?_; focus (simp; done))
    | simp only [Keeps.upd] | split

@[simp] theorem lineBroken_keeps (src master : Nat) (s : State) : Keeps s (lineBroken src master s) := by
  unfold lineBroken
  repeat' with_reducible first
    | assumption | exact Keeps.refl _ | refine Keeps.ite ?_ ?_ | (refine Keeps.app ?_ ?_; focus (simp; done))
    | simp only [Keeps.upd] | split

@[simp] theorem lineBrokenEffect_keeps (src : Fin 384) (s : State) : Keeps s (lineBrokenEffect src s) := by
  unfold lineBrokenEffect
  repeat' with_reducible first
    | assumption | exact Keeps.refl _ | refine Keeps.ite ?_ ?_ | (refine Keeps.app ?_ ?_; focus (simp; done))
    | simp only [Keeps.upd] | split

@[simp] theorem haltNow_keeps (s : State) : Keeps s (haltNow s) := by
  unfold haltNow
  simp [Keeps.upd]

@[simp] theorem countNotice_keeps (f : Fault') (s : State) : Keeps s (countNotice f s) := by
  unfold countNotice
  repeat' with_reducible first
    | assumption | exact Keeps.refl _ | refine Keeps.ite ?_ ?_ | (refine Keeps.app ?_ ?_; focus (simp; done))
    | simp only [Keeps.upd] | split

@[simp] theorem takeFault_keeps (time : Nat) (simul : Bool) (f : Fault') (s : State) :
    Keeps s (takeFault time simul f s) := by
  unfold takeFault
  repeat' with_reducible first
    | assumption | exact Keeps.refl _ | refine Keeps.ite ?_ ?_ | (refine Keeps.app ?_ ?_; focus (simp; done))
    | simp only [Keeps.upd] | split

@[simp] theorem captureWindowCloseEffect_keeps (s : State) : Keeps s (captureWindowCloseEffect s) := by
  unfold captureWindowCloseEffect
  repeat' with_reducible first
    | assumption | exact Keeps.refl _
    | (intro x; refine (fun (hx : Keeps s x) => ?_) ?_; clear_value x; rotate_left; simp only [x]; clear x)
    | (intro (x : Dmc); simp only [x]; clear x) | (intro (x : Cfl); simp only [x]; clear x)
    | (intro (x : Slt); simp only [x]; clear x) | (intro x; clear_value x) | intro _ | lift_lets
    | refine Keeps.ite ?_ ?_ | (refine Keeps.app ?_ ?_; focus (simp; done)) | simp only [Keeps.upd]
    | refine Keeps.foldl ?_ ?_ | split

@[simp] theorem fclStatus_keeps (v : Nat) (s : State) : Keeps s (fclStatus v s) := by
  unfold fclStatus
  simp [Keeps.upd]

@[simp] theorem fclCtrl_keeps (v : Nat) (s : State) : Keeps s (fclCtrl v s) := by
  unfold fclCtrl
  repeat' with_reducible first
    | assumption | exact Keeps.refl _ | refine Keeps.ite ?_ ?_ | (refine Keeps.app ?_ ?_; focus (simp; done))
    | simp only [Keeps.upd] | split

@[simp] theorem fclInj_keeps (v : Nat) (s : State) : Keeps s (fclInj v s) := by
  unfold fclInj
  repeat' with_reducible first
    | assumption | exact Keeps.refl _
    | (intro x; refine (fun (hx : Keeps s x) => ?_) ?_; clear_value x; rotate_left; simp only [x]; clear x)
    | (intro (x : Dmc); simp only [x]; clear x) | (intro (x : Cfl); simp only [x]; clear x)
    | (intro (x : Slt); simp only [x]; clear x) | (intro x; clear_value x) | lift_lets | refine Keeps.ite ?_ ?_
    | (refine Keeps.app ?_ ?_; focus (simp; done)) | simp only [Keeps.upd]
    | (refine Keeps.app2 ?_ ?_; focus (simp; done)) | (refine Keeps.app1 ?_ ?_; focus (simp; done)) | dsimp only
    | split | (refine Keeps.snd (by assumption) ?_ ?_; rotate_left; focus (simp; done))
    | (refine Keeps.fst (by assumption) ?_ ?_; rotate_left; focus (simp; done))

@[simp] theorem fclWrite_keeps (off v : Nat) (s : State) : KeepsO s (fclWrite off v s) := by
  unfold fclWrite
  repeat' with_reducible first
    | assumption | exact Keeps.refl _ | refine Keeps.ite ?_ ?_ | (refine Keeps.app ?_ ?_; focus (simp; done))
    | simp only [Keeps.upd] | simp only [KeepsO.some, KeepsO.none] | refine KeepsO.ite ?_ ?_ | split
    | focus (simp; done)

@[simp] theorem faultInjectionEffect_keeps (v : U32) (s : State) : Keeps s (faultInjectionEffect v s) := by
  unfold faultInjectionEffect
  simp [Keeps.upd]

end Sys2Proof.Laws
end

