-- ==== Sys2Proof/Laws/KeepsTxn.lean ====
section
/-! SUPPORT. What the operations of Machine/Txn.lean keep. -/

namespace Sys2Proof.Laws

open Sys2Proof Sys2Proof.Machine Sys2Proof.Safety

set_option linter.unusedTactic false
set_option linter.unreachableTactic false
set_option linter.unusedSimpArgs false

@[simp] theorem stageRec_keeps (rtype inst txn desc body : Nat) (s : State) :
    Keeps s (stageRec rtype inst txn desc body s) := by
  unfold stageRec
  simp [Keeps.upd]

@[simp] theorem unstage_keeps (desc : Nat) (s : State) : Keeps s (unstage desc s) := by
  unfold unstage
  simp [Keeps.upd]

@[simp] theorem kickPage_keeps (s : State) : Keeps s (kickPage s) := by
  unfold kickPage
  repeat' with_reducible first
    | assumption | exact Keeps.refl _ | refine Keeps.ite ?_ ?_ | (refine Keeps.app ?_ ?_; focus (simp; done))
    | simp only [Keeps.upd] | simp only [KeepsO.some, KeepsO.none] | refine KeepsO.ite ?_ ?_ | split
    | focus (simp; done)

@[simp] theorem programPage_keeps (p : JPage) (s : State) : Keeps s (programPage p s) := by
  unfold programPage
  simp [Keeps.upd]

@[simp] theorem modZone_keeps (i z : Nat) (f : Zone → Zone) (s : State) : Keeps s (modZone i z f s) := by
  unfold modZone
  simp [Keeps.upd]

@[simp] theorem bindZone_keeps (i z key : Nat) (hint : Byte) (s : State) : Keeps s (bindZone i z key hint s) := by
  unfold bindZone
  repeat' with_reducible first
    | assumption | exact Keeps.refl _ | refine Keeps.ite ?_ ?_ | (refine Keeps.app ?_ ?_; focus (simp; done))
    | simp only [Keeps.upd] | split

@[simp] theorem dropNatives_keeps (i n : Nat) (s : State) : Keeps s (dropNatives i n s) := by
  unfold dropNatives
  simp [Keeps.upd]

@[simp] theorem closeZoneSb_keeps (i z : Nat) (s : State) : Keeps s (closeZoneSb i z s) := by
  unfold closeZoneSb
  repeat' with_reducible first
    | assumption | exact Keeps.refl _ | refine Keeps.ite ?_ ?_ | (refine Keeps.app ?_ ?_; focus (simp; done))
    | simp only [Keeps.upd] | split

@[simp] theorem emptyZone_keeps (i z : Nat) (s : State) : Keeps s (emptyZone i z s) := by
  unfold emptyZone
  repeat' with_reducible first
    | assumption | exact Keeps.refl _ | refine Keeps.ite ?_ ?_ | (refine Keeps.app ?_ ?_; focus (simp; done))
    | simp only [Keeps.upd] | split

@[simp] theorem finishZone_keeps (i z : Nat) (s : State) : Keeps s (finishZone i z s) := by
  unfold finishZone
  repeat' with_reducible first
    | assumption | exact Keeps.refl _ | refine Keeps.ite ?_ ?_ | (refine Keeps.app ?_ ?_; focus (simp; done))
    | simp only [Keeps.upd] | split

@[simp] theorem modHeld_keeps (desc i : Nat) (f : Zone → Zone) (s : State) : Keeps s (modHeld desc i f s) := by
  unfold modHeld
  simp [Keeps.upd]

@[simp] theorem freeZones_keeps (desc i : Nat) (s : State) : Keeps s (freeZones desc i s) := by
  unfold freeZones
  simp [Keeps.upd]

@[simp] theorem wastePending_keeps (desc i : Nat) (s : State) : Keeps s (wastePending desc i s) := by
  unfold wastePending
  repeat' with_reducible first
    | assumption | exact Keeps.refl _ | refine Keeps.ite ?_ ?_ | (refine Keeps.app ?_ ?_; focus (simp; done))
    | simp only [Keeps.upd] | split

@[simp] theorem deviceAbort_keeps (desc cause : Nat) (s : State) : Keeps s (deviceAbort desc cause s) := by
  unfold deviceAbort
  repeat' with_reducible first
    | assumption | exact Keeps.refl _ | refine Keeps.ite ?_ ?_ | (refine Keeps.app ?_ ?_; focus (simp; done))
    | simp only [Keeps.upd] | split

@[simp] theorem offlineZone_keeps (i z : Nat) (s : State) : Keeps s (offlineZone i z s) := by
  unfold offlineZone
  repeat' with_reducible first
    | assumption | exact Keeps.refl _ | refine Keeps.ite ?_ ?_ | (refine Keeps.app ?_ ?_; focus (simp; done))
    | simp only [Keeps.upd] | split

@[simp] theorem clearZone_keeps (i z : Nat) (s : State) : Keeps s (clearZone i z s) := by
  unfold clearZone
  repeat' with_reducible first
    | assumption | exact Keeps.refl _ | refine Keeps.ite ?_ ?_ | (refine Keeps.app ?_ ?_; focus (simp; done))
    | simp only [Keeps.upd] | split

@[simp] theorem resetZone_keeps (i z : Nat) (s : State) : Keeps s (resetZone i z s) := by
  unfold resetZone
  repeat' with_reducible first
    | assumption | exact Keeps.refl _ | refine Keeps.ite ?_ ?_ | (refine Keeps.app ?_ ?_; focus (simp; done))
    | simp only [Keeps.upd] | split

@[simp] theorem openZone_keeps (i z key : Nat) (hint : Byte) (s : State) : Keeps s (openZone i z key hint s) := by
  unfold openZone
  repeat' with_reducible first
    | assumption | exact Keeps.refl _ | refine Keeps.ite ?_ ?_ | (refine Keeps.app ?_ ?_; focus (simp; done))
    | simp only [Keeps.upd] | split

@[simp] theorem closeZone_keeps (i z : Nat) (s : State) : Keeps s (closeZone i z s) := by
  unfold closeZone
  repeat' with_reducible first
    | assumption | exact Keeps.refl _ | refine Keeps.ite ?_ ?_ | (refine Keeps.app ?_ ?_; focus (simp; done))
    | simp only [Keeps.upd] | split

@[simp] theorem zoneOp_keeps (i op z key : Nat) (hint : Byte) (s : State) : Keeps s (zoneOp i op z key hint s) := by
  unfold zoneOp
  repeat' with_reducible first
    | assumption | exact Keeps.refl _ | refine Keeps.ite ?_ ?_ | (refine Keeps.app ?_ ?_; focus (simp; done))
    | simp only [Keeps.upd] | split

@[simp] theorem zonesUnmapped_keeps (s : State) : Keeps s (zonesUnmapped s) := by
  unfold zonesUnmapped
  repeat' with_reducible first
    | assumption | exact Keeps.refl _
    | (intro x; refine (fun (hx : Keeps s x) => ?_) ?_; clear_value x; rotate_left; simp only [x]; clear x)
    | (intro (x : Dmc); simp only [x]; clear x) | (intro (x : Cfl); simp only [x]; clear x)
    | (intro (x : Slt); simp only [x]; clear x) | (intro x; clear_value x) | intro _ | lift_lets
    | refine Keeps.ite ?_ ?_ | (refine Keeps.app ?_ ?_; focus (simp; done)) | simp only [Keeps.upd]
    | refine Keeps.foldl ?_ ?_ | split

@[simp] theorem zonesSpent_keeps (s : State) : Keeps s (zonesSpent s) := by
  unfold zonesSpent
  repeat' with_reducible first
    | assumption | exact Keeps.refl _
    | (intro x; refine (fun (hx : Keeps s x) => ?_) ?_; clear_value x; rotate_left; simp only [x]; clear x)
    | (intro (x : Dmc); simp only [x]; clear x) | (intro (x : Cfl); simp only [x]; clear x)
    | (intro (x : Slt); simp only [x]; clear x) | (intro x; clear_value x) | intro _ | lift_lets
    | refine Keeps.ite ?_ ?_ | (refine Keeps.app ?_ ?_; focus (simp; done)) | simp only [Keeps.upd]
    | refine Keeps.foldl ?_ ?_ | split

@[simp] theorem zonesOffline_keeps (s : State) : Keeps s (zonesOffline s) := by
  unfold zonesOffline
  repeat' with_reducible first
    | assumption | exact Keeps.refl _
    | (intro x; refine (fun (hx : Keeps s x) => ?_) ?_; clear_value x; rotate_left; simp only [x]; clear x)
    | (intro (x : Dmc); simp only [x]; clear x) | (intro (x : Cfl); simp only [x]; clear x)
    | (intro (x : Slt); simp only [x]; clear x) | (intro x; clear_value x) | intro _ | lift_lets
    | refine Keeps.ite ?_ ?_ | (refine Keeps.app ?_ ?_; focus (simp; done)) | simp only [Keeps.upd]
    | refine Keeps.foldl ?_ ?_ | split

@[simp] theorem storeZone_keeps (i z key pos : Nat) (hint : Byte) (desc : Option Nat) (l : List DataFrame) (s : State) :
    Keeps s (storeZone i z key pos hint desc l s) := by
  unfold storeZone
  repeat' with_reducible first
    | assumption | exact Keeps.refl _
    | (intro x; refine (fun (hx : Keeps s x) => ?_) ?_; clear_value x; rotate_left; simp only [x]; clear x)
    | (intro (x : Dmc); simp only [x]; clear x) | (intro (x : Cfl); simp only [x]; clear x)
    | (intro (x : Slt); simp only [x]; clear x) | (intro x; clear_value x) | intro _ | lift_lets
    | refine Keeps.ite ?_ ?_ | (refine Keeps.app ?_ ?_; focus (simp; done)) | simp only [Keeps.upd]
    | refine Keeps.foldl ?_ ?_ | split

@[simp] theorem storeConv_keeps (i blk key pos : Nat) (hint : Byte) (l : List DataFrame) (s : State) :
    Keeps s (storeConv i blk key pos hint l s) := by
  unfold storeConv
  repeat' with_reducible first
    | assumption | exact Keeps.refl _
    | (intro x; refine (fun (hx : Keeps s x) => ?_) ?_; clear_value x; rotate_left; simp only [x]; clear x)
    | (intro (x : Dmc); simp only [x]; clear x) | (intro (x : Cfl); simp only [x]; clear x)
    | (intro (x : Slt); simp only [x]; clear x) | (intro x; clear_value x) | intro _ | lift_lets
    | refine Keeps.ite ?_ ?_ | (refine Keeps.app ?_ ?_; focus (simp; done)) | simp only [Keeps.upd]
    | refine Keeps.foldl ?_ ?_ | split

@[simp] theorem beginTxn_keeps (i txn timeout : Nat) (seq : U32) (s : State) :
    Keeps s (beginTxn i txn timeout seq s) := by
  unfold beginTxn
  repeat' with_reducible first
    | assumption | exact Keeps.refl _ | refine Keeps.ite ?_ ?_ | (refine Keeps.app ?_ ?_; focus (simp; done))
    | simp only [Keeps.upd] | split

@[simp] theorem addMember_keeps (i desc : Nat) (m : Member) (s : State) : Keeps s (addMember i desc m s) := by
  unfold addMember
  repeat' with_reducible first
    | assumption | exact Keeps.refl _ | refine Keeps.ite ?_ ?_ | (refine Keeps.app ?_ ?_; focus (simp; done))
    | simp only [Keeps.upd] | split

@[simp] theorem applyMember_keeps (i : Nat) (m : Member) (s : State) : Keeps s (applyMember i m s) := by
  unfold applyMember
  repeat' with_reducible first
    | assumption | exact Keeps.refl _ | refine Keeps.ite ?_ ?_ | (refine Keeps.app ?_ ?_; focus (simp; done))
    | simp only [Keeps.upd] | split

@[simp] theorem commitTxn_keeps (i desc slot pos : Nat) (seq : U32) (counter : Nat) (s : State) :
    Keeps s (commitTxn i desc slot pos seq counter s) := by
  unfold commitTxn
  repeat' with_reducible first
    | assumption | exact Keeps.refl _
    | (intro x; refine (fun (hx : Keeps s x) => ?_) ?_; clear_value x; rotate_left; simp only [x]; clear x)
    | (intro (x : Dmc); simp only [x]; clear x) | (intro (x : Cfl); simp only [x]; clear x)
    | (intro (x : Slt); simp only [x]; clear x) | (intro x; clear_value x) | intro _ | lift_lets
    | refine Keeps.ite ?_ ?_ | (refine Keeps.app ?_ ?_; focus (simp; done)) | simp only [Keeps.upd]
    | refine Keeps.foldl ?_ ?_ | split

@[simp] theorem abortTxn_keeps (i desc : Nat) (seq : U32) (s : State) : Keeps s (abortTxn i desc seq s) := by
  unfold abortTxn
  repeat' with_reducible first
    | assumption | exact Keeps.refl _ | refine Keeps.ite ?_ ?_ | (refine Keeps.app ?_ ?_; focus (simp; done))
    | simp only [Keeps.upd] | split

@[simp] theorem dropUndo_keeps (desc : Nat) (s : State) : Keeps s (dropUndo desc s) := by
  unfold dropUndo
  repeat' with_reducible first
    | assumption | exact Keeps.refl _
    | (intro x; refine (fun (hx : Keeps s x) => ?_) ?_; clear_value x; rotate_left; simp only [x]; clear x)
    | (intro (x : Dmc); simp only [x]; clear x) | (intro (x : Cfl); simp only [x]; clear x)
    | (intro (x : Slt); simp only [x]; clear x) | (intro x; clear_value x) | intro _ | lift_lets
    | refine Keeps.ite ?_ ?_ | (refine Keeps.app ?_ ?_; focus (simp; done)) | simp only [Keeps.upd]
    | refine Keeps.foldl ?_ ?_ | split

@[simp] theorem freeDescriptor_keeps (desc : Nat) (s : State) : Keeps s (freeDescriptor desc s) := by
  unfold freeDescriptor
  repeat' with_reducible first
    | assumption | exact Keeps.refl _ | refine Keeps.ite ?_ ?_ | (refine Keeps.app ?_ ?_; focus (simp; done))
    | simp only [Keeps.upd] | split

@[simp] theorem dropHold_keeps (desc : Nat) (s : State) : Keeps s (dropHold desc s) := by
  unfold dropHold
  simp [Keeps.upd]

end Sys2Proof.Laws
end

