-- ==== Sys2Proof/Laws/KeepsAccept.lean ====
section
/-! SUPPORT. What the operations of Machine/Accept.lean keep. -/

namespace Sys2Proof.Laws

open Sys2Proof Sys2Proof.Machine Sys2Proof.Safety

set_option linter.unusedTactic false
set_option linter.unreachableTactic false
set_option linter.unusedSimpArgs false

@[simp] theorem lookupRead_keeps (i slot : Nat) (s : State) : Keeps s (lookupRead i slot s) := by
  unfold lookupRead
  repeat' with_reducible first
    | assumption | exact Keeps.refl _ | refine Keeps.ite ?_ ?_ | (refine Keeps.app ?_ ?_; focus (simp; done))
    | simp only [Keeps.upd] | split

@[simp] theorem acceptRead_keeps (i slot : Nat) (s : State) : Keeps s (acceptRead i slot s) := by
  unfold acceptRead
  repeat' with_reducible first
    | assumption | exact Keeps.refl _ | refine Keeps.ite ?_ ?_ | (refine Keeps.app ?_ ?_; focus (simp; done))
    | simp only [Keeps.upd] | split

@[simp] theorem queueDue_keeps (i slot : Nat) (s : State) : Keeps s (queueDue i slot s) := by
  unfold queueDue
  repeat' with_reducible first
    | assumption | exact Keeps.refl _ | refine Keeps.ite ?_ ?_ | (refine Keeps.app ?_ ?_; focus (simp; done))
    | simp only [Keeps.upd] | split

@[simp] theorem sendReport_keeps (i slot : Nat) (s : State) : Keeps s (sendReport i slot s) := by
  unfold sendReport
  repeat' with_reducible first
    | assumption | exact Keeps.refl _
    | (intro x; refine (fun (hx : Keeps s x) => ?_) ?_; clear_value x; rotate_left; simp only [x]; clear x)
    | (intro (x : Dmc); simp only [x]; clear x) | (intro (x : Cfl); simp only [x]; clear x)
    | (intro (x : Slt); simp only [x]; clear x) | (intro x; clear_value x) | intro _ | lift_lets
    | refine Keeps.ite ?_ ?_ | (refine Keeps.app ?_ ?_; focus (simp; done)) | simp only [Keeps.upd]
    | refine Keeps.foldl ?_ ?_ | split

@[simp] theorem report_keeps (i slot : Nat) (blocks : List Block) (result : Nat) (holds : List Nat) (s : State) :
    Keeps s (report i slot blocks result holds s) := by
  unfold report
  repeat' with_reducible first
    | assumption | exact Keeps.refl _ | refine Keeps.ite ?_ ?_ | (refine Keeps.app ?_ ?_; focus (simp; done))
    | simp only [Keeps.upd] | split

@[simp] theorem acceptZoneReport_keeps (i slot : Nat) (s : State) : Keeps s (acceptZoneReport i slot s) := by
  unfold acceptZoneReport
  repeat' with_reducible first
    | assumption | exact Keeps.refl _ | refine Keeps.ite ?_ ?_ | (refine Keeps.app ?_ ?_; focus (simp; done))
    | simp only [Keeps.upd] | split

@[simp] theorem acceptIdentify_keeps (i slot : Nat) (s : State) : Keeps s (acceptIdentify i slot s) := by
  unfold acceptIdentify
  repeat' with_reducible first
    | assumption | exact Keeps.refl _ | refine Keeps.ite ?_ ?_ | (refine Keeps.app ?_ ?_; focus (simp; done))
    | simp only [Keeps.upd] | split

@[simp] theorem acceptCounters_keeps (i slot : Nat) (s : State) : Keeps s (acceptCounters i slot s) := by
  unfold acceptCounters
  repeat' with_reducible first
    | assumption | exact Keeps.refl _ | refine Keeps.ite ?_ ?_ | (refine Keeps.app ?_ ?_; focus (simp; done))
    | simp only [Keeps.upd] | split

@[simp] theorem placeMessage_keeps (from' to' : Nat) (bytes : List Byte) (s : State) :
    Keeps s (placeMessage from' to' bytes s) := by
  unfold placeMessage
  repeat' with_reducible first
    | assumption | exact Keeps.refl _ | refine Keeps.ite ?_ ?_ | (refine Keeps.app ?_ ?_; focus (simp; done))
    | simp only [Keeps.upd] | split

@[simp] theorem deliverMessage_keeps (i slot : Nat) (s : State) : Keeps s (deliverMessage i slot s) := by
  unfold deliverMessage
  repeat' with_reducible first
    | assumption | exact Keeps.refl _ | refine Keeps.ite ?_ ?_ | (refine Keeps.app ?_ ?_; focus (simp; done))
    | simp only [Keeps.upd] | split

@[simp] theorem readMailbox_keeps (i slot : Nat) (s : State) : Keeps s (readMailbox i slot s) := by
  unfold readMailbox
  repeat' with_reducible first
    | assumption | exact Keeps.refl _ | refine Keeps.ite ?_ ?_ | (refine Keeps.app ?_ ?_; focus (simp; done))
    | simp only [Keeps.upd] | split

@[simp] theorem acceptMailboxSend_keeps (i slot : Nat) (s : State) : Keeps s (acceptMailboxSend i slot s) := by
  unfold acceptMailboxSend
  repeat' with_reducible first
    | assumption | exact Keeps.refl _ | refine Keeps.ite ?_ ?_ | (refine Keeps.app ?_ ?_; focus (simp; done))
    | simp only [Keeps.upd] | split

@[simp] theorem acceptMailboxRead_keeps (i slot : Nat) (s : State) : Keeps s (acceptMailboxRead i slot s) := by
  unfold acceptMailboxRead
  repeat' with_reducible first
    | assumption | exact Keeps.refl _ | refine Keeps.ite ?_ ?_ | (refine Keeps.app ?_ ?_; focus (simp; done))
    | simp only [Keeps.upd] | split

@[simp] theorem deliverOne_keeps (i slot : Nat) (seq : U32) (s : State) : Keeps s (deliverOne i slot seq s) := by
  unfold deliverOne
  repeat' with_reducible first
    | assumption | exact Keeps.refl _ | refine Keeps.ite ?_ ?_ | (refine Keeps.app ?_ ?_; focus (simp; done))
    | simp only [Keeps.upd] | split

@[simp] theorem deliverDue_keeps (s : State) : Keeps s (deliverDue s) := by
  unfold deliverDue
  repeat' with_reducible first
    | assumption | exact Keeps.refl _
    | (intro x; refine (fun (hx : Keeps s x) => ?_) ?_; clear_value x; rotate_left; simp only [x]; clear x)
    | (intro (x : Dmc); simp only [x]; clear x) | (intro (x : Cfl); simp only [x]; clear x)
    | (intro (x : Slt); simp only [x]; clear x) | (intro x; clear_value x) | intro _ | lift_lets
    | refine Keeps.ite ?_ ?_ | (refine Keeps.app ?_ ?_; focus (simp; done)) | simp only [Keeps.upd]
    | refine Keeps.foldl ?_ ?_ | split

@[simp] theorem acceptWrite_keeps (i slot : Nat) (l : List DataFrame) (s : State) :
    Keeps s (acceptWrite i slot l s) := by
  unfold acceptWrite
  repeat' with_reducible first
    | assumption | exact Keeps.refl _ | refine Keeps.ite ?_ ?_ | (refine Keeps.app ?_ ?_; focus (simp; done))
    | simp only [Keeps.upd] | split

@[simp] theorem acceptZoneOp_keeps (i slot : Nat) (s : State) : Keeps s (acceptZoneOp i slot s) := by
  unfold acceptZoneOp
  repeat' with_reducible first
    | assumption | exact Keeps.refl _ | refine Keeps.ite ?_ ?_ | (refine Keeps.app ?_ ?_; focus (simp; done))
    | simp only [Keeps.upd] | split

@[simp] theorem acceptTxnBegin_keeps (i slot : Nat) (s : State) : Keeps s (acceptTxnBegin i slot s) := by
  unfold acceptTxnBegin
  repeat' with_reducible first
    | assumption | exact Keeps.refl _ | refine Keeps.ite ?_ ?_ | (refine Keeps.app ?_ ?_; focus (simp; done))
    | simp only [Keeps.upd] | split

@[simp] theorem acceptTxnCommit_keeps (i slot : Nat) (s : State) : Keeps s (acceptTxnCommit i slot s) := by
  unfold acceptTxnCommit
  repeat' with_reducible first
    | assumption | exact Keeps.refl _ | refine Keeps.ite ?_ ?_ | (refine Keeps.app ?_ ?_; focus (simp; done))
    | simp only [Keeps.upd] | split

@[simp] theorem acceptTxnAbort_keeps (i slot : Nat) (s : State) : Keeps s (acceptTxnAbort i slot s) := by
  unfold acceptTxnAbort
  repeat' with_reducible first
    | assumption | exact Keeps.refl _ | refine Keeps.ite ?_ ?_ | (refine Keeps.app ?_ ?_; focus (simp; done))
    | simp only [Keeps.upd] | split

@[simp] theorem acceptAbort_keeps (i slot : Nat) (s : State) : Keeps s (acceptAbort i slot s) := by
  unfold acceptAbort
  repeat' with_reducible first
    | assumption | exact Keeps.refl _ | refine Keeps.ite ?_ ?_ | (refine Keeps.app ?_ ?_; focus (simp; done))
    | simp only [Keeps.upd] | split

@[simp] theorem tryFlush_keeps (i slot : Nat) (s : State) : Keeps s (tryFlush i slot s) := by
  unfold tryFlush
  repeat' with_reducible first
    | assumption | exact Keeps.refl _ | refine Keeps.ite ?_ ?_ | (refine Keeps.app ?_ ?_; focus (simp; done))
    | simp only [Keeps.upd] | split

@[simp] theorem flushAll_keeps (s : State) : Keeps s (flushAll s) := by
  unfold flushAll
  repeat' with_reducible first
    | assumption | exact Keeps.refl _
    | (intro x; refine (fun (hx : Keeps s x) => ?_) ?_; clear_value x; rotate_left; simp only [x]; clear x)
    | (intro (x : Dmc); simp only [x]; clear x) | (intro (x : Cfl); simp only [x]; clear x)
    | (intro (x : Slt); simp only [x]; clear x) | (intro x; clear_value x) | intro _ | lift_lets
    | refine Keeps.ite ?_ ?_ | (refine Keeps.app ?_ ?_; focus (simp; done)) | simp only [Keeps.upd]
    | refine Keeps.foldl ?_ ?_ | split

@[simp] theorem acceptFlush_keeps (i slot : Nat) (s : State) : Keeps s (acceptFlush i slot s) := by
  unfold acceptFlush
  repeat' with_reducible first
    | assumption | exact Keeps.refl _ | refine Keeps.ite ?_ ?_ | (refine Keeps.app ?_ ?_; focus (simp; done))
    | simp only [Keeps.upd] | split

@[simp] theorem acceptKeyErase_keeps (i slot : Nat) (s : State) : Keeps s (acceptKeyErase i slot s) := by
  unfold acceptKeyErase
  repeat' with_reducible first
    | assumption | exact Keeps.refl _ | refine Keeps.ite ?_ ?_ | (refine Keeps.app ?_ ?_; focus (simp; done))
    | simp only [Keeps.upd] | split

@[simp] theorem taskEffect_keeps (op i slot : Nat) (l : List DataFrame) (s : State) :
    Keeps s (taskEffect op i slot l s) := by
  unfold taskEffect
  repeat' with_reducible first
    | assumption | exact Keeps.refl _ | refine Keeps.ite ?_ ?_ | (refine Keeps.app ?_ ?_; focus (simp; done))
    | simp only [Keeps.upd] | split

@[simp] theorem acceptTask_keeps (i : Nat) (f : TaskFrame) (l : List DataFrame) (ready : Nat) (s : State) :
    Keeps s (acceptTask i f l ready s) := by
  unfold acceptTask
  repeat' with_reducible first
    | assumption | exact Keeps.refl _
    | (intro x; refine (fun (hx : Keeps s x) => ?_) ?_; clear_value x; rotate_left; simp only [x]; clear x)
    | (intro (x : Dmc); simp only [x]; clear x) | (intro (x : Cfl); simp only [x]; clear x)
    | (intro (x : Slt); simp only [x]; clear x) | (intro x; clear_value x) | intro _ | lift_lets
    | refine Keeps.ite ?_ ?_ | (refine Keeps.app ?_ ?_; focus (simp; done)) | simp only [Keeps.upd]
    | refine Keeps.foldl ?_ ?_ | split

end Sys2Proof.Laws
end

