-- ==== Sys2Proof/Laws/KeepsSlateOps.lean ====
section
/-! SUPPORT. What the operations of Machine/SlateOps.lean keep. -/

namespace Sys2Proof.Laws

open Sys2Proof Sys2Proof.Machine Sys2Proof.Safety

set_option linter.unusedTactic false
set_option linter.unreachableTactic false
set_option linter.unusedSimpArgs false

@[simp] theorem stageWrite_keeps (n v : Nat) (s : State) : Keeps s (stageWrite n v s) := by
  unfold stageWrite
  refine Keeps.ite (regRefused_keeps ..) ?_
  exact ⟨rfl, rfl, Nat.le_refl _, id, FusesLe.refl _,
    fun b => ⟨b.1, b.2.1, b.2.2.1, b.2.2.2.1, memWf_memSet _ _ _ _ b.2.2.2.2⟩⟩

@[simp] theorem stageLenWrite_keeps (v : Nat) (s : State) : Keeps s (stageLenWrite v s) := by
  unfold stageLenWrite
  repeat' with_reducible first
    | assumption | exact Keeps.refl _ | refine Keeps.ite ?_ ?_ | (refine Keeps.app ?_ ?_; focus (simp; done))
    | simp only [Keeps.upd] | split

@[simp] theorem endApply_keeps (s : State) : Keeps s (endApply s) := by
  unfold endApply
  simp [Keeps.upd]

@[simp] theorem slateFail_keeps (rule off arg : Nat) (s : State) : Keeps s (slateFail rule off arg s) := by
  unfold slateFail
  repeat' with_reducible first
    | assumption | exact Keeps.refl _ | refine Keeps.ite ?_ ?_ | (refine Keeps.app ?_ ?_; focus (simp; done))
    | simp only [Keeps.upd] | split

@[simp] theorem slateCheck_keeps (s : State) : Keeps s (slateCheck s) := by
  unfold slateCheck
  repeat' with_reducible first
    | assumption | exact Keeps.refl _ | refine Keeps.ite ?_ ?_ | (refine Keeps.app ?_ ?_; focus (simp; done))
    | simp only [Keeps.upd] | split

@[simp] theorem beginDrain_keeps (s : State) : Keeps s (beginDrain s) := by
  unfold beginDrain
  simp [Keeps.upd]

@[simp] theorem slateApply_keeps (v : Nat) (s : State) : Keeps s (slateApply v s) := by
  unfold slateApply
  repeat' with_reducible first
    | assumption | exact Keeps.refl _ | refine Keeps.ite ?_ ?_ | (refine Keeps.app ?_ ?_; focus (simp; done))
    | simp only [Keeps.upd] | split

@[simp] theorem slateDiscard_keeps (v : Nat) (s : State) : Keeps s (slateDiscard v s) := by
  unfold slateDiscard
  refine Keeps.ite (regRefused_keeps ..) ?_
  exact ⟨rfl, rfl, Nat.le_refl _, id, FusesLe.refl _, fun b => ⟨b.1, b.2.1, b.2.2.1, b.2.2.2.1, rfl⟩⟩

@[simp] theorem slateCmd_keeps (v : Nat) (s : State) : Keeps s (slateCmd v s) := by
  unfold slateCmd
  repeat' with_reducible first
    | assumption | exact Keeps.refl _ | refine Keeps.ite ?_ ?_ | (refine Keeps.app ?_ ?_; focus (simp; done))
    | simp only [Keeps.upd] | split

@[simp] theorem releaseInst_keeps (i : Nat) (x : Inst) (s : State) : Keeps s (releaseInst i x s) := by
  unfold releaseInst
  repeat' with_reducible first
    | assumption | exact Keeps.refl _
    | (intro x; refine (fun (hx : Keeps s x) => ?_) ?_; clear_value x; rotate_left; simp only [x]; clear x)
    | (intro (x : Dmc); simp only [x]; clear x) | (intro (x : Cfl); simp only [x]; clear x)
    | (intro (x : Slt); simp only [x]; clear x) | (intro x; clear_value x) | intro _ | lift_lets
    | refine Keeps.ite ?_ ?_ | (refine Keeps.app ?_ ?_; focus (simp; done)) | simp only [Keeps.upd]
    | refine Keeps.foldl ?_ ?_ | split

@[simp] theorem deleteInst_keeps (i : Nat) (s : State) : Keeps s (deleteInst i s) := by
  unfold deleteInst
  repeat' with_reducible first
    | assumption | exact Keeps.refl _
    | (intro x; refine (fun (hx : Keeps s x) => ?_) ?_; clear_value x; rotate_left; simp only [x]; clear x)
    | (intro (x : Dmc); simp only [x]; clear x) | (intro (x : Cfl); simp only [x]; clear x)
    | (intro (x : Slt); simp only [x]; clear x) | (intro x; clear_value x) | intro _ | lift_lets
    | refine Keeps.ite ?_ ?_ | (refine Keeps.app ?_ ?_; focus (simp; done)) | simp only [Keeps.upd]
    | refine Keeps.foldl ?_ ?_ | split

@[simp] theorem dropBeyond_keeps (g : Cfg) (s : State) : Keeps s (dropBeyond g s) := by
  unfold dropBeyond
  repeat' with_reducible first
    | assumption | exact Keeps.refl _
    | (intro x; refine (fun (hx : Keeps s x) => ?_) ?_; clear_value x; rotate_left; simp only [x]; clear x)
    | (intro (x : Dmc); simp only [x]; clear x) | (intro (x : Cfl); simp only [x]; clear x)
    | (intro (x : Slt); simp only [x]; clear x) | (intro x; clear_value x) | intro _ | lift_lets
    | refine Keeps.ite ?_ ?_ | (refine Keeps.app ?_ ?_; focus (simp; done)) | simp only [Keeps.upd]
    | refine Keeps.foldl ?_ ?_ | split

@[simp] theorem takeSnapshot_keeps (s : State) : Keeps s (takeSnapshot s) := by
  unfold takeSnapshot
  repeat' with_reducible first
    | assumption | exact Keeps.refl _ | refine Keeps.ite ?_ ?_ | (refine Keeps.app ?_ ?_; focus (simp; done))
    | simp only [Keeps.upd] | split

@[simp] theorem rejudgePreserve_keeps (s : State) : Keeps s (rejudgePreserve s) := by
  unfold rejudgePreserve
  repeat' with_reducible first
    | assumption | exact Keeps.refl _ | refine Keeps.ite ?_ ?_ | (refine Keeps.app ?_ ?_; focus (simp; done))
    | simp only [Keeps.upd] | split

@[simp] theorem dropTestKeys_keeps (s : State) : Keeps s (dropTestKeys s) := by
  unfold dropTestKeys
  simp [Keeps.upd]

@[simp] theorem slateSwitch_keeps (s : State) : Keeps s (slateSwitch s) := by
  unfold slateSwitch
  repeat' with_reducible first
    | assumption | exact Keeps.refl _ | intro _ | refine Keeps.ite ?_ ?_
    | (refine Keeps.app ?_ ?_; focus (simp; done)) | simp only [Keeps.upd] | refine Keeps.forInsts ?_ ?_
    | refine Keeps.foldl ?_ ?_ | split

@[simp] theorem decidedSwitch_keeps (s : State) : Keeps s (decidedSwitch s) := by
  unfold decidedSwitch
  repeat' with_reducible first
    | assumption | exact Keeps.refl _ | refine Keeps.ite ?_ ?_ | (refine Keeps.app ?_ ?_; focus (simp; done))
    | simp only [Keeps.upd] | split

@[simp] theorem hwtRelease_keeps (line : Nat) (s : State) : Keeps s (hwtRelease line s) := by
  unfold hwtRelease
  repeat' with_reducible first
    | assumption | exact Keeps.refl _ | refine Keeps.ite ?_ ?_ | (refine Keeps.app ?_ ?_; focus (simp; done))
    | simp only [Keeps.upd] | split

@[simp] theorem retireSystem_keeps (s : State) : Keeps s (retireSystem s) := by
  unfold retireSystem
  repeat' with_reducible first
    | assumption | exact Keeps.refl _ | refine Keeps.ite ?_ ?_ | (refine Keeps.app ?_ ?_; focus (simp; done))
    | simp only [Keeps.upd] | simp only [KeepsO.some, KeepsO.none] | refine KeepsO.ite ?_ ?_ | split
    | focus (simp; done)

@[simp] theorem markFails_keeps (a b : Bool) (s : State) : Keeps s (markFails a b s) := by
  unfold markFails
  repeat' with_reducible first
    | assumption | exact Keeps.refl _ | refine Keeps.ite ?_ ?_ | (refine Keeps.app ?_ ?_; focus (simp; done))
    | simp only [Keeps.upd] | split

@[simp] theorem commitMark_keeps (a b : Bool) (s : State) : Keeps s (commitMark a b s) := by
  unfold commitMark
  repeat' with_reducible first
    | assumption | exact Keeps.refl _ | refine Keeps.ite ?_ ?_ | (refine Keeps.app ?_ ?_; focus (simp; done))
    | simp only [Keeps.upd] | split

@[simp] theorem insRelease_keeps (n v : Nat) (s : State) : Keeps s (insRelease n v s) := by
  unfold insRelease
  repeat' with_reducible first
    | assumption | exact Keeps.refl _ | refine Keeps.ite ?_ ?_ | (refine Keeps.app ?_ ?_; focus (simp; done))
    | simp only [Keeps.upd] | split

@[simp] theorem insDoorbell_keeps (n v : Nat) (s : State) : Keeps s (insDoorbell n v s) := by
  unfold insDoorbell
  repeat' with_reducible first
    | assumption | exact Keeps.refl _ | refine Keeps.ite ?_ ?_ | (refine Keeps.app ?_ ?_; focus (simp; done))
    | simp only [Keeps.upd] | split

@[simp] theorem insWrite_keeps (n off v : Nat) (s : State) : KeepsO s (insWrite n off v s) := by
  unfold insWrite
  repeat' with_reducible first
    | assumption | exact Keeps.refl _ | refine Keeps.ite ?_ ?_ | (refine Keeps.app ?_ ?_; focus (simp; done))
    | simp only [Keeps.upd] | simp only [KeepsO.some, KeepsO.none] | refine KeepsO.ite ?_ ?_ | split
    | focus (simp; done)

@[simp] theorem sltWrite_keeps (off v : Nat) (s : State) : KeepsO s (sltWrite off v s) := by
  unfold sltWrite
  repeat' with_reducible first
    | assumption | exact Keeps.refl _ | refine Keeps.ite ?_ ?_ | (refine Keeps.app ?_ ?_; focus (simp; done))
    | simp only [Keeps.upd] | simp only [KeepsO.some, KeepsO.none] | refine KeepsO.ite ?_ ?_ | split
    | focus (simp; done)

end Sys2Proof.Laws
end

