-- ==== Sys2Proof/Laws/KeepsRegisters.lean ====
section
/-! SUPPORT. What the operations of Machine/Registers.lean keep. -/

namespace Sys2Proof.Laws

open Sys2Proof Sys2Proof.Machine Sys2Proof.Safety

set_option linter.unusedTactic false
set_option linter.unreachableTactic false
set_option linter.unusedSimpArgs false

@[simp] theorem resetReq_keeps (v : Nat) (s : State) : Keeps s (resetReq v s) := by
  unfold resetReq
  repeat' with_reducible first
    | assumption | exact Keeps.refl _ | refine Keeps.ite ?_ ?_ | (refine Keeps.app ?_ ?_; focus (simp; done))
    | simp only [Keeps.upd] | split

@[simp] theorem latchHi_keeps (a v : Nat) (s : State) : Keeps s (latchHi a v s) := by
  unfold latchHi
  simp [Keeps.upd]

@[simp] theorem actingRead_keeps (a : Nat) (s : State) : KeepsP s (actingRead a s) := by
  unfold actingRead
  repeat' with_reducible first
    | assumption | exact Keeps.refl _
    | (intro x; refine (fun (hx : Keeps s x) => ?_) ?_; clear_value x; rotate_left; simp only [x]; clear x)
    | (intro x; refine (fun (hx : KeepsO s x) => ?_) ?_; clear_value x; rotate_left; simp only [x]; clear x)
    | (intro x; refine (fun (hx : KeepsR s x) => ?_) ?_; clear_value x; rotate_left; simp only [x]; clear x)
    | (intro x; refine (fun (hx : Keeps s x.2) => ?_) ?_; clear_value x; rotate_left; simp only [x]; clear x)
    | (intro x; refine (fun (hx : Keeps s x.1) => ?_) ?_; clear_value x; rotate_left; simp only [x]; clear x)
    | (intro (x : Obs); simp only [x]; clear x) | (intro (x : Dmc); simp only [x]; clear x)
    | (intro (x : Cfl); simp only [x]; clear x) | (intro (x : Slt); simp only [x]; clear x)
    | (intro x; clear_value x) | intro (_ : Keeps _ _) | (intro x; simp only [x]; clear x) | intro _ | lift_lets
    | refine Keeps.ite ?_ ?_ | (refine Keeps.app ?_ ?_; focus (simp; done)) | simp only [Keeps.upd, Keeps.updObs]
    | refine Keeps.forInsts ?_ ?_ | refine Keeps.forHeld ?_ ?_ | refine Keeps.foldl ?_ ?_
    | refine Keeps.foldl2 ?_ ?_ | refine Keeps.foldl1 ?_ ?_ | (refine Keeps.app2 ?_ ?_; focus (simp; done))
    | (refine Keeps.app1 ?_ ?_; focus (simp; done)) | dsimp only
    | simp only [KeepsO.some, KeepsO.none, KeepsR.ok, KeepsR.error, KeepsP.some] | refine KeepsO.ite ?_ ?_
    | refine KeepsR.ite ?_ ?_ | refine KeepsP.ite ?_ ?_ | split
    | (refine Keeps.snd (by assumption) ?_ ?_; rotate_left; focus (simp; done))
    | (refine Keeps.fst (by assumption) ?_ ?_; rotate_left; focus (simp; done))
    | (refine KeepsO.of (by assumption) ?_ ?_; rotate_left; focus (simp; done))
    | (refine KeepsP.of (by assumption) ?_ ?_; rotate_left; focus (simp; done)) | focus (simp; done)
    | (refine KeepsR.app ?_ ?_; focus (simp; done))
    | (refine KeepsR.of_ok (by assumption) ?_ ?_; rotate_left; focus (simp; done))
    | (refine KeepsR.of_error (by assumption) ?_ ?_; rotate_left; focus (simp; done))

@[simp] theorem plainWrite_keeps (a v : Nat) (s : State) : KeepsO s (plainWrite a v s) := by
  unfold plainWrite
  repeat' with_reducible first
    | assumption | exact Keeps.refl _ | refine Keeps.ite ?_ ?_ | (refine Keeps.app ?_ ?_; focus (simp; done))
    | simp only [Keeps.upd] | simp only [KeepsO.some, KeepsO.none] | refine KeepsO.ite ?_ ?_ | split
    | focus (simp; done)

@[simp] theorem offDomain_keeps (a : Nat) (s : State) : Keeps s (offDomain a s) := by
  unfold offDomain
  repeat' with_reducible first
    | assumption | exact Keeps.refl _ | refine Keeps.ite ?_ ?_ | (refine Keeps.app ?_ ?_; focus (simp; done))
    | simp only [Keeps.upd] | split

@[simp] theorem regRead_keeps (a : Nat) (s : State) : Keeps s (regRead a s).2 := by
  unfold regRead
  repeat' with_reducible first
    | assumption | exact Keeps.refl _
    | (intro x; refine (fun (hx : Keeps s x) => ?_) ?_; clear_value x; rotate_left; simp only [x]; clear x)
    | (intro x; refine (fun (hx : KeepsO s x) => ?_) ?_; clear_value x; rotate_left; simp only [x]; clear x)
    | (intro x; refine (fun (hx : KeepsR s x) => ?_) ?_; clear_value x; rotate_left; simp only [x]; clear x)
    | (intro x; refine (fun (hx : Keeps s x.2) => ?_) ?_; clear_value x; rotate_left; simp only [x]; clear x)
    | (intro x; refine (fun (hx : Keeps s x.1) => ?_) ?_; clear_value x; rotate_left; simp only [x]; clear x)
    | (intro (x : Obs); simp only [x]; clear x) | (intro (x : Dmc); simp only [x]; clear x)
    | (intro (x : Cfl); simp only [x]; clear x) | (intro (x : Slt); simp only [x]; clear x)
    | (intro x; clear_value x) | intro (_ : Keeps _ _) | (intro x; simp only [x]; clear x) | intro _ | lift_lets
    | refine Keeps.ite ?_ ?_ | (refine Keeps.app ?_ ?_; focus (simp; done)) | simp only [Keeps.upd, Keeps.updObs]
    | refine Keeps.forInsts ?_ ?_ | refine Keeps.forHeld ?_ ?_ | refine Keeps.foldl ?_ ?_
    | refine Keeps.foldl2 ?_ ?_ | refine Keeps.foldl1 ?_ ?_ | (refine Keeps.app2 ?_ ?_; focus (simp; done))
    | (refine Keeps.app1 ?_ ?_; focus (simp; done)) | dsimp only
    | simp only [KeepsO.some, KeepsO.none, KeepsR.ok, KeepsR.error, KeepsP.some] | refine KeepsO.ite ?_ ?_
    | refine KeepsR.ite ?_ ?_ | refine KeepsP.ite ?_ ?_ | split
    | (refine Keeps.snd (by assumption) ?_ ?_; rotate_left; focus (simp; done))
    | (refine Keeps.fst (by assumption) ?_ ?_; rotate_left; focus (simp; done))
    | (refine KeepsO.of (by assumption) ?_ ?_; rotate_left; focus (simp; done))
    | (refine KeepsP.of (by assumption) ?_ ?_; rotate_left; focus (simp; done)) | focus (simp; done)
    | (refine KeepsR.app ?_ ?_; focus (simp; done))
    | (refine KeepsR.of_ok (by assumption) ?_ ?_; rotate_left; focus (simp; done))
    | (refine KeepsR.of_error (by assumption) ?_ ?_; rotate_left; focus (simp; done))

@[simp] theorem regWrite_keeps (a v : Nat) (s : State) : Keeps s (regWrite a v s) := by
  unfold regWrite
  repeat' with_reducible first
    | assumption | exact Keeps.refl _
    | (intro x; refine (fun (hx : Keeps s x) => ?_) ?_; clear_value x; rotate_left; simp only [x]; clear x)
    | (intro x; refine (fun (hx : KeepsO s x) => ?_) ?_; clear_value x; rotate_left; simp only [x]; clear x)
    | (intro x; refine (fun (hx : KeepsR s x) => ?_) ?_; clear_value x; rotate_left; simp only [x]; clear x)
    | (intro x; refine (fun (hx : Keeps s x.2) => ?_) ?_; clear_value x; rotate_left; simp only [x]; clear x)
    | (intro x; refine (fun (hx : Keeps s x.1) => ?_) ?_; clear_value x; rotate_left; simp only [x]; clear x)
    | (intro (x : Obs); simp only [x]; clear x) | (intro (x : Dmc); simp only [x]; clear x)
    | (intro (x : Cfl); simp only [x]; clear x) | (intro (x : Slt); simp only [x]; clear x)
    | (intro x; clear_value x) | intro (_ : Keeps _ _) | (intro x; simp only [x]; clear x) | intro _ | lift_lets
    | refine Keeps.ite ?_ ?_ | (refine Keeps.app ?_ ?_; focus (simp; done)) | simp only [Keeps.upd, Keeps.updObs]
    | refine Keeps.forInsts ?_ ?_ | refine Keeps.forHeld ?_ ?_ | refine Keeps.foldl ?_ ?_
    | refine Keeps.foldl2 ?_ ?_ | refine Keeps.foldl1 ?_ ?_ | (refine Keeps.app2 ?_ ?_; focus (simp; done))
    | (refine Keeps.app1 ?_ ?_; focus (simp; done)) | dsimp only
    | simp only [KeepsO.some, KeepsO.none, KeepsR.ok, KeepsR.error, KeepsP.some] | refine KeepsO.ite ?_ ?_
    | refine KeepsR.ite ?_ ?_ | refine KeepsP.ite ?_ ?_ | split
    | (refine Keeps.snd (by assumption) ?_ ?_; rotate_left; focus (simp; done))
    | (refine Keeps.fst (by assumption) ?_ ?_; rotate_left; focus (simp; done))
    | (refine KeepsO.of (by assumption) ?_ ?_; rotate_left; focus (simp; done))
    | (refine KeepsP.of (by assumption) ?_ ?_; rotate_left; focus (simp; done)) | focus (simp; done)
    | (refine KeepsR.app ?_ ?_; focus (simp; done))
    | (refine KeepsR.of_ok (by assumption) ?_ ?_; rotate_left; focus (simp; done))
    | (refine KeepsR.of_error (by assumption) ?_ ?_; rotate_left; focus (simp; done))

@[simp] theorem readWords_keeps (n a : Nat) (s : State) : Keeps s (readWords n a s).2 := by
  induction n generalizing a s with
  | zero => exact Keeps.refl s
  | succ n ih => exact (regRead_keeps ..).trans (ih ..)

@[simp] theorem writeWords_keeps (a : Nat) (l : List U32) (s : State) : Keeps s (writeWords a l s) := by
  unfold writeWords
  exact Keeps.foldl2 (Keeps.refl s) fun x b h => Keeps.app (regWrite_keeps ..) h

end Sys2Proof.Laws
end

