-- ==== Sys2Proof/Laws/KeepsJudge.lean ====
section
/-! SUPPORT. What the operations of Machine/Judge.lean keep. -/

namespace Sys2Proof.Laws

open Sys2Proof Sys2Proof.Machine Sys2Proof.Safety

set_option linter.unusedTactic false
set_option linter.unreachableTactic false
set_option linter.unusedSimpArgs false

@[simp] theorem countTag_keeps (i : Nat) (u : Up) (data : List Byte) (s : State) : Keeps s (countTag i u data s) := by
  unfold countTag
  repeat' with_reducible first
    | assumption | exact Keeps.refl _ | refine Keeps.ite ?_ ?_ | (refine Keeps.app ?_ ?_; focus (simp; done))
    | simp only [Keeps.upd] | split

@[simp] theorem countAuth_keeps (i reason : Nat) (s : State) : Keeps s (countAuth i reason s) := by
  unfold countAuth
  repeat' with_reducible first
    | assumption | exact Keeps.refl _ | refine Keeps.ite ?_ ?_ | (refine Keeps.app ?_ ?_; focus (simp; done))
    | simp only [Keeps.upd] | split

@[simp] theorem refuseFront_keeps (i n : Nat) (u : Up) (reason detail retry : Nat) (data : List Byte) (viol : Bool) (orphan : Option (U32 × U16)) (s : State) :
    Keeps s (refuseFront i n u reason detail retry data viol orphan s) := by
  unfold refuseFront
  repeat' with_reducible first
    | assumption | exact Keeps.refl _ | refine Keeps.ite ?_ ?_ | (refine Keeps.app ?_ ?_; focus (simp; done))
    | simp only [Keeps.upd] | split

@[simp] theorem refuseTask_keeps (i : Nat) (f : TaskFrame) (n reason detail retry : Nat) (data : List Byte) (s : State) :
    Keeps s (refuseTask i f n reason detail retry data s) := by
  unfold refuseTask
  repeat' with_reducible first
    | assumption | exact Keeps.refl _ | refine Keeps.ite ?_ ?_ | (refine Keeps.app ?_ ?_; focus (simp; done))
    | simp only [Keeps.upd] | split

@[simp] theorem refuseOrphan_keeps (i : Nat) (d : DataFrame) (x : Inst) (s : State) :
    Keeps s (refuseOrphan i d x s) := by
  unfold refuseOrphan
  simp [Keeps.upd]

@[simp] theorem waitFront_keeps (i : Nat) (w : Waiting) (s : State) : Keeps s (waitFront i w s) := by
  unfold waitFront
  simp [Keeps.upd]

@[simp] theorem rowTwin_keeps (i : Nat) (r : BitVec 512) (since : Nat) (s : State) :
    Keeps s (rowTwin i r since s) := by
  unfold rowTwin
  repeat' with_reducible first
    | assumption | exact Keeps.refl _
    | (intro x; refine (fun (hx : Keeps s x) => ?_) ?_; clear_value x; rotate_left; simp only [x]; clear x)
    | (intro x; refine (fun (hx : KeepsO s x) => ?_) ?_; clear_value x; rotate_left; simp only [x]; clear x)
    | (intro x; refine (fun (hx : KeepsR s x) => ?_) ?_; clear_value x; rotate_left; simp only [x]; clear x)
    | (intro x; refine (fun (hx : Keeps s x.2) => ?_) ?_; clear_value x; rotate_left; simp only [x]; clear x)
    | (intro x; refine (fun (hx : Keeps s x.1) => ?_) ?_; clear_value x; rotate_left; simp only [x]; clear x)
    | (intro (x : Obs); simp only [x]; clear x) | (intro (x : Dmc); simp only [x]; clear x)
    | (intro (x : Cfl); simp only [x]; clear x) | (intro (x : Slt); simp only [x]; clear x)
    | (intro x; clear_value x) | intro (_ : Keeps _ _) | (intro x; simp only [x]; clear x) | intro _ | lift_lets
    | refine Keeps.ite ?_ ?_ | (refine Keeps.app ?_ ?_; focus (simp; done)) | simp only [Keeps.upd, Keeps.updObs]
    | refine Keeps.forInsts ?_ ?_ | refine Keeps.forHeld ?_ ?_ | refine Keeps.foldl ?_ ?_
    | refine Keeps.foldl2 ?_ ?_ | refine Keeps.foldl1 ?_ ?_ | (refine Keeps.app2 ?_ ?_; focus (simp; done))
    | (refine Keeps.app1 ?_ ?_; focus (simp; done)) | dsimp only
    | simp only [KeepsO.some, KeepsO.none, KeepsR.ok, KeepsR.error, KeepsP.some] | refine KeepsO.ite ?_ ?_
    | refine KeepsR.ite ?_ ?_ | refine KeepsP.ite ?_ ?_ | split
    | (refine Keeps.snd (by assumption) ?_ ?_; rotate_left; focus (simp; done))
    | (refine Keeps.fst (by assumption) ?_ ?_; rotate_left; focus (simp; done))
    | (refine KeepsO.of (by assumption) ?_ ?_; rotate_left; focus (simp; done))
    | (refine KeepsP.of (by assumption) ?_ ?_; rotate_left; focus (simp; done)) | focus (simp; done)
    | (refine KeepsR.app ?_ ?_; focus (simp; done))
    | (refine KeepsR.of_ok (by assumption) ?_ ?_; rotate_left; focus (simp; done))
    | (refine KeepsR.of_error (by assumption) ?_ ?_; rotate_left; focus (simp; done))

@[simp] theorem admitFront_keeps (i : Nat) (f : TaskFrame) (l : List Up) (ready : Nat) (s : State) :
    Keeps s (admitFront i f l ready s) := by
  unfold admitFront
  repeat' with_reducible first
    | assumption | exact Keeps.refl _ | refine Keeps.ite ?_ ?_ | (refine Keeps.app ?_ ?_; focus (simp; done))
    | simp only [Keeps.upd] | split

@[simp] theorem releaseTokens_keeps (i : Nat) (r : BitVec 512) (s : State) : Keeps s (releaseTokens i r s) := by
  unfold releaseTokens
  repeat' with_reducible first
    | assumption | exact Keeps.refl _
    | (intro x; refine (fun (hx : Keeps s x) => ?_) ?_; clear_value x; rotate_left; simp only [x]; clear x)
    | (intro (x : Dmc); simp only [x]; clear x) | (intro (x : Cfl); simp only [x]; clear x)
    | (intro (x : Slt); simp only [x]; clear x) | (intro x; clear_value x) | intro _ | lift_lets
    | refine Keeps.ite ?_ ?_ | (refine Keeps.app ?_ ?_; focus (simp; done)) | simp only [Keeps.upd]
    | refine Keeps.foldl ?_ ?_ | split

@[simp] theorem judgeTask_keeps (i : Nat) (x : Inst) (f : TaskFrame) (l : List Up) (ready : Nat) (s : State) :
    Keeps s (judgeTask i x f l ready s) := by
  unfold judgeTask
  repeat' with_reducible first
    | assumption | exact Keeps.refl _ | refine Keeps.ite ?_ ?_ | (refine Keeps.app ?_ ?_; focus (simp; done))
    | simp only [Keeps.upd] | split

@[simp] theorem mgmtReply_keeps (f : MgmtFrame) (words : List U32) (s : State) : Keeps s (mgmtReply f words s) := by
  unfold mgmtReply
  repeat' with_reducible first
    | assumption | exact Keeps.refl _ | refine Keeps.ite ?_ ?_ | (refine Keeps.app ?_ ?_; focus (simp; done))
    | simp only [Keeps.upd] | split

@[simp] theorem acceptMgmt_keeps (i : Nat) (f : MgmtFrame) (s : State) : Keeps s (acceptMgmt i f s) := by
  unfold acceptMgmt
  repeat' with_reducible first
    | assumption | exact Keeps.refl _
    | (intro x; refine (fun (hx : Keeps s x) => ?_) ?_; clear_value x; rotate_left; simp only [x]; clear x)
    | (intro x; refine (fun (hx : KeepsO s x) => ?_) ?_; clear_value x; rotate_left; simp only [x]; clear x)
    | (intro x; refine (fun (hx : KeepsR s x) => ?_) ?_; clear_value x; rotate_left; simp only [x]; clear x)
    | (intro x; refine (fun (hx : Keeps s x.2) => ?_) ?_; clear_value x; rotate_left; simp only [x]; clear x)
    | (intro x; refine (fun (hx : Keeps s x.1) => ?_) ?_; clear_value x; rotate_left; simp only [x]; clear x)
    | (intro (x : Obs); simp only [x]; clear x) | (intro (x : Dmc); simp only [x]; clear x)
    | (intro (x : Cfl); simp only [x]; clear x) | (intro (x : Slt); simp only [x]; clear x)
    | (intro x; clear_value x) | intro (_ : Keeps _ _) | (intro x; simp only [x]; clear x) | intro _ | lift_lets
    | refine Keeps.ite ?_ ?_ | (refine Keeps.app ?_ ?_; focus (simp; done)) | simp only [Keeps.upd, Keeps.updObs]
    | refine Keeps.forInsts ?_ ?_ | refine Keeps.forHeld ?_ ?_ | refine Keeps.foldl ?_ ?_
    | refine Keeps.foldl2 ?_ ?_ | refine Keeps.foldl1 ?_ ?_ | (refine Keeps.app2 ?_ ?_; focus (simp; done))
    | (refine Keeps.app1 ?_ ?_; focus (simp; done)) | dsimp only
    | simp only [KeepsO.some, KeepsO.none, KeepsR.ok, KeepsR.error, KeepsP.some] | refine KeepsO.ite ?_ ?_
    | refine KeepsR.ite ?_ ?_ | refine KeepsP.ite ?_ ?_ | split
    | (refine Keeps.snd (by assumption) ?_ ?_; rotate_left; focus (simp; done))
    | (refine Keeps.fst (by assumption) ?_ ?_; rotate_left; focus (simp; done))
    | (refine KeepsO.of (by assumption) ?_ ?_; rotate_left; focus (simp; done))
    | (refine KeepsP.of (by assumption) ?_ ?_; rotate_left; focus (simp; done)) | focus (simp; done)
    | (refine KeepsR.app ?_ ?_; focus (simp; done))
    | (refine KeepsR.of_ok (by assumption) ?_ ?_; rotate_left; focus (simp; done))
    | (refine KeepsR.of_error (by assumption) ?_ ?_; rotate_left; focus (simp; done))

@[simp] theorem judgeMgmt_keeps (i : Nat) (x : Inst) (f : MgmtFrame) (s : State) : Keeps s (judgeMgmt i x f s) := by
  unfold judgeMgmt
  repeat' with_reducible first
    | assumption | exact Keeps.refl _ | refine Keeps.ite ?_ ?_ | (refine Keeps.app ?_ ?_; focus (simp; done))
    | simp only [Keeps.upd] | split

@[simp] theorem judgeFront_keeps (i : Nat) (s : State) : Keeps s (judgeFront i s) := by
  unfold judgeFront
  repeat' with_reducible first
    | assumption | exact Keeps.refl _ | refine Keeps.ite ?_ ?_ | (refine Keeps.app ?_ ?_; focus (simp; done))
    | simp only [Keeps.upd] | split

@[simp] theorem driveN_keeps (i n : Nat) (s : State) : Keeps s (driveN i n s) := by
  induction n generalizing s with
  | zero => exact Keeps.refl s
  | succ n ih =>
    unfold driveN
    exact Keeps.ite ((judgeFront_keeps ..).trans (ih _)) (judgeFront_keeps ..)

@[simp] theorem drive_keeps (i : Nat) (s : State) : Keeps s (drive i s) := by
  unfold drive
  repeat' with_reducible first
    | assumption | exact Keeps.refl _ | refine Keeps.ite ?_ ?_ | (refine Keeps.app ?_ ?_; focus (simp; done))
    | simp only [Keeps.upd] | split

@[simp] theorem driveAll_keeps (s : State) : Keeps s (driveAll s) := by
  unfold driveAll
  repeat' with_reducible first
    | assumption | exact Keeps.refl _ | intro _ | refine Keeps.ite ?_ ?_
    | (refine Keeps.app ?_ ?_; focus (simp; done)) | simp only [Keeps.upd] | refine Keeps.forInsts ?_ ?_
    | refine Keeps.foldl ?_ ?_ | split

@[simp] theorem acceptFront_keeps (i : Nat) (s : State) : Keeps s (acceptFront i s) := by
  unfold acceptFront
  repeat' with_reducible first
    | assumption | exact Keeps.refl _ | refine Keeps.ite ?_ ?_ | (refine Keeps.app ?_ ?_; focus (simp; done))
    | simp only [Keeps.upd] | split

@[simp] theorem twinTimeout_keeps (i : Nat) (s : State) : Keeps s (twinTimeout i s) := by
  unfold twinTimeout
  repeat' with_reducible first
    | assumption | exact Keeps.refl _ | refine Keeps.ite ?_ ?_ | (refine Keeps.app ?_ ?_; focus (simp; done))
    | simp only [Keeps.upd] | split

end Sys2Proof.Laws
end

