-- ==== Sys2Proof/Laws/KeepsIngress.lean ====
section
/-! SUPPORT. What the operations of Machine/Ingress.lean keep. -/

namespace Sys2Proof.Laws

open Sys2Proof Sys2Proof.Machine Sys2Proof.Safety

set_option linter.unusedTactic false
set_option linter.unreachableTactic false
set_option linter.unusedSimpArgs false

@[simp] theorem holdLanding_keeps (c : Instr) (p b detail : Nat) (s : State) :
    Keeps s (holdLanding c p b detail s) := by
  unfold holdLanding
  repeat' with_reducible first
    | assumption | exact Keeps.refl _ | refine Keeps.ite ?_ ?_ | (refine Keeps.app ?_ ?_; focus (simp; done))
    | simp only [Keeps.upd] | split

@[simp] theorem landFrame_keeps (c : Instr) (e : Env) (s : State) : Keeps s (landFrame c e s) := by
  unfold landFrame
  repeat' with_reducible first
    | assumption | exact Keeps.refl _
    | (intro x; refine (fun (hx : Keeps s x) => ?_) ?_; clear_value x; rotate_left; simp only [x]; clear x)
    | (intro x; refine (fun (hx : KeepsO s x) => ?_) ?_; clear_value x; rotate_left; simp only [x]; clear x)
    | (intro x; refine (fun (hx : KeepsR s x) => ?_) ?_; clear_value x; rotate_left; simp only [x]; clear x)
    | (intro x; refine (fun (hx : Keeps s x.2) => ?_) ?_; clear_value x; rotate_left; simp only [x]; clear x)
    | (intro x; refine (fun (hx : Keeps s x.1) => ?_) ?_; clear_value x; rotate_left; simp only [x]; clear x)
    | (intro (x : Obs); simp only [x]; clear x) | (intro (x : Dmc); simp only [x]; clear x)
    | (intro (x : Cfl); simp only [x]; clear x) | (intro (x : Slt); simp only [x]; clear x)
    | (intro x; clear_value x) | intro (_ : Keeps _ _) | (intro x; simp only [x]; clear x) | intro _ | lift_lets
    | refine Keeps.ite ?_ ?_ | (refine Keeps.app ?_ ?_; focus (simp; done)) | simp only [Keeps.upd, Keeps.updObs]
    | refine Keeps.forInsts ?_ ?_ | refine Keeps.forHeld ?_ ?_ | refine Keeps.foldl ?_ ?_
    | refine Keeps.foldl2 ?_ ?_ | refine Keeps.foldl1 ?_ ?_ | (refine Keeps.app2 ?_ ?_; focus (simp; done))
    | (refine Keeps.app1 ?_ ?_; focus (simp; done)) | dsimp only
    | simp only [KeepsO.some, KeepsO.none, KeepsR.ok, KeepsR.error, KeepsP.some] | refine KeepsO.ite ?_ ?_
    | refine KeepsR.ite ?_ ?_ | refine KeepsP.ite ?_ ?_ | split
    | (refine Keeps.snd (by assumption) ?_ ?_; rotate_left; focus (simp; done))
    | (refine Keeps.fst (by assumption) ?_ ?_; rotate_left; focus (simp; done))
    | (refine KeepsO.of (by assumption) ?_ ?_; rotate_left; focus (simp; done))
    | (refine KeepsP.of (by assumption) ?_ ?_; rotate_left; focus (simp; done)) | focus (simp; done)
    | (refine KeepsR.app ?_ ?_; focus (simp; done))
    | (refine KeepsR.of_ok (by assumption) ?_ ?_; rotate_left; focus (simp; done))
    | (refine KeepsR.of_error (by assumption) ?_ ?_; rotate_left; focus (simp; done))

theorem Keeps.arrive {r s : State} {c : Instr} {e : Env} {k : State → State} (h : Keeps r s)
    (f : ∀ x, Keeps r x → Keeps r (k x)) : Keeps r (Machine.arrive c e k s) := by
  have hc : Keeps r (countIn e.link.val (upBytes s e) s) := Keeps.app (countIn_keeps ..) h
  unfold Machine.arrive
  exact Keeps.ite h (Keeps.ite (f _ hc) (Keeps.ite (Keeps.app (landFrame_keeps ..) hc) (Keeps.app (silentDrop_keeps ..) hc)))

@[simp] theorem refuse_keeps (i : Nat) (e : Env) (type reason detail : Nat) (s : State) :
    Keeps s (refuse i e type reason detail s) := by
  unfold refuse
  repeat' with_reducible first
    | assumption | exact Keeps.refl _ | refine Keeps.ite ?_ ?_ | (refine Keeps.app ?_ ?_; focus (simp; done))
    | simp only [Keeps.upd] | split

@[simp] theorem refuseWide_keeps (e : Env) (type reason detail : Nat) (s : State) :
    Keeps s (refuseWide e type reason detail s) := by
  unfold refuseWide
  repeat' with_reducible first
    | assumption | exact Keeps.refl _ | refine Keeps.ite ?_ ?_ | (refine Keeps.app ?_ ?_; focus (simp; done))
    | simp only [Keeps.upd] | split

@[simp] theorem refuseHeader_keeps (e : Env) (type detail : Nat) (s : State) :
    Keeps s (refuseHeader e type detail s) := by
  unfold refuseHeader
  repeat' with_reducible first
    | assumption | exact Keeps.refl _ | refine Keeps.ite ?_ ?_ | (refine Keeps.app ?_ ?_; focus (simp; done))
    | simp only [Keeps.upd] | split

@[simp] theorem markValid_keeps (i : Nat) (e : Env) (s : State) : Keeps s (markValid i e s) := by
  unfold markValid
  simp [Keeps.upd]

@[simp] theorem advanceAck_keeps (i : Nat) (ack : U32) (s : State) : Keeps s (advanceAck i ack s) := by
  unfold advanceAck
  repeat' with_reducible first
    | assumption | exact Keeps.refl _ | refine Keeps.ite ?_ ?_ | (refine Keeps.app ?_ ?_; focus (simp; done))
    | simp only [Keeps.upd] | split

@[simp] theorem takeAck_keeps (i : Nat) (e : Env) (type : Nat) (s : State) : Keeps s (takeAck i e type s) := by
  unfold takeAck
  repeat' with_reducible first
    | assumption | exact Keeps.refl _ | refine Keeps.ite ?_ ?_ | (refine Keeps.app ?_ ?_; focus (simp; done))
    | simp only [Keeps.upd] | split

@[simp] theorem closedFrame_keeps (e : Env) (type : Nat) (headerOk : Bool) (s : State) :
    Keeps s (closedFrame e type headerOk s) := by
  unfold closedFrame
  repeat' with_reducible first
    | assumption | exact Keeps.refl _ | refine Keeps.ite ?_ ?_ | (refine Keeps.app ?_ ?_; focus (simp; done))
    | simp only [Keeps.upd] | split

@[simp] theorem placeFrame_keeps (i : Nat) (u : Up) (buf : Nat) (s : State) : Keeps s (placeFrame i u buf s) := by
  unfold placeFrame
  repeat' with_reducible first
    | assumption | exact Keeps.refl _ | refine Keeps.ite ?_ ?_ | (refine Keeps.app ?_ ?_; focus (simp; done))
    | simp only [Keeps.upd] | split

@[simp] theorem dropLanding_keeps (u : Up) (buf : Nat) (s : State) : Keeps s (dropLanding u buf s) := by
  unfold dropLanding
  simp [Keeps.upd]

@[simp] theorem holdFrame_keeps (i : Nat) (u : Up) (buf : Nat) (s : State) : Keeps s (holdFrame i u buf s) := by
  unfold holdFrame
  repeat' with_reducible first
    | assumption | exact Keeps.refl _ | refine Keeps.ite ?_ ?_ | (refine Keeps.app ?_ ?_; focus (simp; done))
    | simp only [Keeps.upd] | split

@[simp] theorem answerCopy_keeps (i : Nat) (x : Inst) (u : Up) (s : State) : Keeps s (answerCopy i x u s) := by
  unfold answerCopy
  repeat' with_reducible first
    | assumption | exact Keeps.refl _ | refine Keeps.ite ?_ ?_ | (refine Keeps.app ?_ ?_; focus (simp; done))
    | simp only [Keeps.upd] | split

@[simp] theorem judgeCopyTag_keeps (i : Nat) (x : Inst) (u : Up) (s : State) : Keeps s (judgeCopyTag i x u s).2 := by
  unfold judgeCopyTag
  repeat' with_reducible first
    | assumption | exact Keeps.refl _ | refine Keeps.ite ?_ ?_ | (refine Keeps.app ?_ ?_; focus (simp; done))
    | simp only [Keeps.upd] | simp only [KeepsO.some, KeepsO.none] | refine KeepsO.ite ?_ ?_ | split
    | focus (simp; done)

@[simp] theorem copyFrame_keeps (i : Nat) (u : Up) (s : State) : Keeps s (copyFrame i u s) := by
  unfold copyFrame
  repeat' with_reducible first
    | assumption | exact Keeps.refl _ | refine Keeps.ite ?_ ?_ | (refine Keeps.app ?_ ?_; focus (simp; done))
    | simp only [Keeps.upd] | simp only [KeepsO.some, KeepsO.none] | refine KeepsO.ite ?_ ?_ | split
    | focus (simp; done)

@[simp] theorem orderFrame_keeps (i : Nat) (u : Up) (buf : Nat) (s : State) : Keeps s (orderFrame i u buf s) := by
  unfold orderFrame
  repeat' with_reducible first
    | assumption | exact Keeps.refl _ | refine Keeps.ite ?_ ?_ | (refine Keeps.app ?_ ?_; focus (simp; done))
    | simp only [Keeps.upd] | split

@[simp] theorem validFrame_keeps (i : Nat) (u : Up) (s : State) : Keeps s (validFrame i u s) := by
  unfold validFrame
  repeat' with_reducible first
    | assumption | exact Keeps.refl _
    | (intro x; refine (fun (hx : Keeps s x) => ?_) ?_; clear_value x; rotate_left; simp only [x]; clear x)
    | (intro (x : Dmc); simp only [x]; clear x) | (intro (x : Cfl); simp only [x]; clear x)
    | (intro (x : Slt); simp only [x]; clear x) | (intro x; clear_value x) | lift_lets | refine Keeps.ite ?_ ?_
    | (refine Keeps.app ?_ ?_; focus (simp; done)) | simp only [Keeps.upd]
    | (refine Keeps.app2 ?_ ?_; focus (simp; done)) | (refine Keeps.app1 ?_ ?_; focus (simp; done)) | dsimp only
    | split | (refine Keeps.snd (by assumption) ?_ ?_; rotate_left; focus (simp; done))
    | (refine Keeps.fst (by assumption) ?_ ?_; rotate_left; focus (simp; done))

@[simp] theorem upFrame_keeps (u : Up) (s : State) : Keeps s (upFrame u s) := by
  unfold upFrame
  repeat' with_reducible first
    | assumption | exact Keeps.refl _ | refine Keeps.ite ?_ ?_ | (refine Keeps.app ?_ ?_; focus (simp; done))
    | simp only [Keeps.upd] | split

@[simp] theorem answerAck_keeps (i : Nat) (f : AckFrame) (s : State) : Keeps s (answerAck i f s) := by
  unfold answerAck
  repeat' with_reducible first
    | assumption | exact Keeps.refl _ | refine Keeps.ite ?_ ?_ | (refine Keeps.app ?_ ?_; focus (simp; done))
    | simp only [Keeps.upd] | split

@[simp] theorem ackFrame_keeps (f : AckFrame) (s : State) : Keeps s (ackFrame f s) := by
  unfold ackFrame
  repeat' with_reducible first
    | assumption | exact Keeps.refl _ | refine Keeps.ite ?_ ?_ | (refine Keeps.app ?_ ?_; focus (simp; done))
    | simp only [Keeps.upd] | split

@[simp] theorem badTypeFrame_keeps (e : Env) (type : Nat) (s : State) : Keeps s (badTypeFrame e type s) := by
  unfold badTypeFrame
  repeat' with_reducible first
    | assumption | exact Keeps.refl _ | refine Keeps.ite ?_ ?_ | (refine Keeps.app ?_ ?_; focus (simp; done))
    | simp only [Keeps.upd] | split

@[simp] theorem ackDelay_keeps (i : Nat) (s : State) : Keeps s (ackDelay i s) := by
  unfold ackDelay
  repeat' with_reducible first
    | assumption | exact Keeps.refl _ | refine Keeps.ite ?_ ?_ | (refine Keeps.app ?_ ?_; focus (simp; done))
    | simp only [Keeps.upd] | split

@[simp] theorem gapRepeat_keeps (i : Nat) (s : State) : Keeps s (gapRepeat i s) := by
  unfold gapRepeat
  repeat' with_reducible first
    | assumption | exact Keeps.refl _ | refine Keeps.ite ?_ ?_ | (refine Keeps.app ?_ ?_; focus (simp; done))
    | simp only [Keeps.upd] | split

@[simp] theorem gapExpire_keeps (i : Nat) (s : State) : Keeps s (gapExpire i s) := by
  unfold gapExpire
  repeat' with_reducible first
    | assumption | exact Keeps.refl _ | refine Keeps.ite ?_ ?_ | (refine Keeps.app ?_ ?_; focus (simp; done))
    | simp only [Keeps.upd] | split

@[simp] theorem rtoExpire_keeps (i : Nat) (s : State) : Keeps s (rtoExpire i s) := by
  unfold rtoExpire
  repeat' with_reducible first
    | assumption | exact Keeps.refl _ | refine Keeps.ite ?_ ?_ | (refine Keeps.app ?_ ?_; focus (simp; done))
    | simp only [Keeps.upd] | split

end Sys2Proof.Laws
end

