-- ==== Sys2Proof/Laws/KeepsDiag.lean ====
section
/-! SUPPORT. What the operations of Machine/Diag.lean keep. -/

namespace Sys2Proof.Laws

open Sys2Proof Sys2Proof.Machine Sys2Proof.Safety

set_option linter.unusedTactic false
set_option linter.unreachableTactic false
set_option linter.unusedSimpArgs false

@[simp] theorem diagReply_keeps (f : DiagFrame) (result : Nat) (data : List Byte) (s : State) :
    Keeps s (diagReply f result data s) := by
  unfold diagReply
  simp [Keeps.upd]

@[simp] theorem releaseBinding_keeps (f : DiagFrame) (s : State) : Keeps s (releaseBinding f s).2 := by
  unfold releaseBinding
  repeat' split
  · exact Keeps.refl s
  · exact Keeps.refl s
  · exact Keeps.refl s
  · exact ⟨rfl, rfl, Nat.le_refl _, id, FusesLe.modNth _ _ _ _ (Nat.le_refl _) fun b => ⟨rfl, Nat.le_refl _, fun _ => rfl⟩, id⟩

@[simp] theorem diagUnknown_keeps (f : DiagFrame) (s : State) : Keeps s (diagUnknown f s) := by
  unfold diagUnknown
  repeat' with_reducible first
    | assumption | exact Keeps.refl _ | refine Keeps.ite ?_ ?_ | (refine Keeps.app ?_ ?_; focus (simp; done))
    | simp only [Keeps.upd] | split

@[simp] theorem lodestoneAnswer_keeps (f : DiagFrame) (s : State) : Keeps s (lodestoneAnswer f s) := by
  unfold lodestoneAnswer
  repeat' with_reducible first
    | assumption | exact Keeps.refl _ | refine Keeps.ite ?_ ?_ | (refine Keeps.app ?_ ?_; focus (simp; done))
    | simp only [Keeps.upd] | simp only [KeepsO.some, KeepsO.none] | refine KeepsO.ite ?_ ?_ | split
    | focus (simp; done)

@[simp] theorem lodestoneDiag_keeps (f : DiagFrame) (s : State) : Keeps s (lodestoneDiag f s) := by
  unfold lodestoneDiag
  repeat' with_reducible first
    | assumption | exact Keeps.refl _ | refine Keeps.ite ?_ ?_ | (refine Keeps.app ?_ ?_; focus (simp; done))
    | simp only [Keeps.upd] | split

@[simp] theorem runAnswer_keeps (f : DiagFrame) (s : State) : Keeps s (runAnswer f s) := by
  unfold runAnswer
  repeat' with_reducible first
    | assumption | exact Keeps.refl _ | refine Keeps.ite ?_ ?_ | (refine Keeps.app ?_ ?_; focus (simp; done))
    | simp only [Keeps.upd] | simp only [KeepsO.some, KeepsO.none] | refine KeepsO.ite ?_ ?_ | split
    | focus (simp; done)

@[simp] theorem runDiag_keeps (f : DiagFrame) (s : State) : Keeps s (runDiag f s) := by
  unfold runDiag
  repeat' with_reducible first
    | assumption | exact Keeps.refl _ | refine Keeps.ite ?_ ?_ | (refine Keeps.app ?_ ?_; focus (simp; done))
    | simp only [Keeps.upd] | split

@[simp] theorem diagFrame_keeps (f : DiagFrame) (s : State) : Keeps s (diagFrame f s) := by
  unfold diagFrame
  repeat' with_reducible first
    | assumption | exact Keeps.refl _ | refine Keeps.ite ?_ ?_ | (refine Keeps.app ?_ ?_; focus (simp; done))
    | simp only [Keeps.upd] | split

end Sys2Proof.Laws
end

