-- ==== Sys2Proof/Laws/KeepsRestart.lean ====
section
/-! SUPPORT. What the operations of Machine/Restart.lean keep. -/

namespace Sys2Proof.Laws

open Sys2Proof Sys2Proof.Machine Sys2Proof.Safety

set_option linter.unusedTactic false
set_option linter.unreachableTactic false
set_option linter.unusedSimpArgs false

@[simp] theorem redoDone_keeps (i slot : Nat) (c : Completion) (trl : Option Trailer) (t : Task) (owed : Bool) (s : State) :
    Keeps s (redoDone i slot c trl t owed s) := by
  unfold redoDone
  repeat' with_reducible first
    | assumption | exact Keeps.refl _ | refine Keeps.ite ?_ ?_ | (refine Keeps.app ?_ ?_; focus (simp; done))
    | simp only [Keeps.upd] | split

@[simp] theorem endPrograms_keeps (s : State) : Keeps s (endPrograms s) := by
  unfold endPrograms
  repeat' with_reducible first
    | assumption | exact Keeps.refl _
    | (intro x; refine (fun (hx : Keeps s x) => ?_) ?_; clear_value x; rotate_left; simp only [x]; clear x)
    | (intro (x : Dmc); simp only [x]; clear x) | (intro (x : Cfl); simp only [x]; clear x)
    | (intro (x : Slt); simp only [x]; clear x) | (intro x; clear_value x) | intro _ | lift_lets
    | refine Keeps.ite ?_ ?_ | (refine Keeps.app ?_ ?_; focus (simp; done)) | simp only [Keeps.upd]
    | refine Keeps.foldl ?_ ?_ | split

@[simp] theorem endFlush_keeps (i slot : Nat) (s : State) : Keeps s (endFlush i slot s) := by
  unfold endFlush
  repeat' with_reducible first
    | assumption | exact Keeps.refl _ | refine Keeps.ite ?_ ?_ | (refine Keeps.app ?_ ?_; focus (simp; done))
    | simp only [Keeps.upd] | split

@[simp] theorem runHeld_keeps (i slot : Nat) (s : State) : Keeps s (runHeld i slot s) := by
  unfold runHeld
  repeat' with_reducible first
    | assumption | exact Keeps.refl _ | refine Keeps.ite ?_ ?_ | (refine Keeps.app ?_ ?_; focus (simp; done))
    | simp only [Keeps.upd] | split

@[simp] theorem endBlock_keeps (i slot b : Nat) (s : State) : Keeps s (endBlock i slot b s) := by
  unfold endBlock
  repeat' with_reducible first
    | assumption | exact Keeps.refl _ | refine Keeps.ite ?_ ?_ | (refine Keeps.app ?_ ?_; focus (simp; done))
    | simp only [Keeps.upd] | simp only [KeepsO.some, KeepsO.none] | refine KeepsO.ite ?_ ?_ | split
    | focus (simp; done)

@[simp] theorem endHeld_keeps (i slot : Nat) (s : State) : Keeps s (endHeld i slot s) := by
  unfold endHeld
  repeat' with_reducible first
    | assumption | exact Keeps.refl _
    | (intro x; refine (fun (hx : Keeps s x) => ?_) ?_; clear_value x; rotate_left; simp only [x]; clear x)
    | (intro (x : Dmc); simp only [x]; clear x) | (intro (x : Cfl); simp only [x]; clear x)
    | (intro (x : Slt); simp only [x]; clear x) | (intro x; clear_value x) | intro _ | lift_lets
    | refine Keeps.ite ?_ ?_ | (refine Keeps.app ?_ ?_; focus (simp; done)) | simp only [Keeps.upd]
    | refine Keeps.foldl ?_ ?_ | split

theorem Keeps.forHeld {r s : State} {f : Nat → Nat → State → State} (h : Keeps r s)
    (k : ∀ i n x, Keeps r x → Keeps r (f i n x)) : Keeps r (Machine.forHeld f s) := by
  refine Keeps.forInsts h fun i x hx => ?_
  split
  · exact hx
  · exact Keeps.foldl hx fun y a hy => k _ _ _ hy

@[simp] theorem restoreImmediate_keeps (s : State) : Keeps s (restoreImmediate s) := by
  unfold restoreImmediate
  repeat' with_reducible first
    | assumption | exact Keeps.refl _
    | (intro x; refine (fun (hx : Keeps s x) => ?_) ?_; clear_value x; rotate_left; simp only [x]; clear x)
    | (intro (x : Dmc); simp only [x]; clear x) | (intro (x : Cfl); simp only [x]; clear x)
    | (intro (x : Slt); simp only [x]; clear x) | (intro x; clear_value x) | intro _ | lift_lets
    | refine Keeps.ite ?_ ?_ | (refine Keeps.app ?_ ?_; focus (simp; done)) | simp only [Keeps.upd]
    | refine Keeps.foldl ?_ ?_ | split

@[simp] theorem recordLates_keeps (i : Nat) (s : State) : Keeps s (recordLates i s) := by
  unfold recordLates
  repeat' with_reducible first
    | assumption | exact Keeps.refl _ | refine Keeps.ite ?_ ?_ | (refine Keeps.app ?_ ?_; focus (simp; done))
    | simp only [Keeps.upd] | split

@[simp] theorem openInst_keeps (kind : Nat) (unconfirmed : List (Nat × U32 × U32)) (i : Nat) (x0 : Inst) (s : State) :
    Keeps s (openInst kind unconfirmed i x0 s) := by
  unfold openInst
  repeat' with_reducible first
    | assumption | exact Keeps.refl _
    | (intro x; refine (fun (hx : Keeps s x) => ?_) ?_; clear_value x; rotate_left; simp only [x]; clear x)
    | (intro (x : Dmc); simp only [x]; clear x) | (intro (x : Cfl); simp only [x]; clear x)
    | (intro (x : Slt); simp only [x]; clear x) | (intro x; clear_value x) | intro _ | lift_lets
    | refine Keeps.ite ?_ ?_ | (refine Keeps.app ?_ ?_; focus (simp; done)) | simp only [Keeps.upd]
    | refine Keeps.foldl ?_ ?_ | split

@[simp] theorem restartTimeouts_keeps (s : State) : Keeps s (restartTimeouts s) := by
  unfold restartTimeouts
  simp [Keeps.upd]

@[simp] theorem clearRecent_keeps (s : State) : Keeps s (clearRecent s) := by
  unfold clearRecent
  simp [Keeps.upd]

@[simp] theorem freeQueues_keeps (i : Nat) (s : State) : Keeps s (freeQueues i s) := by
  unfold freeQueues
  repeat' with_reducible first
    | assumption | exact Keeps.refl _
    | (intro x; refine (fun (hx : Keeps s x) => ?_) ?_; clear_value x; rotate_left; simp only [x]; clear x)
    | (intro (x : Dmc); simp only [x]; clear x) | (intro (x : Cfl); simp only [x]; clear x)
    | (intro (x : Slt); simp only [x]; clear x) | (intro x; clear_value x) | intro _ | lift_lets
    | refine Keeps.ite ?_ ?_ | (refine Keeps.app ?_ ?_; focus (simp; done)) | simp only [Keeps.upd]
    | refine Keeps.foldl ?_ ?_ | split

@[simp] theorem enterRun_keeps (s : State) : Keeps s (enterRun s) := by
  unfold enterRun
  simp [Keeps.upd]

@[simp] theorem openAcceptance_keeps (kind : Nat) (unconfirmed : List (Nat × U32 × U32)) (s : State) :
    Keeps s (openAcceptance kind unconfirmed s) := by
  unfold openAcceptance
  repeat' with_reducible first
    | assumption | exact Keeps.refl _ | intro _ | refine Keeps.ite ?_ ?_
    | (refine Keeps.app ?_ ?_; focus (simp; done)) | simp only [Keeps.upd] | refine Keeps.forInsts ?_ ?_
    | refine Keeps.foldl ?_ ?_ | split

@[simp] theorem tellHeld_keeps (s : State) : Keeps s (tellHeld s) := by
  unfold tellHeld
  repeat' with_reducible first
    | assumption | exact Keeps.refl _ | intro _ | refine Keeps.ite ?_ ?_
    | (refine Keeps.app ?_ ?_; focus (simp; done)) | simp only [Keeps.upd] | refine Keeps.forInsts ?_ ?_
    | refine Keeps.foldl ?_ ?_ | split

@[simp] theorem programFuses_keeps (im : Image) (s : State) : Keeps s (programFuses im s) := by
  unfold programFuses
  refine ⟨rfl, rfl, Nat.le_refl _, id, ?_, id⟩
  dsimp only
  split
  · exact FusesLe.append _ _ _ (Nat.le_max_left ..)
  · exact FusesLe.modNth _ _ _ _ (Nat.le_max_left ..) fun b => ⟨rfl, Nat.le_max_left .., id⟩

@[simp] theorem installManagerKey_keeps (im : Image) (s : State) : Keeps s (installManagerKey im s) := by
  unfold installManagerKey
  repeat' with_reducible first
    | assumption | exact Keeps.refl _ | refine Keeps.ite ?_ ?_ | (refine Keeps.app ?_ ?_; focus (simp; done))
    | simp only [Keeps.upd] | split

@[simp] theorem trainImagePorts_keeps (s : State) : Keeps s (trainImagePorts s) := by
  unfold trainImagePorts
  repeat' with_reducible first
    | assumption | exact Keeps.refl _ | refine Keeps.ite ?_ ?_ | (refine Keeps.app ?_ ?_; focus (simp; done))
    | simp only [Keeps.upd] | split

@[simp] theorem step12_keeps (b : Board) (s : State) : Keeps s (step12 b s) := by
  unfold step12
  repeat' with_reducible first
    | assumption | exact Keeps.refl _ | refine Keeps.ite ?_ ?_ | (refine Keeps.app ?_ ?_; focus (simp; done))
    | simp only [Keeps.upd] | split

theorem runSteps_keeps (l : List (State → Except Failed State)) (h : ∀ f ∈ l, ∀ s, KeepsR s (f s)) (s : State) :
    KeepsR s (runSteps l s) := by
  induction l generalizing s with
  | nil => exact Keeps.refl s
  | cons f l ih =>
    unfold runSteps
    have k := KeepsR.trans (drainFifo_keeps s) (h f (by simp) (drainFifo s))
    split
    · rename_i t e
      rw [e] at k
      exact KeepsR.trans k (ih (fun g hg => h g (by simp [hg])) t)
    · rename_i t e
      rw [e] at k
      exact k

theorem runSteps_cut_keeps (c : Option StartCut) (n : StartCut → Nat) (l : List (State → Except Failed State))
    (h : ∀ f ∈ l, ∀ s, KeepsR s (f s)) (s : State) :
    KeepsR s (runSteps (match c with
      | some c => l.take (n c)
      | none => l) s) := by
  cases c with
  | none => exact runSteps_keeps l h s
  | some c => exact runSteps_keeps _ (fun f hf => h f (List.mem_of_mem_take hf)) s

theorem coldSteps_each (b : Board) : ∀ f ∈ coldSteps b, ∀ s, KeepsR s (f s) := by simp [coldSteps]

@[simp] theorem nextIncarn_keeps (s : State) : Keeps s (nextIncarn s) := by
  unfold nextIncarn
  simp [Keeps.upd]

@[simp] theorem beginStart_keeps (kind cause : Nat) (b : Board) (s : State) : Keeps s (beginStart kind cause b s) := by
  unfold beginStart
  repeat' with_reducible first
    | assumption | exact Keeps.refl _ | refine Keeps.ite ?_ ?_ | (refine Keeps.app ?_ ?_; focus (simp; done))
    | simp only [Keeps.upd] | split

@[simp] theorem beginDump_keeps (s : State) : Keeps s (beginDump s) := by
  unfold beginDump
  repeat' with_reducible first
    | assumption | exact Keeps.refl _ | refine Keeps.ite ?_ ?_ | (refine Keeps.app ?_ ?_; focus (simp; done))
    | simp only [Keeps.upd] | split

@[simp] theorem failStart_keeps (e : Failed) (us : Nat) :
    Keeps e.st (failStart e us) := by
  unfold failStart
  repeat' with_reducible first
    | assumption | exact Keeps.refl _ | refine Keeps.ite ?_ ?_ | (refine Keeps.app ?_ ?_; focus (simp; done))
    | simp only [Keeps.upd] | split

@[simp] theorem cutStart_keeps (c : StartCut) (s : State) : Keeps s (cutStart c s) := by
  unfold cutStart
  repeat' with_reducible first
    | assumption | exact Keeps.refl _ | refine Keeps.ite ?_ ?_ | (refine Keeps.app ?_ ?_; focus (simp; done))
    | simp only [Keeps.upd] | split

@[simp] theorem runStart_keeps (b : Board) (s : State) : Keeps s (runStart b s) := by
  unfold runStart
  dsimp only
  have hk : KeepsR s (runSteps (match b.cut with
      | some c => (coldSteps { b with straps := s.sys.straps }).take (c.step - 2)
      | none => coldSteps { b with straps := s.sys.straps }) { s with sys := { s.sys with hold := .no } }) :=
    KeepsR.trans (by simp only [Keeps.upd, Keeps.refl])
      (runSteps_cut_keeps b.cut (fun c => c.step - 2) _ (coldSteps_each _) _)
  split
  · rename_i t e
    replace hk : Keeps s t := by
      erw [e] at hk
      exact hk
    split
    · exact Keeps.app (cutStart_keeps ..) (Keeps.app (drainFifo_keeps ..) hk)
    · exact Keeps.app (step12_keeps ..) (Keeps.app (drainFifo_keeps ..) hk)
  · rename_i t e
    replace hk : Keeps s t.st := by
      erw [e] at hk
      exact hk
    exact Keeps.trans hk (failStart_keeps ..)

@[simp] theorem heatCheck_keeps (b : Board) (kind : Nat) (s : State) : Keeps s (heatCheck b kind s) := by
  unfold heatCheck
  repeat' with_reducible first
    | assumption | exact Keeps.refl _ | refine Keeps.ite ?_ ?_ | (refine Keeps.app ?_ ?_; focus (simp; done))
    | simp only [Keeps.upd] | split

@[simp] theorem coldStart_keeps (kind cause : Nat) (b : Board) (s : State) : Keeps s (coldStart kind cause b s) := by
  unfold coldStart
  repeat' with_reducible first
    | assumption | exact Keeps.refl _ | refine Keeps.ite ?_ ?_ | (refine Keeps.app ?_ ?_; focus (simp; done))
    | simp only [Keeps.upd] | split

@[simp] theorem retrainAll_keeps (t : SelfTest) (s : State) : KeepsR s (retrainAll t s) := by
  unfold retrainAll
  repeat' with_reducible first
    | assumption | exact Keeps.refl _
    | (intro x; refine (fun (hx : Keeps s x) => ?_) ?_; clear_value x; rotate_left; simp only [x]; clear x)
    | (intro x; refine (fun (hx : KeepsO s x) => ?_) ?_; clear_value x; rotate_left; simp only [x]; clear x)
    | (intro x; refine (fun (hx : KeepsR s x) => ?_) ?_; clear_value x; rotate_left; simp only [x]; clear x)
    | (intro x; refine (fun (hx : Keeps s x.2) => ?_) ?_; clear_value x; rotate_left; simp only [x]; clear x)
    | (intro x; refine (fun (hx : Keeps s x.1) => ?_) ?_; clear_value x; rotate_left; simp only [x]; clear x)
    | (intro (x : Obs); simp only [x]; clear x) | (intro (x : Dmc); simp only [x]; clear x)
    | (intro (x : Cfl); simp only [x]; clear x) | (intro (x : Slt); simp only [x]; clear x)
    | (intro x; clear_value x) | intro (_ : Keeps _ _) | (intro x; simp only [x]; clear x) | intro _ | lift_lets
    | refine Keeps.ite ?_ ?_ | (refine Keeps.app ?_ ?_; focus (simp; done)) | simp only [Keeps.upd, Keeps.updObs]
    | refine Keeps.forInsts ?_ ?_ | refine Keeps.forHeld ?_ ?_ | refine Keeps.foldl ?_ ?_
    | refine Keeps.foldl2 ?_ ?_ | refine Keeps.foldl1 ?_ ?_ | (refine Keeps.app2 ?_ ?_; focus (simp; done))
    | (refine Keeps.app1 ?_ ?_; focus (simp; done)) | dsimp only
    | simp only [KeepsO.some, KeepsO.none, KeepsR.ok, KeepsR.error, KeepsP.some] | refine KeepsO.ite ?_ ?_
    | refine KeepsR.ite ?_ ?_ | refine KeepsP.ite ?_ ?_ | split
    | (refine Keeps.snd (by assumption) ?_ ?_; rotate_left; focus (simp; done))
    | (refine Keeps.fst (by assumption) ?_ ?_; rotate_left; focus (simp; done))
    | (refine KeepsO.of (by assumption) ?_ ?_; rotate_left; focus (simp; done))
    | (refine KeepsP.of (by assumption) ?_ ?_; rotate_left; focus (simp; done)) | focus (simp; done)
    | (refine KeepsR.app ?_ ?_; focus (simp; done))
    | (refine KeepsR.of_ok (by assumption) ?_ ?_; rotate_left; focus (simp; done))
    | (refine KeepsR.of_error (by assumption) ?_ ?_; rotate_left; focus (simp; done))

@[simp] theorem wakeDram_keeps (t : SelfTest) (s : State) : KeepsR s (wakeDram t s) := by
  unfold wakeDram
  repeat' with_reducible first
    | assumption | exact Keeps.refl _
    | (intro x; refine (fun (hx : Keeps s x) => ?_) ?_; clear_value x; rotate_left; simp only [x]; clear x)
    | (intro x; refine (fun (hx : KeepsO s x) => ?_) ?_; clear_value x; rotate_left; simp only [x]; clear x)
    | (intro x; refine (fun (hx : KeepsR s x) => ?_) ?_; clear_value x; rotate_left; simp only [x]; clear x)
    | (intro x; refine (fun (hx : Keeps s x.2) => ?_) ?_; clear_value x; rotate_left; simp only [x]; clear x)
    | (intro x; refine (fun (hx : Keeps s x.1) => ?_) ?_; clear_value x; rotate_left; simp only [x]; clear x)
    | (intro (x : Obs); simp only [x]; clear x) | (intro (x : Dmc); simp only [x]; clear x)
    | (intro (x : Cfl); simp only [x]; clear x) | (intro (x : Slt); simp only [x]; clear x)
    | (intro x; clear_value x) | intro (_ : Keeps _ _) | (intro x; simp only [x]; clear x) | intro _ | lift_lets
    | refine Keeps.ite ?_ ?_ | (refine Keeps.app ?_ ?_; focus (simp; done)) | simp only [Keeps.upd, Keeps.updObs]
    | refine Keeps.forInsts ?_ ?_ | refine Keeps.forHeld ?_ ?_ | refine Keeps.foldl ?_ ?_
    | refine Keeps.foldl2 ?_ ?_ | refine Keeps.foldl1 ?_ ?_ | (refine Keeps.app2 ?_ ?_; focus (simp; done))
    | (refine Keeps.app1 ?_ ?_; focus (simp; done)) | dsimp only
    | simp only [KeepsO.some, KeepsO.none, KeepsR.ok, KeepsR.error, KeepsP.some] | refine KeepsO.ite ?_ ?_
    | refine KeepsR.ite ?_ ?_ | refine KeepsP.ite ?_ ?_ | split
    | (refine Keeps.snd (by assumption) ?_ ?_; rotate_left; focus (simp; done))
    | (refine Keeps.fst (by assumption) ?_ ?_; rotate_left; focus (simp; done))
    | (refine KeepsO.of (by assumption) ?_ ?_; rotate_left; focus (simp; done))
    | (refine KeepsP.of (by assumption) ?_ ?_; rotate_left; focus (simp; done)) | focus (simp; done)
    | (refine KeepsR.app ?_ ?_; focus (simp; done))
    | (refine KeepsR.of_ok (by assumption) ?_ ?_; rotate_left; focus (simp; done))
    | (refine KeepsR.of_error (by assumption) ?_ ?_; rotate_left; focus (simp; done))

@[simp] theorem warmBank_keeps (t : SelfTest) (s : State) : KeepsR s (warmBank t s) := by
  unfold warmBank
  repeat' with_reducible first
    | assumption | exact Keeps.refl _
    | (intro x; refine (fun (hx : Keeps s x) => ?_) ?_; clear_value x; rotate_left; simp only [x]; clear x)
    | (intro (x : Dmc); simp only [x]; clear x) | (intro (x : Cfl); simp only [x]; clear x)
    | (intro (x : Slt); simp only [x]; clear x) | (intro x; clear_value x) | lift_lets | refine Keeps.ite ?_ ?_
    | (refine Keeps.app ?_ ?_; focus (simp; done)) | simp only [Keeps.upd] | simp only [KeepsR.ok, KeepsR.error]
    | refine KeepsR.ite ?_ ?_ | (refine KeepsR.app ?_ ?_; focus (simp; done)) | split
    | (refine KeepsR.of_ok (by assumption) ?_ ?_; rotate_left; focus (simp; done))
    | (refine KeepsR.of_error (by assumption) ?_ ?_; rotate_left; focus (simp; done))

@[simp] theorem warmLines_keeps (t : SelfTest) (s : State) : KeepsR s (warmLines t s) := by
  unfold warmLines
  repeat' with_reducible first
    | assumption | exact Keeps.refl _
    | (intro x; refine (fun (hx : Keeps s x) => ?_) ?_; clear_value x; rotate_left; simp only [x]; clear x)
    | (intro (x : Dmc); simp only [x]; clear x) | (intro (x : Cfl); simp only [x]; clear x)
    | (intro (x : Slt); simp only [x]; clear x) | (intro x; clear_value x) | lift_lets | refine Keeps.ite ?_ ?_
    | (refine Keeps.app ?_ ?_; focus (simp; done)) | simp only [Keeps.upd] | simp only [KeepsR.ok, KeepsR.error]
    | refine KeepsR.ite ?_ ?_ | (refine KeepsR.app ?_ ?_; focus (simp; done)) | split
    | (refine KeepsR.of_ok (by assumption) ?_ ?_; rotate_left; focus (simp; done))
    | (refine KeepsR.of_error (by assumption) ?_ ?_; rotate_left; focus (simp; done))

@[simp] theorem warmSram_keeps (t : SelfTest) (s : State) : KeepsR s (warmSram t s) := by
  unfold warmSram
  repeat' with_reducible first
    | assumption | exact Keeps.refl _ | refine Keeps.ite ?_ ?_ | (refine Keeps.app ?_ ?_; focus (simp; done))
    | simp only [Keeps.upd] | simp only [KeepsO.some, KeepsO.none] | refine KeepsO.ite ?_ ?_ | split
    | focus (simp; done)

@[simp] theorem warmDram_keeps (t : SelfTest) (s : State) : KeepsR s (warmDram t s) := by
  unfold warmDram
  repeat' with_reducible first
    | assumption | exact Keeps.refl _
    | (intro x; refine (fun (hx : Keeps s x) => ?_) ?_; clear_value x; rotate_left; simp only [x]; clear x)
    | (intro (x : Dmc); simp only [x]; clear x) | (intro (x : Cfl); simp only [x]; clear x)
    | (intro (x : Slt); simp only [x]; clear x) | (intro x; clear_value x) | lift_lets | refine Keeps.ite ?_ ?_
    | (refine Keeps.app ?_ ?_; focus (simp; done)) | simp only [Keeps.upd] | simp only [KeepsR.ok, KeepsR.error]
    | refine KeepsR.ite ?_ ?_ | (refine KeepsR.app ?_ ?_; focus (simp; done)) | split
    | (refine KeepsR.of_ok (by assumption) ?_ ?_; rotate_left; focus (simp; done))
    | (refine KeepsR.of_error (by assumption) ?_ ?_; rotate_left; focus (simp; done))

theorem warmSteps_each (t : SelfTest) : ∀ f ∈ warmSteps t, ∀ s, KeepsR s (f s) := by simp [warmSteps]

@[simp] theorem unlockOldest_keeps (s : State) : Keeps s (unlockOldest s) := by
  unfold unlockOldest
  repeat' with_reducible first
    | assumption | exact Keeps.refl _ | refine Keeps.ite ?_ ?_ | (refine Keeps.app ?_ ?_; focus (simp; done))
    | simp only [Keeps.upd] | split

@[simp] theorem unlockAll_keeps (s : State) : Keeps s (unlockAll s) := by
  unfold unlockAll
  repeat' with_reducible first
    | assumption | exact Keeps.refl _
    | (intro x; refine (fun (hx : Keeps s x) => ?_) ?_; clear_value x; rotate_left; simp only [x]; clear x)
    | (intro (x : Dmc); simp only [x]; clear x) | (intro (x : Cfl); simp only [x]; clear x)
    | (intro (x : Slt); simp only [x]; clear x) | (intro x; clear_value x) | intro _ | lift_lets
    | refine Keeps.ite ?_ ?_ | (refine Keeps.app ?_ ?_; focus (simp; done)) | simp only [Keeps.upd]
    | refine Keeps.foldl ?_ ?_ | split

@[simp] theorem finishPages_keeps (s : State) : Keeps s (finishPages s) := by
  unfold finishPages
  repeat' with_reducible first
    | assumption | exact Keeps.refl _
    | (intro x; refine (fun (hx : Keeps s x) => ?_) ?_; clear_value x; rotate_left; simp only [x]; clear x)
    | (intro (x : Dmc); simp only [x]; clear x) | (intro (x : Cfl); simp only [x]; clear x)
    | (intro (x : Slt); simp only [x]; clear x) | (intro x; clear_value x) | intro _ | lift_lets
    | refine Keeps.ite ?_ ?_ | (refine Keeps.app ?_ ?_; focus (simp; done)) | simp only [Keeps.upd]
    | refine Keeps.foldl ?_ ?_ | split

@[simp] theorem warmEnd_keeps (s : State) : Keeps s (warmEnd s) := by
  unfold warmEnd
  repeat' with_reducible first
    | assumption | exact Keeps.refl _
    | (intro x; refine (fun (hx : Keeps s x) => ?_) ?_; clear_value x; rotate_left; simp only [x]; clear x)
    | (intro x; refine (fun (hx : KeepsO s x) => ?_) ?_; clear_value x; rotate_left; simp only [x]; clear x)
    | (intro x; refine (fun (hx : KeepsR s x) => ?_) ?_; clear_value x; rotate_left; simp only [x]; clear x)
    | (intro x; refine (fun (hx : Keeps s x.2) => ?_) ?_; clear_value x; rotate_left; simp only [x]; clear x)
    | (intro x; refine (fun (hx : Keeps s x.1) => ?_) ?_; clear_value x; rotate_left; simp only [x]; clear x)
    | (intro (x : Obs); simp only [x]; clear x) | (intro (x : Dmc); simp only [x]; clear x)
    | (intro (x : Cfl); simp only [x]; clear x) | (intro (x : Slt); simp only [x]; clear x)
    | (intro x; clear_value x) | intro (_ : Keeps _ _) | (intro x; simp only [x]; clear x) | intro _ | lift_lets
    | refine Keeps.ite ?_ ?_ | (refine Keeps.app ?_ ?_; focus (simp; done)) | simp only [Keeps.upd, Keeps.updObs]
    | refine Keeps.forInsts ?_ ?_ | refine Keeps.forHeld ?_ ?_ | refine Keeps.foldl ?_ ?_
    | refine Keeps.foldl2 ?_ ?_ | refine Keeps.foldl1 ?_ ?_ | (refine Keeps.app2 ?_ ?_; focus (simp; done))
    | (refine Keeps.app1 ?_ ?_; focus (simp; done)) | dsimp only
    | simp only [KeepsO.some, KeepsO.none, KeepsR.ok, KeepsR.error, KeepsP.some] | refine KeepsO.ite ?_ ?_
    | refine KeepsR.ite ?_ ?_ | refine KeepsP.ite ?_ ?_ | split
    | (refine Keeps.snd (by assumption) ?_ ?_; rotate_left; focus (simp; done))
    | (refine Keeps.fst (by assumption) ?_ ?_; rotate_left; focus (simp; done))
    | (refine KeepsO.of (by assumption) ?_ ?_; rotate_left; focus (simp; done))
    | (refine KeepsP.of (by assumption) ?_ ?_; rotate_left; focus (simp; done)) | focus (simp; done)
    | (refine KeepsR.app ?_ ?_; focus (simp; done))
    | (refine KeepsR.of_ok (by assumption) ?_ ?_; rotate_left; focus (simp; done))
    | (refine KeepsR.of_error (by assumption) ?_ ?_; rotate_left; focus (simp; done))

@[simp] theorem warmReset_keeps (s : State) : Keeps s (warmReset s) := by
  unfold warmReset
  simp [Keeps.upd]

@[simp] theorem warmClose_keeps (cause : Nat) (s : State) : Keeps s (warmClose cause s) := by
  unfold warmClose
  repeat' with_reducible first
    | assumption | exact Keeps.refl _ | refine Keeps.ite ?_ ?_ | (refine Keeps.app ?_ ?_; focus (simp; done))
    | simp only [Keeps.upd] | split

@[simp] theorem warmStop_keeps (cause : Nat) (s : State) : Keeps s (warmStop cause s) := by
  unfold warmStop
  repeat' with_reducible first
    | assumption | exact Keeps.refl _
    | (intro x; refine (fun (hx : Keeps s x) => ?_) ?_; clear_value x; rotate_left; simp only [x]; clear x)
    | (intro x; refine (fun (hx : KeepsO s x) => ?_) ?_; clear_value x; rotate_left; simp only [x]; clear x)
    | (intro x; refine (fun (hx : KeepsR s x) => ?_) ?_; clear_value x; rotate_left; simp only [x]; clear x)
    | (intro x; refine (fun (hx : Keeps s x.2) => ?_) ?_; clear_value x; rotate_left; simp only [x]; clear x)
    | (intro x; refine (fun (hx : Keeps s x.1) => ?_) ?_; clear_value x; rotate_left; simp only [x]; clear x)
    | (intro (x : Obs); simp only [x]; clear x) | (intro (x : Dmc); simp only [x]; clear x)
    | (intro (x : Cfl); simp only [x]; clear x) | (intro (x : Slt); simp only [x]; clear x)
    | (intro x; clear_value x) | intro (_ : Keeps _ _) | (intro x; simp only [x]; clear x) | intro _ | lift_lets
    | refine Keeps.ite ?_ ?_ | (refine Keeps.app ?_ ?_; focus (simp; done)) | simp only [Keeps.upd, Keeps.updObs]
    | refine Keeps.forInsts ?_ ?_ | refine Keeps.forHeld ?_ ?_ | refine Keeps.foldl ?_ ?_
    | refine Keeps.foldl2 ?_ ?_ | refine Keeps.foldl1 ?_ ?_ | (refine Keeps.app2 ?_ ?_; focus (simp; done))
    | (refine Keeps.app1 ?_ ?_; focus (simp; done)) | dsimp only
    | simp only [KeepsO.some, KeepsO.none, KeepsR.ok, KeepsR.error, KeepsP.some] | refine KeepsO.ite ?_ ?_
    | refine KeepsR.ite ?_ ?_ | refine KeepsP.ite ?_ ?_ | split
    | (refine Keeps.snd (by assumption) ?_ ?_; rotate_left; focus (simp; done))
    | (refine Keeps.fst (by assumption) ?_ ?_; rotate_left; focus (simp; done))
    | (refine KeepsO.of (by assumption) ?_ ?_; rotate_left; focus (simp; done))
    | (refine KeepsP.of (by assumption) ?_ ?_; rotate_left; focus (simp; done)) | focus (simp; done)
    | (refine KeepsR.app ?_ ?_; focus (simp; done))
    | (refine KeepsR.of_ok (by assumption) ?_ ?_; rotate_left; focus (simp; done))
    | (refine KeepsR.of_error (by assumption) ?_ ?_; rotate_left; focus (simp; done))

@[simp] theorem cutWarm_keeps (c : StartCut) (s : State) : Keeps s (cutWarm c s) := by
  unfold cutWarm
  repeat' with_reducible first
    | assumption | exact Keeps.refl _ | refine Keeps.ite ?_ ?_ | (refine Keeps.app ?_ ?_; focus (simp; done))
    | simp only [Keeps.upd] | split

@[simp] theorem warmRun_keeps (w : WarmInputs) (s : State) : Keeps s (warmRun w s) := by
  unfold warmRun
  dsimp only
  have hk : KeepsR s (runSteps (match w.cut with
      | some c => (warmSteps w.test).take (warmBefore c.step)
      | none => warmSteps w.test) s) :=
    runSteps_cut_keeps w.cut (fun c => warmBefore c.step) _ (warmSteps_each _) _
  split
  · rename_i t e
    replace hk : Keeps s t.st := by
      erw [e] at hk
      exact hk
    refine Keeps.app (beginDump_keeps ..) (Keeps.app (modStest_keeps ..) ?_)
    simp only [Keeps.upd]
    exact hk
  · rename_i t e
    replace hk : Keeps s t := by
      erw [e] at hk
      exact hk
    split
    · exact Keeps.app (cutWarm_keeps ..) hk
    · refine Keeps.ite (Keeps.app (beginDump_keeps ..) ?_) ?_
      · simp only [Keeps.upd]
        exact hk
      · exact Keeps.app (modStest_keeps ..) (Keeps.app (openAcceptance_keeps ..)
          (Keeps.app (trainImagePorts_keeps ..) (Keeps.app (atStep_keeps ..) hk)))

@[simp] theorem warmStart_keeps (cause : Nat) (w : WarmInputs) (s : State) : Keeps s (warmStart cause w s) := by
  unfold warmStart
  repeat' with_reducible first
    | assumption | exact Keeps.refl _
    | (intro x; refine (fun (hx : Keeps s x) => ?_) ?_; clear_value x; rotate_left; simp only [x]; clear x)
    | (intro (x : Dmc); simp only [x]; clear x) | (intro (x : Cfl); simp only [x]; clear x)
    | (intro (x : Slt); simp only [x]; clear x) | (intro x; clear_value x) | lift_lets | refine Keeps.ite ?_ ?_
    | (refine Keeps.app ?_ ?_; focus (simp; done)) | simp only [Keeps.upd] | simp only [KeepsR.ok, KeepsR.error]
    | refine KeepsR.ite ?_ ?_ | (refine KeepsR.app ?_ ?_; focus (simp; done)) | split
    | (refine KeepsR.of_ok (by assumption) ?_ ?_; rotate_left; focus (simp; done))
    | (refine KeepsR.of_error (by assumption) ?_ ?_; rotate_left; focus (simp; done))

end Sys2Proof.Laws
end

