-- ==== Sys2Proof/Laws/KeepsPins.lean ====
section
/-! SUPPORT. What the operations of Machine/Pins.lean keep. -/

namespace Sys2Proof.Laws

open Sys2Proof Sys2Proof.Machine Sys2Proof.Safety

set_option linter.unusedTactic false
set_option linter.unreachableTactic false
set_option linter.unusedSimpArgs false

@[simp] theorem ballsUnder_keeps (t : Tap) (s : State) : Keeps s (ballsUnder t s) := by
  unfold ballsUnder
  simp [Keeps.upd]

@[simp] theorem ballsReturn_keeps (s : State) : Keeps s (ballsReturn s) := by
  unfold ballsReturn
  repeat' with_reducible first
    | assumption | exact Keeps.refl _ | refine Keeps.ite ?_ ?_ | (refine Keeps.app ?_ ?_; focus (simp; done))
    | simp only [Keeps.upd] | split

@[simp] theorem stopStart_keeps (s : State) : Keeps s (stopStart s) := by
  unfold stopStart
  repeat' with_reducible first
    | assumption | exact Keeps.refl _ | refine Keeps.ite ?_ ?_ | (refine Keeps.app ?_ ?_; focus (simp; done))
    | simp only [Keeps.upd] | split

@[simp] theorem failRun_keeps (src : Nat) (s : State) : Keeps s (failRun src s) := by
  unfold failRun
  repeat' with_reducible first
    | assumption | exact Keeps.refl _ | refine Keeps.ite ?_ ?_ | (refine Keeps.app ?_ ?_; focus (simp; done))
    | simp only [Keeps.upd] | split

@[simp] theorem edgeStart_keeps (b : Board) (s : State) : Keeps s (edgeStart b s) := by
  unfold edgeStart
  repeat' with_reducible first
    | assumption | exact Keeps.refl _ | refine Keeps.ite ?_ ?_ | (refine Keeps.app ?_ ?_; focus (simp; done))
    | simp only [Keeps.upd] | split

@[simp] theorem reopen_keeps (s : State) : Keeps s (reopen s) := by
  unfold reopen
  repeat' with_reducible first
    | assumption | exact Keeps.refl _ | refine Keeps.ite ?_ ?_ | (refine Keeps.app ?_ ?_; focus (simp; done))
    | simp only [Keeps.upd] | split

@[simp] theorem enterSafe_keeps (s : State) : Keeps s (enterSafe s) := by
  unfold enterSafe
  simp [Keeps.upd]

@[simp] theorem afterMarker_keeps (s : State) : Keeps s (afterMarker s) := by
  unfold afterMarker
  repeat' with_reducible first
    | assumption | exact Keeps.refl _ | refine Keeps.ite ?_ ?_ | (refine Keeps.app ?_ ?_; focus (simp; done))
    | simp only [Keeps.upd] | split

@[simp] theorem deferWarm_keeps (cause : Nat) (s : State) : Keeps s (deferWarm cause s) := by
  unfold deferWarm
  simp [Keeps.upd]

@[simp] theorem ignoreWarm_keeps (s : State) : Keeps s (ignoreWarm s) := by
  unfold ignoreWarm
  simp [Keeps.upd]

end Sys2Proof.Laws
end

