-- ==== Sys2Proof/Laws/Shapes.lean ====
section
/-! SUPPORT. What the shared operations change, said once: records and counters touch the recorder, the tally and
FCL_STATUS.CONTAINED and nothing else; the giving up of a code-flash operation touches the code flash and the counter of
free values. -/

namespace Sys2Proof.Laws

open Sys2Proof Sys2Proof.Machine Sys2Proof.Safety

/-- One bit is set or cleared, and every other keeps its value. -/
theorem setBit_testBit (x i n : Nat) (b : Bool) :
    (setBit x i b).testBit n = if n = i then b else x.testBit n := by
  unfold setBit
  split
  · rename_i h
    subst h
    by_cases e : n = i
    · subst e; simp
    · simp [e, Ne.symm e]
  · rename_i h
    simp only [Bool.not_eq_true] at h
    subst h
    split
    · rename_i k
      by_cases e : n = i
      · subst e; simp [k]
      · simp [e, Ne.symm e]
    · rename_i k
      by_cases e : n = i
      · subst e; simpa using k
      · simp [e]

/-! ### Records -/

@[simp] theorem Recorded.refl (s : State) : Recorded s s := rfl

theorem Recorded.mk (s : State) (o : Obs) (cs : List (Nat × Ctr)) (b : Bool) :
    Recorded s { s with obs := o, tal := { s.tal with ctrs := cs }, fcl := { s.fcl with contained := b } } := rfl

/-- The units counted in the bandwidth window (R390). -/
theorem Recorded.units (s : State) (rx tx : List Nat) :
    Recorded s { s with tal := { s.tal with rxUnits := rx, txUnits := tx } } := rfl

theorem Recorded.trans {r s t : State} (h : Recorded r s) (k : Recorded s t) : Recorded r t := by
  unfold Recorded at h k ⊢
  rw [h] at k
  exact k

theorem Recorded.app {r x : State} {f : State → State} (k : Recorded x (f x)) (h : Recorded r x) : Recorded r (f x) :=
  Recorded.trans h k

@[simp] theorem tallyRaw_recorded (target group field n : Nat) (s : State) :
    Recorded s (tallyRaw target group field n s) := rfl

@[simp] theorem fifoPush_recorded (r : Rec) (s : State) : Recorded s (fifoPush r s) := by
  unfold fifoPush
  split <;> rfl

@[simp] theorem severePush_recorded (r : Rec) (s : State) : Recorded s (severePush r s) := by
  unfold severePush
  split <;> rfl

@[simp] theorem eventAt_recorded (time code sev source inst : Nat) (simul first : Bool) (payload : Nat) (s : State) :
    Recorded s (eventAt time code sev source inst simul first payload s) := by
  unfold eventAt
  exact Recorded.app (fifoPush_recorded ..) (Recorded.app (severePush_recorded ..) rfl)

@[simp] theorem event_recorded (code sev source inst : Nat) (args : List Nat) (s : State) :
    Recorded s (event code sev source inst args s) := eventAt_recorded ..

@[simp] theorem notice_recorded (code : Nat) (args : List Nat) (s : State) : Recorded s (notice code args s) :=
  event_recorded ..

@[simp] theorem tally_recorded (target group field n : Nat) (s : State) : Recorded s (tally target group field n s) := by
  unfold tally
  dsimp only
  split
  · exact Recorded.app (notice_recorded ..) (tallyRaw_recorded ..)
  · exact tallyRaw_recorded ..

@[simp] theorem countPut_recorded (p : Put) (s : State) : Recorded s (countPut p s) := by cases p <;> rfl

@[simp] theorem putDevice_recorded (r : Rec) (s : State) : Recorded s (putDevice r s) := by
  unfold putDevice
  split
  · exact Recorded.app (countPut_recorded ..) rfl
  · split
    · exact countPut_recorded ..
    · split <;> rfl

@[simp] theorem putMain_recorded (r : Rec) (s : State) : Recorded s (putMain r s) := by
  unfold putMain
  split
  · exact Recorded.app (countPut_recorded ..) rfl
  · exact putDevice_recorded ..

@[simp] theorem putInst_recorded (r : Rec) (s : State) : Recorded s (putInst r s) := by
  unfold putInst
  split
  · exact Recorded.app (countPut_recorded ..) rfl
  · rfl

@[simp] theorem writeRecord_recorded (r : Rec) (s : State) : Recorded s (writeRecord r s) := by
  unfold writeRecord
  split
  · rfl
  · exact Recorded.app (tallyRaw_recorded ..) (Recorded.app (tallyRaw_recorded ..)
      (Recorded.app (putInst_recorded ..) (putMain_recorded ..)))

@[simp] theorem recordWrite_recorded (s : State) : Recorded s (recordWrite s) := by
  unfold recordWrite
  split
  · rfl
  · rename_i r l h
    have k : Recorded s (writeRecord r { s with obs := { s.obs with fifo := l } }) :=
      Recorded.trans (s := { s with obs := { s.obs with fifo := l } }) rfl (writeRecord_recorded ..)
    refine Recorded.trans k ?_
    unfold lostRecord
    dsimp only
    split <;> rfl

@[simp] theorem drainFifo_recorded (s : State) : Recorded s (drainFifo s) := by
  unfold drainFifo
  generalize List.range _ = l
  induction l generalizing s with
  | nil => rfl
  | cons a l ih => exact Recorded.trans (recordWrite_recorded s) (ih _)

/-- What the next record takes of the numbers (R381). -/
@[simp] theorem eventAt_seq (time code sev source inst : Nat) (simul first : Bool) (payload : Nat) (s : State) :
    (eventAt time code sev source inst simul first payload s).obs.seq = s.obs.seq + 1 := by
  unfold eventAt fifoPush severePush tallyRaw
  dsimp only
  repeat' split
  all_goals rfl

theorem eventAt_iseq (time code sev source inst : Nat) (simul first : Bool) (payload : Nat) (s : State) :
    (eventAt time code sev source inst simul first payload s).obs.iseq =
      if inst = noInst then s.obs.iseq else amSet s.obs.iseq inst (iseqOf s inst + 1) := by
  unfold eventAt fifoPush severePush tallyRaw
  dsimp only
  repeat' split
  all_goals rfl

theorem eventAt_contained (time code sev source inst : Nat) (simul first : Bool) (payload : Nat) (s : State) :
    (eventAt time code sev source inst simul first payload s).fcl.contained =
      (s.fcl.contained || decide (sev = sevContain)) := by
  have h : ∀ (r : Rec) (s : State), (fifoPush r s).fcl.contained = s.fcl.contained := fun r s => by
    unfold fifoPush tallyRaw
    split <;> rfl
  unfold eventAt
  dsimp only
  rw [h]
  unfold severePush
  split
  · rename_i k
    have : sev ≠ sevContain := Nat.ne_of_lt k
    simp [this]
  · rfl

/-- A record enters the FIFO where there is room for its severity, or it is lost (R382). -/
theorem eventAt_fifo (time code sev source inst : Nat) (simul first : Bool) (payload : Nat) (s : State) :
    (eventAt time code sev source inst simul first payload s).obs.fifo =
      if s.obs.fifo.length < 60 ∨ (s.obs.fifo.length < 64 ∧ sevContain ≤ sev) then
        s.obs.fifo ++ [{ seq := s.obs.seq, iseq := iseqOf s inst, time := time, code := code, severity := sev,
                         simul := simul, first := first, carried := false, source := source, inst := inst,
                         incarn := s.sys.incarn, derate := s.qtz.step, payload := payload }]
      else s.obs.fifo := by
  have h : ∀ (r : Rec) (s : State), (severePush r s).obs.fifo = s.obs.fifo := fun r s => by
    unfold severePush
    split <;> rfl
  unfold eventAt fifoPush tallyRaw
  dsimp only
  rw [h]
  simp only [Bool.or_eq_true, Bool.and_eq_true, decide_eq_true_eq]
  split <;> simp

/-! ### Frames that leave -/

@[simp] theorem Transported.refl (s : State) : Transported s s := rfl

theorem Transported.trans {r s t : State} (h : Transported r s) (k : Transported s t) : Transported r t := by
  unfold Transported at h k ⊢
  rw [h] at k
  exact k

theorem Transported.app {r x : State} {f : State → State} (k : Transported x (f x)) (h : Transported r x) :
    Transported r (f x) := Transported.trans h k

theorem Recorded.transported {s t : State} (h : Recorded s t) : Transported s t := by
  unfold Recorded at h
  unfold Transported
  rw [h]

theorem Transported.foldl {α : Type} {r : State} {f : State → α → State} {l : List α} {s : State}
    (h : Transported r s) (k : ∀ x a, Transported r x → Transported r (f x a)) : Transported r (l.foldl f s) := by
  induction l generalizing s with
  | nil => exact h
  | cons a l ih => exact ih (k s a h)

@[simp] theorem setInst_transported (i : Nat) (x : Inst) (s : State) : Transported s (setInst i x s) := rfl

@[simp] theorem modInst_transported (i : Nat) (f : Inst → Inst) (s : State) : Transported s (modInst i f s) := rfl

@[simp] theorem tally_transported (target group field n : Nat) (s : State) :
    Transported s (tally target group field n s) := Recorded.transported (tally_recorded ..)

@[simp] theorem event_transported (code sev source inst : Nat) (args : List Nat) (s : State) :
    Transported s (event code sev source inst args s) := Recorded.transported (event_recorded ..)

@[simp] theorem wrapEvent_transported (addr : Nat) (s : State) : Transported s (wrapEvent addr s) :=
  Recorded.transported (notice_recorded ..)

@[simp] theorem countIn_recorded (link bytes : Nat) (s : State) : Recorded s (countIn link bytes s) := by
  unfold countIn
  exact Recorded.app (tally_recorded ..) (Recorded.app (tally_recorded ..) (Recorded.units ..))

@[simp] theorem countOut_recorded (link bytes : Nat) (s : State) : Recorded s (countOut link bytes s) := by
  unfold countOut
  exact Recorded.app (tally_recorded ..) (Recorded.app (tally_recorded ..) (Recorded.units ..))

@[simp] theorem transmit_transported (d : Down) (s : State) : Transported s (transmit d s) := by
  unfold transmit
  exact Transported.app (Recorded.transported (countOut_recorded ..)) rfl

@[simp] theorem emit_transported (d : Down) (s : State) : Transported s (emit d s) := by
  unfold emit
  split
  · rfl
  · split
    · rfl
    · exact transmit_transported ..

@[simp] theorem sendOwned_transported (i pref flags slot block : Nat) (body : Body) (trailer : Option Trailer)
    (buf : Option (Nat × Nat)) (s : State) : Transported s (sendOwned i pref flags slot block body trailer buf s) := by
  unfold sendOwned
  split
  · rfl
  · dsimp only
    split
    · split
      · exact Transported.app (emit_transported ..) (setInst_transported ..)
      · exact setInst_transported ..
    · exact setInst_transported ..

@[simp] theorem sendSeq_transported (i pref flags slot block : Nat) (body : Body) (trailer : Option Trailer)
    (s : State) : Transported s (sendSeq i pref flags slot block body trailer s) := sendOwned_transported ..

@[simp] theorem sendUnseq_transported (i pref flags slot : Nat) (body : Body) (s : State) :
    Transported s (sendUnseq i pref flags slot body s) := by
  unfold sendUnseq
  split
  · rfl
  · split
    · rfl
    · exact Transported.app (emit_transported ..) (setInst_transported ..)

@[simp] theorem notify_transported (i ev a0 a1 a2 : Nat) (s : State) : Transported s (notify i ev a0 a1 a2 s) := by
  unfold notify
  split
  · rfl
  · exact sendSeq_transported ..

@[simp] theorem sendAck_transported (i : Nat) (s : State) : Transported s (sendAck i s) := by
  unfold sendAck
  split
  · rfl
  · exact sendUnseq_transported ..

@[simp] theorem sendProbeReply_transported (i link : Nat) (s : State) : Transported s (sendProbeReply i link s) := by
  unfold sendProbeReply
  split
  · rfl
  · exact sendUnseq_transported ..

theorem Transported.ite {r x y : State} {c : Prop} [Decidable c] (h : Transported r x) (k : Transported r y) :
    Transported r (if c then x else y) := by split <;> assumption

@[simp] theorem violate_transported (i : Nat) (s : State) : Transported s (violate i s) := by
  unfold violate
  repeat' with_reducible first
    | assumption | exact Transported.refl _
    | (intro x; refine (fun (hx : Transported s x) => ?_) ?_; clear_value x; rotate_left; simp only [x]; clear x)
    | (intro x; clear_value x) | lift_lets | refine Transported.ite ?_ ?_
    | (refine Transported.app ?_ ?_; focus (simp; done)) | split

@[simp] theorem emitReject_transported (i : Nat) (x : Inst) (e : Env) (own : Bool) (r : Reject) (s : State) :
    Transported s (emitReject i x e own r s) := by
  unfold emitReject
  dsimp only
  split
  · exact Transported.app (emit_transported ..) (setInst_transported ..)
  · exact Transported.ite (emit_transported ..) rfl

@[simp] theorem sendReject_transported (i : Nat) (e : Env) (own : Bool) (r : Reject) (s : State) :
    Transported s (sendReject i e own r s) := by
  unfold sendReject
  split
  · rfl
  · dsimp only
    refine Transported.ite (Transported.app (tally_transported ..) (Transported.ite ?_ rfl))
      (Transported.app (emitReject_transported ..) (Transported.ite ?_ (setInst_transported ..)))
    · exact Transported.app (wrapEvent_transported ..) rfl
    · exact Transported.app (tally_transported ..) (setInst_transported ..)

@[simp] theorem rejectNobody_transported (e : Env) (r : Reject) (s : State) : Transported s (rejectNobody e r s) := by
  unfold rejectNobody
  exact Transported.ite (emit_transported ..) rfl

@[simp] theorem sendRejectTo_transported (e : Env) (r : Reject) (s : State) :
    Transported s (sendRejectTo e r s) := by
  unfold sendRejectTo
  exact Transported.ite (sendReject_transported ..) (rejectNobody_transported ..)

@[simp] theorem silentDrop_transported (link : Nat) (s : State) : Transported s (silentDrop link s) := by
  unfold silentDrop
  dsimp only
  refine Transported.app (tally_transported ..) ?_
  split
  · exact Transported.app (wrapEvent_transported ..) rfl
  · rfl

@[simp] theorem resendDown_transported (i : Nat) (d : Down) (s : State) : Transported s (resendDown i d s) := by
  unfold resendDown
  split
  · rfl
  · split
    · rfl
    · exact Transported.app (tally_transported ..) (Transported.app (tally_transported ..)
        (Transported.app (emit_transported ..) (modInst_transported ..)))

@[simp] theorem resendWhere_transported (i : Nat) (p : Down → Bool) (s : State) :
    Transported s (resendWhere i p s) := by
  unfold resendWhere
  split
  · rfl
  · exact Transported.foldl rfl fun x d h => Transported.app (resendDown_transported ..) h

@[simp] theorem drainBacklog_transported (i : Nat) (s : State) : Transported s (drainBacklog i s) := by
  unfold drainBacklog
  split
  · rfl
  · refine Transported.foldl (setInst_transported ..) fun x d h => ?_
    split
    · exact h
    · exact Transported.app (emit_transported ..) h

theorem Transported.forInsts {r : State} {f : Nat → State → State} {s : State} (h : Transported r s)
    (k : ∀ i x, Transported r x → Transported r (f i x)) : Transported r (Machine.forInsts f s) :=
  Transported.foldl h fun x i => k i x

@[simp] theorem notifyLink_transported (ev l : Nat) (s : State) : Transported s (notifyLink ev l s) := by
  unfold notifyLink
  refine Transported.forInsts rfl fun i x h => ?_
  split
  · split
    · exact Transported.app (notify_transported ..) h
    · exact h
  · exact h

/-- A link that goes down changes the link's state and what frames change. -/
theorem loseLink_shape (l : Nat) (s : State) (h : linkUp s l = true) :
    Transported { s with eth := { s.eth with up := setBit s.eth.up l false
                                             wentDown := setBit s.eth.wentDown l true } } (loseLink l s) := by
  unfold loseLink
  rw [if_neg (by simp [h])]
  dsimp only
  split
  · rfl
  · exact Transported.forInsts (notifyLink_transported ..) fun i x h => Transported.app (resendWhere_transported ..) h

/-! ### The code flash in a stop -/

@[simp] theorem drawBytes_snd (n : Nat) (s : State) : (drawBytes n s).2 = { s with free := s.free + 1 } := rfl

@[simp] theorem drawGran_snd (s : State) : (drawGran s).2 = { s with free := s.free + 1 } := by
  unfold drawGran
  exact drawBytes_snd 256 s

/-- The giving up of an operation touches the code flash and the counter of free values. -/
theorem dropOp_shape (o : Option CflOp) (s : State) :
    dropOp o s = { s with cfl := { s.cfl with mem := (dropOp o s).cfl.mem, hdrs := (dropOp o s).cfl.hdrs }
                          free := (dropOp o s).free } := by
  cases o with
  | none => rfl
  | some n =>
    unfold dropOp
    dsimp only
    by_cases h : (n.kind = 1 && !n.suspended) = true
    · rw [if_pos h]
      have e := drawGran_snd s
      generalize drawGran s = q at e
      obtain ⟨d, t⟩ := q
      dsimp only at e
      subst e
      rfl
    · rw [if_neg h]
      by_cases k : n.kind = 6
      · rw [if_pos k]
        rfl
      · rw [if_neg k]

/-- The giving up of one more operation. -/
theorem dropOp_after (o : Option CflOp) {s t : State} (h : t = { s with cfl := t.cfl, free := t.free }) :
    dropOp o t = { s with cfl := (dropOp o t).cfl, free := (dropOp o t).free } := by
  have e : dropOp o t = { t with cfl := (dropOp o t).cfl, free := (dropOp o t).free } := by
    have e := dropOp_shape o t
    generalize dropOp o t = u at e
    rw [e]
  generalize dropOp o t = u at e
  exact e.trans (congrArg (fun z : State => { z with cfl := u.cfl, free := u.free }) h)

theorem cflAbandon_shape (s : State) :
    cflAbandon s = { s with cfl := (cflAbandon s).cfl, free := (cflAbandon s).free } := by
  unfold cflAbandon
  dsimp only
  have h := dropOp_after s.cfl.unit1.nested (dropOp_after s.cfl.unit1.op (dropOp_after s.cfl.unit0.nested
    (dropOp_after s.cfl.unit0.op (s := s) (t := s) rfl)))
  generalize dropOp s.cfl.unit1.nested _ = u at h
  exact congrArg (fun z : State => { z with cfl := { u.cfl with
    unit0 := coldUnit, unit1 := coldUnit, reads := [], verifies := [], busy := false } }) h

end Sys2Proof.Laws
end

