-- ==== Sys2Proof/Laws/State.lean ====
section
/-! SUPPORT. What the named updates of State leave as it is, one lemma for each field, and what a read after one gives. -/

namespace Sys2Proof.Laws

open Sys2Proof Sys2Proof.Machine

variable {α : Type}

/-- A change of a listed key is a change of what a read of it gives. -/
@[simp] theorem amGet?_amModify_self (m : List (Nat × α)) (x : Nat) (f : α → α) :
    amGet? (amModify m x f) x = (amGet? m x).map f := by
  induction m with
  | nil => rfl
  | cons q m ih =>
    simp only [amModify, List.map_cons] at *
    by_cases h : q.1 = x
    · simp [amGet?, h]
    · simp only [h, if_false, amGet?]
      exact ih

/-- It leaves every other key alone. -/
theorem amGet?_amModify_ne (m : List (Nat × α)) (x y : Nat) (f : α → α) (h : y ≠ x) :
    amGet? (amModify m x f) y = amGet? m y := by
  induction m with
  | nil => rfl
  | cons q m ih =>
    simp only [amModify, List.map_cons] at *
    by_cases k : q.1 = x
    · simp only [k, if_true, amGet?]
      rw [if_neg h.symm, if_neg h.symm]
      exact ih
    · simp only [k, if_false, amGet?]
      split
      · rfl
      · exact ih

/-- Element `n` of a list after a change of element `i`. -/
@[simp] theorem getElem?_modNth (l : List α) (i n : Nat) (f : α → α) :
    (modNth l i f)[n]? = if n = i then (l[n]?).map f else l[n]? := by
  induction l generalizing i n with
  | nil => simp [modNth]
  | cons x l ih => cases i <;> cases n <;> simp [modNth, ih]

@[simp] theorem getElem?_setNth (l : List α) (i n : Nat) (a : α) :
    (setNth l i a)[n]? = if n = i then (l[n]?).map fun _ => a else l[n]? := by
  induction l generalizing i n with
  | nil => simp [setNth]
  | cons x l ih => cases i <;> cases n <;> simp [setNth, ih]

@[simp] theorem length_modNth (l : List α) (i : Nat) (f : α → α) : (modNth l i f).length = l.length := by
  induction l generalizing i with
  | nil => rfl
  | cons x l ih => cases i <;> simp [modNth, ih]

@[simp] theorem length_setNth (l : List α) (i : Nat) (a : α) : (setNth l i a).length = l.length := by
  induction l generalizing i with
  | nil => rfl
  | cons x l ih => cases i <;> simp [setNth, ih]

/-! ### Instances and dies -/

@[simp] theorem inst?_setInst_self (i : Nat) (x : Inst) (s : State) : inst? (setInst i x s) i = some x :=
  amGet?_amSet_self ..

theorem inst?_setInst_ne (i j : Nat) (x : Inst) (s : State) (h : j ≠ i) : inst? (setInst i x s) j = inst? s j :=
  amGet?_amSet_ne _ _ _ _ h

@[simp] theorem inst?_modInst_self (i : Nat) (f : Inst → Inst) (s : State) :
    inst? (modInst i f s) i = (inst? s i).map f := amGet?_amModify_self ..

theorem inst?_modInst_ne (i j : Nat) (f : Inst → Inst) (s : State) (h : j ≠ i) : inst? (modInst i f s) j = inst? s j :=
  amGet?_amModify_ne _ _ _ _ h

@[simp] theorem die?_modDie_self (d : Nat) (f : Die → Die) (s : State) : die? (modDie d f s) d = (die? s d).map f :=
  amGet?_amModify_self ..

theorem die?_modDie_ne (d e : Nat) (f : Die → Die) (s : State) (h : e ≠ d) : die? (modDie d f s) e = die? s e :=
  amGet?_amModify_ne _ _ _ _ h

/-- A granule that is written reads as what was written, and every other cell as before. -/
theorem granAt_setGran_self (bank sector granule : Nat) (d : BitVec 2048) (s : State) :
    granAt (setGran bank sector granule d s) bank sector granule = d := memSet_read_self ..

theorem mem_setGran_ne (bank sector granule k : Nat) (d : BitVec 2048) (s : State) (h : k ≠ granKey bank sector granule) :
    amGetD (setGran bank sector granule d s).cfl.mem k (BitVec.allOnes 2048) =
      amGetD s.cfl.mem k (BitVec.allOnes 2048) := memSet_read_ne _ _ _ _ _ h

/-! ### setInst -/

@[simp] theorem setInst_pending (i : Nat) (x : Inst) (s : State) : (setInst i x s).pending = s.pending := rfl
@[simp] theorem setInst_quartz (i : Nat) (x : Inst) (s : State) : (setInst i x s).quartz = s.quartz := rfl
@[simp] theorem setInst_free (i : Nat) (x : Inst) (s : State) : (setInst i x s).free = s.free := rfl
@[simp] theorem setInst_sys (i : Nat) (x : Inst) (s : State) : (setInst i x s).sys = s.sys := rfl
@[simp] theorem setInst_fuses (i : Nat) (x : Inst) (s : State) : (setInst i x s).fuses = s.fuses := rfl
@[simp] theorem setInst_tck (i : Nat) (x : Inst) (s : State) : (setInst i x s).tck = s.tck := rfl
@[simp] theorem setInst_pins (i : Nat) (x : Inst) (s : State) : (setInst i x s).pins = s.pins := rfl
@[simp] theorem setInst_img (i : Nat) (x : Inst) (s : State) : (setInst i x s).img = s.img := rfl
@[simp] theorem setInst_pwr (i : Nat) (x : Inst) (s : State) : (setInst i x s).pwr = s.pwr := rfl
@[simp] theorem setInst_thm (i : Nat) (x : Inst) (s : State) : (setInst i x s).thm = s.thm := rfl
@[simp] theorem setInst_fcl (i : Nat) (x : Inst) (s : State) : (setInst i x s).fcl = s.fcl := rfl
@[simp] theorem setInst_obs (i : Nat) (x : Inst) (s : State) : (setInst i x s).obs = s.obs := rfl
@[simp] theorem setInst_tal (i : Nat) (x : Inst) (s : State) : (setInst i x s).tal = s.tal := rfl
@[simp] theorem setInst_cfl (i : Nat) (x : Inst) (s : State) : (setInst i x s).cfl = s.cfl := rfl
@[simp] theorem setInst_dmc (i : Nat) (x : Inst) (s : State) : (setInst i x s).dmc = s.dmc := rfl
@[simp] theorem setInst_mch (i : Nat) (x : Inst) (s : State) : (setInst i x s).mch = s.mch := rfl
@[simp] theorem setInst_bpm (i : Nat) (x : Inst) (s : State) : (setInst i x s).bpm = s.bpm := rfl
@[simp] theorem setInst_cph (i : Nat) (x : Inst) (s : State) : (setInst i x s).cph = s.cph := rfl
@[simp] theorem setInst_kec (i : Nat) (x : Inst) (s : State) : (setInst i x s).kec = s.kec := rfl
@[simp] theorem setInst_nfc (i : Nat) (x : Inst) (s : State) : (setInst i x s).nfc = s.nfc := rfl
@[simp] theorem setInst_med (i : Nat) (x : Inst) (s : State) : (setInst i x s).med = s.med := rfl
@[simp] theorem setInst_qtz (i : Nat) (x : Inst) (s : State) : (setInst i x s).qtz = s.qtz := rfl
@[simp] theorem setInst_eth (i : Nat) (x : Inst) (s : State) : (setInst i x s).eth = s.eth := rfl
@[simp] theorem setInst_jrn (i : Nat) (x : Inst) (s : State) : (setInst i x s).jrn = s.jrn := rfl
@[simp] theorem setInst_slt (i : Nat) (x : Inst) (s : State) : (setInst i x s).slt = s.slt := rfl
@[simp] theorem setInst_mgmt (i : Nat) (x : Inst) (s : State) : (setInst i x s).mgmt = s.mgmt := rfl
@[simp] theorem setInst_wire (i : Nat) (x : Inst) (s : State) : (setInst i x s).wire = s.wire := rfl

/-! ### modInst -/

@[simp] theorem modInst_pending (i : Nat) (f : Inst → Inst) (s : State) : (modInst i f s).pending = s.pending := rfl
@[simp] theorem modInst_quartz (i : Nat) (f : Inst → Inst) (s : State) : (modInst i f s).quartz = s.quartz := rfl
@[simp] theorem modInst_free (i : Nat) (f : Inst → Inst) (s : State) : (modInst i f s).free = s.free := rfl
@[simp] theorem modInst_sys (i : Nat) (f : Inst → Inst) (s : State) : (modInst i f s).sys = s.sys := rfl
@[simp] theorem modInst_fuses (i : Nat) (f : Inst → Inst) (s : State) : (modInst i f s).fuses = s.fuses := rfl
@[simp] theorem modInst_tck (i : Nat) (f : Inst → Inst) (s : State) : (modInst i f s).tck = s.tck := rfl
@[simp] theorem modInst_pins (i : Nat) (f : Inst → Inst) (s : State) : (modInst i f s).pins = s.pins := rfl
@[simp] theorem modInst_img (i : Nat) (f : Inst → Inst) (s : State) : (modInst i f s).img = s.img := rfl
@[simp] theorem modInst_pwr (i : Nat) (f : Inst → Inst) (s : State) : (modInst i f s).pwr = s.pwr := rfl
@[simp] theorem modInst_thm (i : Nat) (f : Inst → Inst) (s : State) : (modInst i f s).thm = s.thm := rfl
@[simp] theorem modInst_fcl (i : Nat) (f : Inst → Inst) (s : State) : (modInst i f s).fcl = s.fcl := rfl
@[simp] theorem modInst_obs (i : Nat) (f : Inst → Inst) (s : State) : (modInst i f s).obs = s.obs := rfl
@[simp] theorem modInst_tal (i : Nat) (f : Inst → Inst) (s : State) : (modInst i f s).tal = s.tal := rfl
@[simp] theorem modInst_cfl (i : Nat) (f : Inst → Inst) (s : State) : (modInst i f s).cfl = s.cfl := rfl
@[simp] theorem modInst_dmc (i : Nat) (f : Inst → Inst) (s : State) : (modInst i f s).dmc = s.dmc := rfl
@[simp] theorem modInst_mch (i : Nat) (f : Inst → Inst) (s : State) : (modInst i f s).mch = s.mch := rfl
@[simp] theorem modInst_bpm (i : Nat) (f : Inst → Inst) (s : State) : (modInst i f s).bpm = s.bpm := rfl
@[simp] theorem modInst_cph (i : Nat) (f : Inst → Inst) (s : State) : (modInst i f s).cph = s.cph := rfl
@[simp] theorem modInst_kec (i : Nat) (f : Inst → Inst) (s : State) : (modInst i f s).kec = s.kec := rfl
@[simp] theorem modInst_nfc (i : Nat) (f : Inst → Inst) (s : State) : (modInst i f s).nfc = s.nfc := rfl
@[simp] theorem modInst_med (i : Nat) (f : Inst → Inst) (s : State) : (modInst i f s).med = s.med := rfl
@[simp] theorem modInst_qtz (i : Nat) (f : Inst → Inst) (s : State) : (modInst i f s).qtz = s.qtz := rfl
@[simp] theorem modInst_eth (i : Nat) (f : Inst → Inst) (s : State) : (modInst i f s).eth = s.eth := rfl
@[simp] theorem modInst_jrn (i : Nat) (f : Inst → Inst) (s : State) : (modInst i f s).jrn = s.jrn := rfl
@[simp] theorem modInst_slt (i : Nat) (f : Inst → Inst) (s : State) : (modInst i f s).slt = s.slt := rfl
@[simp] theorem modInst_mgmt (i : Nat) (f : Inst → Inst) (s : State) : (modInst i f s).mgmt = s.mgmt := rfl
@[simp] theorem modInst_wire (i : Nat) (f : Inst → Inst) (s : State) : (modInst i f s).wire = s.wire := rfl

/-! ### modDie -/

@[simp] theorem modDie_pending (d : Nat) (f : Die → Die) (s : State) : (modDie d f s).pending = s.pending := rfl
@[simp] theorem modDie_quartz (d : Nat) (f : Die → Die) (s : State) : (modDie d f s).quartz = s.quartz := rfl
@[simp] theorem modDie_free (d : Nat) (f : Die → Die) (s : State) : (modDie d f s).free = s.free := rfl
@[simp] theorem modDie_sys (d : Nat) (f : Die → Die) (s : State) : (modDie d f s).sys = s.sys := rfl
@[simp] theorem modDie_fuses (d : Nat) (f : Die → Die) (s : State) : (modDie d f s).fuses = s.fuses := rfl
@[simp] theorem modDie_tck (d : Nat) (f : Die → Die) (s : State) : (modDie d f s).tck = s.tck := rfl
@[simp] theorem modDie_pins (d : Nat) (f : Die → Die) (s : State) : (modDie d f s).pins = s.pins := rfl
@[simp] theorem modDie_img (d : Nat) (f : Die → Die) (s : State) : (modDie d f s).img = s.img := rfl
@[simp] theorem modDie_pwr (d : Nat) (f : Die → Die) (s : State) : (modDie d f s).pwr = s.pwr := rfl
@[simp] theorem modDie_thm (d : Nat) (f : Die → Die) (s : State) : (modDie d f s).thm = s.thm := rfl
@[simp] theorem modDie_fcl (d : Nat) (f : Die → Die) (s : State) : (modDie d f s).fcl = s.fcl := rfl
@[simp] theorem modDie_obs (d : Nat) (f : Die → Die) (s : State) : (modDie d f s).obs = s.obs := rfl
@[simp] theorem modDie_tal (d : Nat) (f : Die → Die) (s : State) : (modDie d f s).tal = s.tal := rfl
@[simp] theorem modDie_cfl (d : Nat) (f : Die → Die) (s : State) : (modDie d f s).cfl = s.cfl := rfl
@[simp] theorem modDie_dmc (d : Nat) (f : Die → Die) (s : State) : (modDie d f s).dmc = s.dmc := rfl
@[simp] theorem modDie_mch (d : Nat) (f : Die → Die) (s : State) : (modDie d f s).mch = s.mch := rfl
@[simp] theorem modDie_bpm (d : Nat) (f : Die → Die) (s : State) : (modDie d f s).bpm = s.bpm := rfl
@[simp] theorem modDie_cph (d : Nat) (f : Die → Die) (s : State) : (modDie d f s).cph = s.cph := rfl
@[simp] theorem modDie_kec (d : Nat) (f : Die → Die) (s : State) : (modDie d f s).kec = s.kec := rfl
@[simp] theorem modDie_nfc (d : Nat) (f : Die → Die) (s : State) : (modDie d f s).nfc = s.nfc := rfl
@[simp] theorem modDie_qtz (d : Nat) (f : Die → Die) (s : State) : (modDie d f s).qtz = s.qtz := rfl
@[simp] theorem modDie_eth (d : Nat) (f : Die → Die) (s : State) : (modDie d f s).eth = s.eth := rfl
@[simp] theorem modDie_insts (d : Nat) (f : Die → Die) (s : State) : (modDie d f s).insts = s.insts := rfl
@[simp] theorem modDie_jrn (d : Nat) (f : Die → Die) (s : State) : (modDie d f s).jrn = s.jrn := rfl
@[simp] theorem modDie_slt (d : Nat) (f : Die → Die) (s : State) : (modDie d f s).slt = s.slt := rfl
@[simp] theorem modDie_mgmt (d : Nat) (f : Die → Die) (s : State) : (modDie d f s).mgmt = s.mgmt := rfl
@[simp] theorem modDie_wire (d : Nat) (f : Die → Die) (s : State) : (modDie d f s).wire = s.wire := rfl

/-! ### modSb -/

@[simp] theorem modSb_pending (n : Nat) (f : Superblock → Superblock) (s : State) : (modSb n f s).pending = s.pending :=
  rfl
@[simp] theorem modSb_quartz (n : Nat) (f : Superblock → Superblock) (s : State) : (modSb n f s).quartz = s.quartz :=
  rfl
@[simp] theorem modSb_free (n : Nat) (f : Superblock → Superblock) (s : State) : (modSb n f s).free = s.free := rfl
@[simp] theorem modSb_sys (n : Nat) (f : Superblock → Superblock) (s : State) : (modSb n f s).sys = s.sys := rfl
@[simp] theorem modSb_fuses (n : Nat) (f : Superblock → Superblock) (s : State) : (modSb n f s).fuses = s.fuses := rfl
@[simp] theorem modSb_tck (n : Nat) (f : Superblock → Superblock) (s : State) : (modSb n f s).tck = s.tck := rfl
@[simp] theorem modSb_pins (n : Nat) (f : Superblock → Superblock) (s : State) : (modSb n f s).pins = s.pins := rfl
@[simp] theorem modSb_img (n : Nat) (f : Superblock → Superblock) (s : State) : (modSb n f s).img = s.img := rfl
@[simp] theorem modSb_pwr (n : Nat) (f : Superblock → Superblock) (s : State) : (modSb n f s).pwr = s.pwr := rfl
@[simp] theorem modSb_thm (n : Nat) (f : Superblock → Superblock) (s : State) : (modSb n f s).thm = s.thm := rfl
@[simp] theorem modSb_fcl (n : Nat) (f : Superblock → Superblock) (s : State) : (modSb n f s).fcl = s.fcl := rfl
@[simp] theorem modSb_obs (n : Nat) (f : Superblock → Superblock) (s : State) : (modSb n f s).obs = s.obs := rfl
@[simp] theorem modSb_tal (n : Nat) (f : Superblock → Superblock) (s : State) : (modSb n f s).tal = s.tal := rfl
@[simp] theorem modSb_cfl (n : Nat) (f : Superblock → Superblock) (s : State) : (modSb n f s).cfl = s.cfl := rfl
@[simp] theorem modSb_dmc (n : Nat) (f : Superblock → Superblock) (s : State) : (modSb n f s).dmc = s.dmc := rfl
@[simp] theorem modSb_mch (n : Nat) (f : Superblock → Superblock) (s : State) : (modSb n f s).mch = s.mch := rfl
@[simp] theorem modSb_bpm (n : Nat) (f : Superblock → Superblock) (s : State) : (modSb n f s).bpm = s.bpm := rfl
@[simp] theorem modSb_cph (n : Nat) (f : Superblock → Superblock) (s : State) : (modSb n f s).cph = s.cph := rfl
@[simp] theorem modSb_kec (n : Nat) (f : Superblock → Superblock) (s : State) : (modSb n f s).kec = s.kec := rfl
@[simp] theorem modSb_nfc (n : Nat) (f : Superblock → Superblock) (s : State) : (modSb n f s).nfc = s.nfc := rfl
@[simp] theorem modSb_qtz (n : Nat) (f : Superblock → Superblock) (s : State) : (modSb n f s).qtz = s.qtz := rfl
@[simp] theorem modSb_eth (n : Nat) (f : Superblock → Superblock) (s : State) : (modSb n f s).eth = s.eth := rfl
@[simp] theorem modSb_insts (n : Nat) (f : Superblock → Superblock) (s : State) : (modSb n f s).insts = s.insts := rfl
@[simp] theorem modSb_jrn (n : Nat) (f : Superblock → Superblock) (s : State) : (modSb n f s).jrn = s.jrn := rfl
@[simp] theorem modSb_slt (n : Nat) (f : Superblock → Superblock) (s : State) : (modSb n f s).slt = s.slt := rfl
@[simp] theorem modSb_mgmt (n : Nat) (f : Superblock → Superblock) (s : State) : (modSb n f s).mgmt = s.mgmt := rfl
@[simp] theorem modSb_wire (n : Nat) (f : Superblock → Superblock) (s : State) : (modSb n f s).wire = s.wire := rfl

/-! ### modProg -/

@[simp] theorem modProg_pending (n : Nat) (f : Prog → Prog) (s : State) : (modProg n f s).pending = s.pending := rfl
@[simp] theorem modProg_quartz (n : Nat) (f : Prog → Prog) (s : State) : (modProg n f s).quartz = s.quartz := rfl
@[simp] theorem modProg_free (n : Nat) (f : Prog → Prog) (s : State) : (modProg n f s).free = s.free := rfl
@[simp] theorem modProg_sys (n : Nat) (f : Prog → Prog) (s : State) : (modProg n f s).sys = s.sys := rfl
@[simp] theorem modProg_fuses (n : Nat) (f : Prog → Prog) (s : State) : (modProg n f s).fuses = s.fuses := rfl
@[simp] theorem modProg_tck (n : Nat) (f : Prog → Prog) (s : State) : (modProg n f s).tck = s.tck := rfl
@[simp] theorem modProg_pins (n : Nat) (f : Prog → Prog) (s : State) : (modProg n f s).pins = s.pins := rfl
@[simp] theorem modProg_img (n : Nat) (f : Prog → Prog) (s : State) : (modProg n f s).img = s.img := rfl
@[simp] theorem modProg_pwr (n : Nat) (f : Prog → Prog) (s : State) : (modProg n f s).pwr = s.pwr := rfl
@[simp] theorem modProg_thm (n : Nat) (f : Prog → Prog) (s : State) : (modProg n f s).thm = s.thm := rfl
@[simp] theorem modProg_fcl (n : Nat) (f : Prog → Prog) (s : State) : (modProg n f s).fcl = s.fcl := rfl
@[simp] theorem modProg_obs (n : Nat) (f : Prog → Prog) (s : State) : (modProg n f s).obs = s.obs := rfl
@[simp] theorem modProg_tal (n : Nat) (f : Prog → Prog) (s : State) : (modProg n f s).tal = s.tal := rfl
@[simp] theorem modProg_cfl (n : Nat) (f : Prog → Prog) (s : State) : (modProg n f s).cfl = s.cfl := rfl
@[simp] theorem modProg_dmc (n : Nat) (f : Prog → Prog) (s : State) : (modProg n f s).dmc = s.dmc := rfl
@[simp] theorem modProg_mch (n : Nat) (f : Prog → Prog) (s : State) : (modProg n f s).mch = s.mch := rfl
@[simp] theorem modProg_bpm (n : Nat) (f : Prog → Prog) (s : State) : (modProg n f s).bpm = s.bpm := rfl
@[simp] theorem modProg_cph (n : Nat) (f : Prog → Prog) (s : State) : (modProg n f s).cph = s.cph := rfl
@[simp] theorem modProg_kec (n : Nat) (f : Prog → Prog) (s : State) : (modProg n f s).kec = s.kec := rfl
@[simp] theorem modProg_nfc (n : Nat) (f : Prog → Prog) (s : State) : (modProg n f s).nfc = s.nfc := rfl
@[simp] theorem modProg_qtz (n : Nat) (f : Prog → Prog) (s : State) : (modProg n f s).qtz = s.qtz := rfl
@[simp] theorem modProg_eth (n : Nat) (f : Prog → Prog) (s : State) : (modProg n f s).eth = s.eth := rfl
@[simp] theorem modProg_insts (n : Nat) (f : Prog → Prog) (s : State) : (modProg n f s).insts = s.insts := rfl
@[simp] theorem modProg_jrn (n : Nat) (f : Prog → Prog) (s : State) : (modProg n f s).jrn = s.jrn := rfl
@[simp] theorem modProg_slt (n : Nat) (f : Prog → Prog) (s : State) : (modProg n f s).slt = s.slt := rfl
@[simp] theorem modProg_mgmt (n : Nat) (f : Prog → Prog) (s : State) : (modProg n f s).mgmt = s.mgmt := rfl
@[simp] theorem modProg_wire (n : Nat) (f : Prog → Prog) (s : State) : (modProg n f s).wire = s.wire := rfl

/-! ### modNfc -/

@[simp] theorem modNfc_pending (ch : Nat) (f : Nfc → Nfc) (s : State) : (modNfc ch f s).pending = s.pending := rfl
@[simp] theorem modNfc_quartz (ch : Nat) (f : Nfc → Nfc) (s : State) : (modNfc ch f s).quartz = s.quartz := rfl
@[simp] theorem modNfc_free (ch : Nat) (f : Nfc → Nfc) (s : State) : (modNfc ch f s).free = s.free := rfl
@[simp] theorem modNfc_sys (ch : Nat) (f : Nfc → Nfc) (s : State) : (modNfc ch f s).sys = s.sys := rfl
@[simp] theorem modNfc_fuses (ch : Nat) (f : Nfc → Nfc) (s : State) : (modNfc ch f s).fuses = s.fuses := rfl
@[simp] theorem modNfc_tck (ch : Nat) (f : Nfc → Nfc) (s : State) : (modNfc ch f s).tck = s.tck := rfl
@[simp] theorem modNfc_pins (ch : Nat) (f : Nfc → Nfc) (s : State) : (modNfc ch f s).pins = s.pins := rfl
@[simp] theorem modNfc_img (ch : Nat) (f : Nfc → Nfc) (s : State) : (modNfc ch f s).img = s.img := rfl
@[simp] theorem modNfc_pwr (ch : Nat) (f : Nfc → Nfc) (s : State) : (modNfc ch f s).pwr = s.pwr := rfl
@[simp] theorem modNfc_thm (ch : Nat) (f : Nfc → Nfc) (s : State) : (modNfc ch f s).thm = s.thm := rfl
@[simp] theorem modNfc_fcl (ch : Nat) (f : Nfc → Nfc) (s : State) : (modNfc ch f s).fcl = s.fcl := rfl
@[simp] theorem modNfc_obs (ch : Nat) (f : Nfc → Nfc) (s : State) : (modNfc ch f s).obs = s.obs := rfl
@[simp] theorem modNfc_tal (ch : Nat) (f : Nfc → Nfc) (s : State) : (modNfc ch f s).tal = s.tal := rfl
@[simp] theorem modNfc_cfl (ch : Nat) (f : Nfc → Nfc) (s : State) : (modNfc ch f s).cfl = s.cfl := rfl
@[simp] theorem modNfc_dmc (ch : Nat) (f : Nfc → Nfc) (s : State) : (modNfc ch f s).dmc = s.dmc := rfl
@[simp] theorem modNfc_mch (ch : Nat) (f : Nfc → Nfc) (s : State) : (modNfc ch f s).mch = s.mch := rfl
@[simp] theorem modNfc_bpm (ch : Nat) (f : Nfc → Nfc) (s : State) : (modNfc ch f s).bpm = s.bpm := rfl
@[simp] theorem modNfc_cph (ch : Nat) (f : Nfc → Nfc) (s : State) : (modNfc ch f s).cph = s.cph := rfl
@[simp] theorem modNfc_kec (ch : Nat) (f : Nfc → Nfc) (s : State) : (modNfc ch f s).kec = s.kec := rfl
@[simp] theorem modNfc_med (ch : Nat) (f : Nfc → Nfc) (s : State) : (modNfc ch f s).med = s.med := rfl
@[simp] theorem modNfc_qtz (ch : Nat) (f : Nfc → Nfc) (s : State) : (modNfc ch f s).qtz = s.qtz := rfl
@[simp] theorem modNfc_eth (ch : Nat) (f : Nfc → Nfc) (s : State) : (modNfc ch f s).eth = s.eth := rfl
@[simp] theorem modNfc_insts (ch : Nat) (f : Nfc → Nfc) (s : State) : (modNfc ch f s).insts = s.insts := rfl
@[simp] theorem modNfc_jrn (ch : Nat) (f : Nfc → Nfc) (s : State) : (modNfc ch f s).jrn = s.jrn := rfl
@[simp] theorem modNfc_slt (ch : Nat) (f : Nfc → Nfc) (s : State) : (modNfc ch f s).slt = s.slt := rfl
@[simp] theorem modNfc_mgmt (ch : Nat) (f : Nfc → Nfc) (s : State) : (modNfc ch f s).mgmt = s.mgmt := rfl
@[simp] theorem modNfc_wire (ch : Nat) (f : Nfc → Nfc) (s : State) : (modNfc ch f s).wire = s.wire := rfl

/-! ### modCh -/

@[simp] theorem modCh_pending (n : Nat) (f : DmcCh → DmcCh) (s : State) : (modCh n f s).pending = s.pending := rfl
@[simp] theorem modCh_quartz (n : Nat) (f : DmcCh → DmcCh) (s : State) : (modCh n f s).quartz = s.quartz := rfl
@[simp] theorem modCh_free (n : Nat) (f : DmcCh → DmcCh) (s : State) : (modCh n f s).free = s.free := rfl
@[simp] theorem modCh_sys (n : Nat) (f : DmcCh → DmcCh) (s : State) : (modCh n f s).sys = s.sys := rfl
@[simp] theorem modCh_fuses (n : Nat) (f : DmcCh → DmcCh) (s : State) : (modCh n f s).fuses = s.fuses := rfl
@[simp] theorem modCh_tck (n : Nat) (f : DmcCh → DmcCh) (s : State) : (modCh n f s).tck = s.tck := rfl
@[simp] theorem modCh_pins (n : Nat) (f : DmcCh → DmcCh) (s : State) : (modCh n f s).pins = s.pins := rfl
@[simp] theorem modCh_img (n : Nat) (f : DmcCh → DmcCh) (s : State) : (modCh n f s).img = s.img := rfl
@[simp] theorem modCh_pwr (n : Nat) (f : DmcCh → DmcCh) (s : State) : (modCh n f s).pwr = s.pwr := rfl
@[simp] theorem modCh_thm (n : Nat) (f : DmcCh → DmcCh) (s : State) : (modCh n f s).thm = s.thm := rfl
@[simp] theorem modCh_fcl (n : Nat) (f : DmcCh → DmcCh) (s : State) : (modCh n f s).fcl = s.fcl := rfl
@[simp] theorem modCh_obs (n : Nat) (f : DmcCh → DmcCh) (s : State) : (modCh n f s).obs = s.obs := rfl
@[simp] theorem modCh_tal (n : Nat) (f : DmcCh → DmcCh) (s : State) : (modCh n f s).tal = s.tal := rfl
@[simp] theorem modCh_cfl (n : Nat) (f : DmcCh → DmcCh) (s : State) : (modCh n f s).cfl = s.cfl := rfl
@[simp] theorem modCh_mch (n : Nat) (f : DmcCh → DmcCh) (s : State) : (modCh n f s).mch = s.mch := rfl
@[simp] theorem modCh_bpm (n : Nat) (f : DmcCh → DmcCh) (s : State) : (modCh n f s).bpm = s.bpm := rfl
@[simp] theorem modCh_cph (n : Nat) (f : DmcCh → DmcCh) (s : State) : (modCh n f s).cph = s.cph := rfl
@[simp] theorem modCh_kec (n : Nat) (f : DmcCh → DmcCh) (s : State) : (modCh n f s).kec = s.kec := rfl
@[simp] theorem modCh_nfc (n : Nat) (f : DmcCh → DmcCh) (s : State) : (modCh n f s).nfc = s.nfc := rfl
@[simp] theorem modCh_med (n : Nat) (f : DmcCh → DmcCh) (s : State) : (modCh n f s).med = s.med := rfl
@[simp] theorem modCh_qtz (n : Nat) (f : DmcCh → DmcCh) (s : State) : (modCh n f s).qtz = s.qtz := rfl
@[simp] theorem modCh_eth (n : Nat) (f : DmcCh → DmcCh) (s : State) : (modCh n f s).eth = s.eth := rfl
@[simp] theorem modCh_insts (n : Nat) (f : DmcCh → DmcCh) (s : State) : (modCh n f s).insts = s.insts := rfl
@[simp] theorem modCh_jrn (n : Nat) (f : DmcCh → DmcCh) (s : State) : (modCh n f s).jrn = s.jrn := rfl
@[simp] theorem modCh_slt (n : Nat) (f : DmcCh → DmcCh) (s : State) : (modCh n f s).slt = s.slt := rfl
@[simp] theorem modCh_mgmt (n : Nat) (f : DmcCh → DmcCh) (s : State) : (modCh n f s).mgmt = s.mgmt := rfl
@[simp] theorem modCh_wire (n : Nat) (f : DmcCh → DmcCh) (s : State) : (modCh n f s).wire = s.wire := rfl

/-! ### setWinWord -/

@[simp] theorem setWinWord_pending (half addr : Nat) (d : BitVec 512) (s : State) :
    (setWinWord half addr d s).pending = s.pending :=
  rfl
@[simp] theorem setWinWord_quartz (half addr : Nat) (d : BitVec 512) (s : State) :
    (setWinWord half addr d s).quartz = s.quartz :=
  rfl
@[simp] theorem setWinWord_free (half addr : Nat) (d : BitVec 512) (s : State) :
    (setWinWord half addr d s).free = s.free :=
  rfl
@[simp] theorem setWinWord_sys (half addr : Nat) (d : BitVec 512) (s : State) :
    (setWinWord half addr d s).sys = s.sys :=
  rfl
@[simp] theorem setWinWord_fuses (half addr : Nat) (d : BitVec 512) (s : State) :
    (setWinWord half addr d s).fuses = s.fuses :=
  rfl
@[simp] theorem setWinWord_tck (half addr : Nat) (d : BitVec 512) (s : State) :
    (setWinWord half addr d s).tck = s.tck :=
  rfl
@[simp] theorem setWinWord_pins (half addr : Nat) (d : BitVec 512) (s : State) :
    (setWinWord half addr d s).pins = s.pins :=
  rfl
@[simp] theorem setWinWord_img (half addr : Nat) (d : BitVec 512) (s : State) :
    (setWinWord half addr d s).img = s.img :=
  rfl
@[simp] theorem setWinWord_pwr (half addr : Nat) (d : BitVec 512) (s : State) :
    (setWinWord half addr d s).pwr = s.pwr :=
  rfl
@[simp] theorem setWinWord_thm (half addr : Nat) (d : BitVec 512) (s : State) :
    (setWinWord half addr d s).thm = s.thm :=
  rfl
@[simp] theorem setWinWord_fcl (half addr : Nat) (d : BitVec 512) (s : State) :
    (setWinWord half addr d s).fcl = s.fcl :=
  rfl
@[simp] theorem setWinWord_obs (half addr : Nat) (d : BitVec 512) (s : State) :
    (setWinWord half addr d s).obs = s.obs :=
  rfl
@[simp] theorem setWinWord_tal (half addr : Nat) (d : BitVec 512) (s : State) :
    (setWinWord half addr d s).tal = s.tal :=
  rfl
@[simp] theorem setWinWord_cfl (half addr : Nat) (d : BitVec 512) (s : State) :
    (setWinWord half addr d s).cfl = s.cfl :=
  rfl
@[simp] theorem setWinWord_mch (half addr : Nat) (d : BitVec 512) (s : State) :
    (setWinWord half addr d s).mch = s.mch :=
  rfl
@[simp] theorem setWinWord_bpm (half addr : Nat) (d : BitVec 512) (s : State) :
    (setWinWord half addr d s).bpm = s.bpm :=
  rfl
@[simp] theorem setWinWord_cph (half addr : Nat) (d : BitVec 512) (s : State) :
    (setWinWord half addr d s).cph = s.cph :=
  rfl
@[simp] theorem setWinWord_kec (half addr : Nat) (d : BitVec 512) (s : State) :
    (setWinWord half addr d s).kec = s.kec :=
  rfl
@[simp] theorem setWinWord_nfc (half addr : Nat) (d : BitVec 512) (s : State) :
    (setWinWord half addr d s).nfc = s.nfc :=
  rfl
@[simp] theorem setWinWord_med (half addr : Nat) (d : BitVec 512) (s : State) :
    (setWinWord half addr d s).med = s.med :=
  rfl
@[simp] theorem setWinWord_qtz (half addr : Nat) (d : BitVec 512) (s : State) :
    (setWinWord half addr d s).qtz = s.qtz :=
  rfl
@[simp] theorem setWinWord_eth (half addr : Nat) (d : BitVec 512) (s : State) :
    (setWinWord half addr d s).eth = s.eth :=
  rfl
@[simp] theorem setWinWord_insts (half addr : Nat) (d : BitVec 512) (s : State) :
    (setWinWord half addr d s).insts = s.insts :=
  rfl
@[simp] theorem setWinWord_jrn (half addr : Nat) (d : BitVec 512) (s : State) :
    (setWinWord half addr d s).jrn = s.jrn :=
  rfl
@[simp] theorem setWinWord_slt (half addr : Nat) (d : BitVec 512) (s : State) :
    (setWinWord half addr d s).slt = s.slt :=
  rfl
@[simp] theorem setWinWord_mgmt (half addr : Nat) (d : BitVec 512) (s : State) :
    (setWinWord half addr d s).mgmt = s.mgmt :=
  rfl
@[simp] theorem setWinWord_wire (half addr : Nat) (d : BitVec 512) (s : State) :
    (setWinWord half addr d s).wire = s.wire :=
  rfl

/-! ### setGran -/

@[simp] theorem setGran_pending (bank sector granule : Nat) (d : BitVec 2048) (s : State) :
    (setGran bank sector granule d s).pending = s.pending :=
  rfl
@[simp] theorem setGran_quartz (bank sector granule : Nat) (d : BitVec 2048) (s : State) :
    (setGran bank sector granule d s).quartz = s.quartz :=
  rfl
@[simp] theorem setGran_free (bank sector granule : Nat) (d : BitVec 2048) (s : State) :
    (setGran bank sector granule d s).free = s.free :=
  rfl
@[simp] theorem setGran_sys (bank sector granule : Nat) (d : BitVec 2048) (s : State) :
    (setGran bank sector granule d s).sys = s.sys :=
  rfl
@[simp] theorem setGran_fuses (bank sector granule : Nat) (d : BitVec 2048) (s : State) :
    (setGran bank sector granule d s).fuses = s.fuses :=
  rfl
@[simp] theorem setGran_tck (bank sector granule : Nat) (d : BitVec 2048) (s : State) :
    (setGran bank sector granule d s).tck = s.tck :=
  rfl
@[simp] theorem setGran_pins (bank sector granule : Nat) (d : BitVec 2048) (s : State) :
    (setGran bank sector granule d s).pins = s.pins :=
  rfl
@[simp] theorem setGran_img (bank sector granule : Nat) (d : BitVec 2048) (s : State) :
    (setGran bank sector granule d s).img = s.img :=
  rfl
@[simp] theorem setGran_pwr (bank sector granule : Nat) (d : BitVec 2048) (s : State) :
    (setGran bank sector granule d s).pwr = s.pwr :=
  rfl
@[simp] theorem setGran_thm (bank sector granule : Nat) (d : BitVec 2048) (s : State) :
    (setGran bank sector granule d s).thm = s.thm :=
  rfl
@[simp] theorem setGran_fcl (bank sector granule : Nat) (d : BitVec 2048) (s : State) :
    (setGran bank sector granule d s).fcl = s.fcl :=
  rfl
@[simp] theorem setGran_obs (bank sector granule : Nat) (d : BitVec 2048) (s : State) :
    (setGran bank sector granule d s).obs = s.obs :=
  rfl
@[simp] theorem setGran_tal (bank sector granule : Nat) (d : BitVec 2048) (s : State) :
    (setGran bank sector granule d s).tal = s.tal :=
  rfl
@[simp] theorem setGran_dmc (bank sector granule : Nat) (d : BitVec 2048) (s : State) :
    (setGran bank sector granule d s).dmc = s.dmc :=
  rfl
@[simp] theorem setGran_mch (bank sector granule : Nat) (d : BitVec 2048) (s : State) :
    (setGran bank sector granule d s).mch = s.mch :=
  rfl
@[simp] theorem setGran_bpm (bank sector granule : Nat) (d : BitVec 2048) (s : State) :
    (setGran bank sector granule d s).bpm = s.bpm :=
  rfl
@[simp] theorem setGran_cph (bank sector granule : Nat) (d : BitVec 2048) (s : State) :
    (setGran bank sector granule d s).cph = s.cph :=
  rfl
@[simp] theorem setGran_kec (bank sector granule : Nat) (d : BitVec 2048) (s : State) :
    (setGran bank sector granule d s).kec = s.kec :=
  rfl
@[simp] theorem setGran_nfc (bank sector granule : Nat) (d : BitVec 2048) (s : State) :
    (setGran bank sector granule d s).nfc = s.nfc :=
  rfl
@[simp] theorem setGran_med (bank sector granule : Nat) (d : BitVec 2048) (s : State) :
    (setGran bank sector granule d s).med = s.med :=
  rfl
@[simp] theorem setGran_qtz (bank sector granule : Nat) (d : BitVec 2048) (s : State) :
    (setGran bank sector granule d s).qtz = s.qtz :=
  rfl
@[simp] theorem setGran_eth (bank sector granule : Nat) (d : BitVec 2048) (s : State) :
    (setGran bank sector granule d s).eth = s.eth :=
  rfl
@[simp] theorem setGran_insts (bank sector granule : Nat) (d : BitVec 2048) (s : State) :
    (setGran bank sector granule d s).insts = s.insts :=
  rfl
@[simp] theorem setGran_jrn (bank sector granule : Nat) (d : BitVec 2048) (s : State) :
    (setGran bank sector granule d s).jrn = s.jrn :=
  rfl
@[simp] theorem setGran_slt (bank sector granule : Nat) (d : BitVec 2048) (s : State) :
    (setGran bank sector granule d s).slt = s.slt :=
  rfl
@[simp] theorem setGran_mgmt (bank sector granule : Nat) (d : BitVec 2048) (s : State) :
    (setGran bank sector granule d s).mgmt = s.mgmt :=
  rfl
@[simp] theorem setGran_wire (bank sector granule : Nat) (d : BitVec 2048) (s : State) :
    (setGran bank sector granule d s).wire = s.wire :=
  rfl

/-! ### setHdr -/

@[simp] theorem setHdr_pending (bank sector : Nat) (f : SectorHdr → SectorHdr) (s : State) :
    (setHdr bank sector f s).pending = s.pending :=
  rfl
@[simp] theorem setHdr_quartz (bank sector : Nat) (f : SectorHdr → SectorHdr) (s : State) :
    (setHdr bank sector f s).quartz = s.quartz :=
  rfl
@[simp] theorem setHdr_free (bank sector : Nat) (f : SectorHdr → SectorHdr) (s : State) :
    (setHdr bank sector f s).free = s.free :=
  rfl
@[simp] theorem setHdr_sys (bank sector : Nat) (f : SectorHdr → SectorHdr) (s : State) :
    (setHdr bank sector f s).sys = s.sys :=
  rfl
@[simp] theorem setHdr_fuses (bank sector : Nat) (f : SectorHdr → SectorHdr) (s : State) :
    (setHdr bank sector f s).fuses = s.fuses :=
  rfl
@[simp] theorem setHdr_tck (bank sector : Nat) (f : SectorHdr → SectorHdr) (s : State) :
    (setHdr bank sector f s).tck = s.tck :=
  rfl
@[simp] theorem setHdr_pins (bank sector : Nat) (f : SectorHdr → SectorHdr) (s : State) :
    (setHdr bank sector f s).pins = s.pins :=
  rfl
@[simp] theorem setHdr_img (bank sector : Nat) (f : SectorHdr → SectorHdr) (s : State) :
    (setHdr bank sector f s).img = s.img :=
  rfl
@[simp] theorem setHdr_pwr (bank sector : Nat) (f : SectorHdr → SectorHdr) (s : State) :
    (setHdr bank sector f s).pwr = s.pwr :=
  rfl
@[simp] theorem setHdr_thm (bank sector : Nat) (f : SectorHdr → SectorHdr) (s : State) :
    (setHdr bank sector f s).thm = s.thm :=
  rfl
@[simp] theorem setHdr_fcl (bank sector : Nat) (f : SectorHdr → SectorHdr) (s : State) :
    (setHdr bank sector f s).fcl = s.fcl :=
  rfl
@[simp] theorem setHdr_obs (bank sector : Nat) (f : SectorHdr → SectorHdr) (s : State) :
    (setHdr bank sector f s).obs = s.obs :=
  rfl
@[simp] theorem setHdr_tal (bank sector : Nat) (f : SectorHdr → SectorHdr) (s : State) :
    (setHdr bank sector f s).tal = s.tal :=
  rfl
@[simp] theorem setHdr_dmc (bank sector : Nat) (f : SectorHdr → SectorHdr) (s : State) :
    (setHdr bank sector f s).dmc = s.dmc :=
  rfl
@[simp] theorem setHdr_mch (bank sector : Nat) (f : SectorHdr → SectorHdr) (s : State) :
    (setHdr bank sector f s).mch = s.mch :=
  rfl
@[simp] theorem setHdr_bpm (bank sector : Nat) (f : SectorHdr → SectorHdr) (s : State) :
    (setHdr bank sector f s).bpm = s.bpm :=
  rfl
@[simp] theorem setHdr_cph (bank sector : Nat) (f : SectorHdr → SectorHdr) (s : State) :
    (setHdr bank sector f s).cph = s.cph :=
  rfl
@[simp] theorem setHdr_kec (bank sector : Nat) (f : SectorHdr → SectorHdr) (s : State) :
    (setHdr bank sector f s).kec = s.kec :=
  rfl
@[simp] theorem setHdr_nfc (bank sector : Nat) (f : SectorHdr → SectorHdr) (s : State) :
    (setHdr bank sector f s).nfc = s.nfc :=
  rfl
@[simp] theorem setHdr_med (bank sector : Nat) (f : SectorHdr → SectorHdr) (s : State) :
    (setHdr bank sector f s).med = s.med :=
  rfl
@[simp] theorem setHdr_qtz (bank sector : Nat) (f : SectorHdr → SectorHdr) (s : State) :
    (setHdr bank sector f s).qtz = s.qtz :=
  rfl
@[simp] theorem setHdr_eth (bank sector : Nat) (f : SectorHdr → SectorHdr) (s : State) :
    (setHdr bank sector f s).eth = s.eth :=
  rfl
@[simp] theorem setHdr_insts (bank sector : Nat) (f : SectorHdr → SectorHdr) (s : State) :
    (setHdr bank sector f s).insts = s.insts :=
  rfl
@[simp] theorem setHdr_jrn (bank sector : Nat) (f : SectorHdr → SectorHdr) (s : State) :
    (setHdr bank sector f s).jrn = s.jrn :=
  rfl
@[simp] theorem setHdr_slt (bank sector : Nat) (f : SectorHdr → SectorHdr) (s : State) :
    (setHdr bank sector f s).slt = s.slt :=
  rfl
@[simp] theorem setHdr_mgmt (bank sector : Nat) (f : SectorHdr → SectorHdr) (s : State) :
    (setHdr bank sector f s).mgmt = s.mgmt :=
  rfl
@[simp] theorem setHdr_wire (bank sector : Nat) (f : SectorHdr → SectorHdr) (s : State) :
    (setHdr bank sector f s).wire = s.wire :=
  rfl

/-! ### putLine -/

@[simp] theorem putLine_pending (line : Nat) (l : Line) (s : State) : (putLine line l s).pending = s.pending := rfl
@[simp] theorem putLine_quartz (line : Nat) (l : Line) (s : State) : (putLine line l s).quartz = s.quartz := rfl
@[simp] theorem putLine_free (line : Nat) (l : Line) (s : State) : (putLine line l s).free = s.free := rfl
@[simp] theorem putLine_sys (line : Nat) (l : Line) (s : State) : (putLine line l s).sys = s.sys := rfl
@[simp] theorem putLine_fuses (line : Nat) (l : Line) (s : State) : (putLine line l s).fuses = s.fuses := rfl
@[simp] theorem putLine_tck (line : Nat) (l : Line) (s : State) : (putLine line l s).tck = s.tck := rfl
@[simp] theorem putLine_pins (line : Nat) (l : Line) (s : State) : (putLine line l s).pins = s.pins := rfl
@[simp] theorem putLine_img (line : Nat) (l : Line) (s : State) : (putLine line l s).img = s.img := rfl
@[simp] theorem putLine_pwr (line : Nat) (l : Line) (s : State) : (putLine line l s).pwr = s.pwr := rfl
@[simp] theorem putLine_thm (line : Nat) (l : Line) (s : State) : (putLine line l s).thm = s.thm := rfl
@[simp] theorem putLine_fcl (line : Nat) (l : Line) (s : State) : (putLine line l s).fcl = s.fcl := rfl
@[simp] theorem putLine_obs (line : Nat) (l : Line) (s : State) : (putLine line l s).obs = s.obs := rfl
@[simp] theorem putLine_tal (line : Nat) (l : Line) (s : State) : (putLine line l s).tal = s.tal := rfl
@[simp] theorem putLine_cfl (line : Nat) (l : Line) (s : State) : (putLine line l s).cfl = s.cfl := rfl
@[simp] theorem putLine_dmc (line : Nat) (l : Line) (s : State) : (putLine line l s).dmc = s.dmc := rfl
@[simp] theorem putLine_bpm (line : Nat) (l : Line) (s : State) : (putLine line l s).bpm = s.bpm := rfl
@[simp] theorem putLine_cph (line : Nat) (l : Line) (s : State) : (putLine line l s).cph = s.cph := rfl
@[simp] theorem putLine_kec (line : Nat) (l : Line) (s : State) : (putLine line l s).kec = s.kec := rfl
@[simp] theorem putLine_nfc (line : Nat) (l : Line) (s : State) : (putLine line l s).nfc = s.nfc := rfl
@[simp] theorem putLine_med (line : Nat) (l : Line) (s : State) : (putLine line l s).med = s.med := rfl
@[simp] theorem putLine_qtz (line : Nat) (l : Line) (s : State) : (putLine line l s).qtz = s.qtz := rfl
@[simp] theorem putLine_eth (line : Nat) (l : Line) (s : State) : (putLine line l s).eth = s.eth := rfl
@[simp] theorem putLine_insts (line : Nat) (l : Line) (s : State) : (putLine line l s).insts = s.insts := rfl
@[simp] theorem putLine_jrn (line : Nat) (l : Line) (s : State) : (putLine line l s).jrn = s.jrn := rfl
@[simp] theorem putLine_slt (line : Nat) (l : Line) (s : State) : (putLine line l s).slt = s.slt := rfl
@[simp] theorem putLine_mgmt (line : Nat) (l : Line) (s : State) : (putLine line l s).mgmt = s.mgmt := rfl
@[simp] theorem putLine_wire (line : Nat) (l : Line) (s : State) : (putLine line l s).wire = s.wire := rfl

/-! ### stageRec -/

@[simp] theorem stageRec_pending (rtype inst txn desc body : Nat) (s : State) :
    (stageRec rtype inst txn desc body s).pending = s.pending :=
  rfl
@[simp] theorem stageRec_quartz (rtype inst txn desc body : Nat) (s : State) :
    (stageRec rtype inst txn desc body s).quartz = s.quartz :=
  rfl
@[simp] theorem stageRec_free (rtype inst txn desc body : Nat) (s : State) :
    (stageRec rtype inst txn desc body s).free = s.free :=
  rfl
@[simp] theorem stageRec_sys (rtype inst txn desc body : Nat) (s : State) :
    (stageRec rtype inst txn desc body s).sys = s.sys :=
  rfl
@[simp] theorem stageRec_fuses (rtype inst txn desc body : Nat) (s : State) :
    (stageRec rtype inst txn desc body s).fuses = s.fuses :=
  rfl
@[simp] theorem stageRec_tck (rtype inst txn desc body : Nat) (s : State) :
    (stageRec rtype inst txn desc body s).tck = s.tck :=
  rfl
@[simp] theorem stageRec_pins (rtype inst txn desc body : Nat) (s : State) :
    (stageRec rtype inst txn desc body s).pins = s.pins :=
  rfl
@[simp] theorem stageRec_img (rtype inst txn desc body : Nat) (s : State) :
    (stageRec rtype inst txn desc body s).img = s.img :=
  rfl
@[simp] theorem stageRec_pwr (rtype inst txn desc body : Nat) (s : State) :
    (stageRec rtype inst txn desc body s).pwr = s.pwr :=
  rfl
@[simp] theorem stageRec_thm (rtype inst txn desc body : Nat) (s : State) :
    (stageRec rtype inst txn desc body s).thm = s.thm :=
  rfl
@[simp] theorem stageRec_fcl (rtype inst txn desc body : Nat) (s : State) :
    (stageRec rtype inst txn desc body s).fcl = s.fcl :=
  rfl
@[simp] theorem stageRec_obs (rtype inst txn desc body : Nat) (s : State) :
    (stageRec rtype inst txn desc body s).obs = s.obs :=
  rfl
@[simp] theorem stageRec_tal (rtype inst txn desc body : Nat) (s : State) :
    (stageRec rtype inst txn desc body s).tal = s.tal :=
  rfl
@[simp] theorem stageRec_cfl (rtype inst txn desc body : Nat) (s : State) :
    (stageRec rtype inst txn desc body s).cfl = s.cfl :=
  rfl
@[simp] theorem stageRec_dmc (rtype inst txn desc body : Nat) (s : State) :
    (stageRec rtype inst txn desc body s).dmc = s.dmc :=
  rfl
@[simp] theorem stageRec_mch (rtype inst txn desc body : Nat) (s : State) :
    (stageRec rtype inst txn desc body s).mch = s.mch :=
  rfl
@[simp] theorem stageRec_bpm (rtype inst txn desc body : Nat) (s : State) :
    (stageRec rtype inst txn desc body s).bpm = s.bpm :=
  rfl
@[simp] theorem stageRec_cph (rtype inst txn desc body : Nat) (s : State) :
    (stageRec rtype inst txn desc body s).cph = s.cph :=
  rfl
@[simp] theorem stageRec_kec (rtype inst txn desc body : Nat) (s : State) :
    (stageRec rtype inst txn desc body s).kec = s.kec :=
  rfl
@[simp] theorem stageRec_nfc (rtype inst txn desc body : Nat) (s : State) :
    (stageRec rtype inst txn desc body s).nfc = s.nfc :=
  rfl
@[simp] theorem stageRec_med (rtype inst txn desc body : Nat) (s : State) :
    (stageRec rtype inst txn desc body s).med = s.med :=
  rfl
@[simp] theorem stageRec_qtz (rtype inst txn desc body : Nat) (s : State) :
    (stageRec rtype inst txn desc body s).qtz = s.qtz :=
  rfl
@[simp] theorem stageRec_eth (rtype inst txn desc body : Nat) (s : State) :
    (stageRec rtype inst txn desc body s).eth = s.eth :=
  rfl
@[simp] theorem stageRec_insts (rtype inst txn desc body : Nat) (s : State) :
    (stageRec rtype inst txn desc body s).insts = s.insts :=
  rfl
@[simp] theorem stageRec_slt (rtype inst txn desc body : Nat) (s : State) :
    (stageRec rtype inst txn desc body s).slt = s.slt :=
  rfl
@[simp] theorem stageRec_mgmt (rtype inst txn desc body : Nat) (s : State) :
    (stageRec rtype inst txn desc body s).mgmt = s.mgmt :=
  rfl
@[simp] theorem stageRec_wire (rtype inst txn desc body : Nat) (s : State) :
    (stageRec rtype inst txn desc body s).wire = s.wire :=
  rfl

/-! ### modStest -/

@[simp] theorem modStest_pending (f : Stest → Stest) (s : State) : (modStest f s).pending = s.pending := rfl
@[simp] theorem modStest_quartz (f : Stest → Stest) (s : State) : (modStest f s).quartz = s.quartz := rfl
@[simp] theorem modStest_free (f : Stest → Stest) (s : State) : (modStest f s).free = s.free := rfl
@[simp] theorem modStest_fuses (f : Stest → Stest) (s : State) : (modStest f s).fuses = s.fuses := rfl
@[simp] theorem modStest_tck (f : Stest → Stest) (s : State) : (modStest f s).tck = s.tck := rfl
@[simp] theorem modStest_pins (f : Stest → Stest) (s : State) : (modStest f s).pins = s.pins := rfl
@[simp] theorem modStest_img (f : Stest → Stest) (s : State) : (modStest f s).img = s.img := rfl
@[simp] theorem modStest_pwr (f : Stest → Stest) (s : State) : (modStest f s).pwr = s.pwr := rfl
@[simp] theorem modStest_thm (f : Stest → Stest) (s : State) : (modStest f s).thm = s.thm := rfl
@[simp] theorem modStest_fcl (f : Stest → Stest) (s : State) : (modStest f s).fcl = s.fcl := rfl
@[simp] theorem modStest_obs (f : Stest → Stest) (s : State) : (modStest f s).obs = s.obs := rfl
@[simp] theorem modStest_tal (f : Stest → Stest) (s : State) : (modStest f s).tal = s.tal := rfl
@[simp] theorem modStest_cfl (f : Stest → Stest) (s : State) : (modStest f s).cfl = s.cfl := rfl
@[simp] theorem modStest_dmc (f : Stest → Stest) (s : State) : (modStest f s).dmc = s.dmc := rfl
@[simp] theorem modStest_mch (f : Stest → Stest) (s : State) : (modStest f s).mch = s.mch := rfl
@[simp] theorem modStest_bpm (f : Stest → Stest) (s : State) : (modStest f s).bpm = s.bpm := rfl
@[simp] theorem modStest_cph (f : Stest → Stest) (s : State) : (modStest f s).cph = s.cph := rfl
@[simp] theorem modStest_kec (f : Stest → Stest) (s : State) : (modStest f s).kec = s.kec := rfl
@[simp] theorem modStest_nfc (f : Stest → Stest) (s : State) : (modStest f s).nfc = s.nfc := rfl
@[simp] theorem modStest_med (f : Stest → Stest) (s : State) : (modStest f s).med = s.med := rfl
@[simp] theorem modStest_qtz (f : Stest → Stest) (s : State) : (modStest f s).qtz = s.qtz := rfl
@[simp] theorem modStest_eth (f : Stest → Stest) (s : State) : (modStest f s).eth = s.eth := rfl
@[simp] theorem modStest_insts (f : Stest → Stest) (s : State) : (modStest f s).insts = s.insts := rfl
@[simp] theorem modStest_jrn (f : Stest → Stest) (s : State) : (modStest f s).jrn = s.jrn := rfl
@[simp] theorem modStest_slt (f : Stest → Stest) (s : State) : (modStest f s).slt = s.slt := rfl
@[simp] theorem modStest_mgmt (f : Stest → Stest) (s : State) : (modStest f s).mgmt = s.mgmt := rfl
@[simp] theorem modStest_wire (f : Stest → Stest) (s : State) : (modStest f s).wire = s.wire := rfl

/-! ### latchHi -/

@[simp] theorem latchHi_pending (a v : Nat) (s : State) : (latchHi a v s).pending = s.pending := rfl
@[simp] theorem latchHi_quartz (a v : Nat) (s : State) : (latchHi a v s).quartz = s.quartz := rfl
@[simp] theorem latchHi_free (a v : Nat) (s : State) : (latchHi a v s).free = s.free := rfl
@[simp] theorem latchHi_sys (a v : Nat) (s : State) : (latchHi a v s).sys = s.sys := rfl
@[simp] theorem latchHi_fuses (a v : Nat) (s : State) : (latchHi a v s).fuses = s.fuses := rfl
@[simp] theorem latchHi_tck (a v : Nat) (s : State) : (latchHi a v s).tck = s.tck := rfl
@[simp] theorem latchHi_pins (a v : Nat) (s : State) : (latchHi a v s).pins = s.pins := rfl
@[simp] theorem latchHi_img (a v : Nat) (s : State) : (latchHi a v s).img = s.img := rfl
@[simp] theorem latchHi_pwr (a v : Nat) (s : State) : (latchHi a v s).pwr = s.pwr := rfl
@[simp] theorem latchHi_thm (a v : Nat) (s : State) : (latchHi a v s).thm = s.thm := rfl
@[simp] theorem latchHi_fcl (a v : Nat) (s : State) : (latchHi a v s).fcl = s.fcl := rfl
@[simp] theorem latchHi_obs (a v : Nat) (s : State) : (latchHi a v s).obs = s.obs := rfl
@[simp] theorem latchHi_tal (a v : Nat) (s : State) : (latchHi a v s).tal = s.tal := rfl
@[simp] theorem latchHi_cfl (a v : Nat) (s : State) : (latchHi a v s).cfl = s.cfl := rfl
@[simp] theorem latchHi_dmc (a v : Nat) (s : State) : (latchHi a v s).dmc = s.dmc := rfl
@[simp] theorem latchHi_mch (a v : Nat) (s : State) : (latchHi a v s).mch = s.mch := rfl
@[simp] theorem latchHi_bpm (a v : Nat) (s : State) : (latchHi a v s).bpm = s.bpm := rfl
@[simp] theorem latchHi_cph (a v : Nat) (s : State) : (latchHi a v s).cph = s.cph := rfl
@[simp] theorem latchHi_kec (a v : Nat) (s : State) : (latchHi a v s).kec = s.kec := rfl
@[simp] theorem latchHi_nfc (a v : Nat) (s : State) : (latchHi a v s).nfc = s.nfc := rfl
@[simp] theorem latchHi_med (a v : Nat) (s : State) : (latchHi a v s).med = s.med := rfl
@[simp] theorem latchHi_qtz (a v : Nat) (s : State) : (latchHi a v s).qtz = s.qtz := rfl
@[simp] theorem latchHi_eth (a v : Nat) (s : State) : (latchHi a v s).eth = s.eth := rfl
@[simp] theorem latchHi_insts (a v : Nat) (s : State) : (latchHi a v s).insts = s.insts := rfl
@[simp] theorem latchHi_jrn (a v : Nat) (s : State) : (latchHi a v s).jrn = s.jrn := rfl
@[simp] theorem latchHi_slt (a v : Nat) (s : State) : (latchHi a v s).slt = s.slt := rfl
@[simp] theorem latchHi_wire (a v : Nat) (s : State) : (latchHi a v s).wire = s.wire := rfl

end Sys2Proof.Laws
end

