-- ==== Sys2Proof/WellFormed.lean ====
section
/-! DEFINITION. Which commands have operands of the size the spec gives their source: lists with one element per link,
channel or sensor, no part named twice, numbers that fit the field they come from. The device's meaning is given for
every command; the check says which of them the board and the parts can send. -/

namespace Sys2Proof

/-- What the self-tests answer: a margin per SRAM set of step 5 or none, a rate per NAND channel, no die twice. -/
def SelfTest.wf (t : SelfTest) : Bool :=
  t.rates.length = 64 && t.fwSigOk.length = 2 && decide t.dies.Nodup && decide (t.durationUs < 2 ^ 32)

/-- What a cold start meets. -/
def Board.wf (b : Board) : Bool := b.test.wf

/-- The operands of a command have the sizes of their sources. -/
def Instr.wf : Instr → Bool
  | .coldStart b => b.wf
  | .internalColdStart b => b.wf
  | .warmStart _ w => w.test.wf
  | .warmStartDeferred w => w.test.wf
  | .avsbusAcknowledge mv => decide (mv < 2 ^ 16)
  | .bandwidthWindowEnd rx tx => rx.length = 16 && tx.length = 16
  | .dramUncorrectableRead _ addr _ _ _ => decide (addr.toNat < 12 * 14 * 2 ^ 30)
  | .regRead f => decide (f.data.length ≤ 32)
  | .regWrite f => decide (f.data.length ≤ 32)
  | _ => true

end Sys2Proof
end

