-- ==== Sys2Proof/Tests/Slice0.lean ====
section
/-! SUPPORT. Tests of the model: a smoke test of WellFormed, a few results that the spec states, and for every statement
with hypotheses concrete states and operands that meet them. -/

namespace Sys2Proof.Tests

open Sys2Proof Sys2Proof.Machine Sys2Proof.Safety

set_option maxRecDepth 8000

/-! ### A small running device -/

def tSelf : SelfTest :=
  { lbistOk := true, brokenLines := [], sramOk := true, landingOk := true, sramRow := 0, sramRepairs := 0
    marginOk := [true, true], fwSigOk := [true, true], badLanes := [], badKeccak := [], trngOk := true, badCores := []
    badDram := [], badNand := [], dies := [0, 1], rates := List.replicate 64 3600, durationUs := 100000, dikOk := true }

def tPorts : PortsEntry := { coldPorts with pfc := 1, links := [⟨2, 0x0A000001, 5⟩] }

def tSlot : NorSlot := { bytes := [], poltasSigOk := true, sigOk := true }

def tBoard : Board :=
  { straps := 0, junction := 580, test := tSelf
    nor := { sfdpOk := true, densityMib := 128, slotA := tSlot, slotB := tSlot }
    area := { found := true, readable := true, badSnapshots := [], badRecords := [], unconfirmed := [], journal := [] }
    laneInv := 0, cut := none }

def tWarm : WarmInputs := { test := tSelf, imageMatches := true, cut := none }

/-- An assertion of PFAIL_N at a step of a start. -/
def tCut (n : Nat) : StartCut := { step := n, pfail := true }

def tSrc : Source := { encap := .raw, mac := 9, ip4 := 0, ip6 := 0, port := 0, dscp := 0 }

def tParams : Params :=
  { slots := 8, keyCount := 2, metaFmt := false, trailerAll := false, zoneSize := 64, zoneCap := 48, zoneCount := 4
    openLimit := 2, stripeWidth := 4, writeMode := 0, convBlocks := 16, fill := 0, txnTimeoutMs := 1000
    typeMask := 2 ^ 21 - 1, bwRate := 1000, bwDepth := 1048576, opRate := 1000, opDepth := 64, missLimit := 4
    mboxDepth := 2, violLimit := 3, missWindowMs := 1000, violWindowUs := 1000, links := 1, egressBufs := 64
    mboxPeers := [], sources := [{ kind := 1, mac := 9, addr := 0 }], raw := 0 }

/-- An instance with its buckets full. -/
def tInst : Inst := freshInst tParams 0

/-- A device in RUN with link 0 up and instances 0 and 1. -/
def tRun : State :=
  { State.reset with
    sys := { coldSys with boot := .run, open' := true, transport := true }
    tck := { resetN := true, tap := .bypass, dr := 0 }
    img := { coldSettings with ports := tPorts }
    eth := { coldEth with up := 1 }
    bpm := { coldBpm with pools := startPools }
    insts := [(0, tInst), (1, tInst)] }

/-- The device with its instance 1 changed. -/
def tWith (x : Inst) : State := { tRun with insts := [(0, tInst), (1, x)] }

def tHdr (inst seq len : Nat) : Header :=
  { version := 1, flags := 0, inst := BitVec.ofNat 16 inst, slot := 0, seq := BitVec.ofNat 32 seq, ack := 0
    len := BitVec.ofNat 16 len, block := 0, time := 0, echo := 0, link := 0, incarn := 0, reserved := 0 }

/-- Outer headers of a raw frame to a MAC address. -/
def tOuter (mac : BitVec 48) : Outer := { tags := [], mac := mac, ip4 := 0, ip6 := 0, port := 0, sum := .good }

def tEnv (inst seq len : Nat) : Env := { link := 0, src := tSrc, outer := tOuter 2, hdr := tHdr inst seq len }

def tTrailer : Trailer := { counter := 0, tag := 0, keyGen := 0, reserved := 0 }

/-- A task frame of instance 1 without a trailer. -/
def tTask (seq record : Nat) : TaskFrame :=
  { env := tEnv 1 seq 64, record := BitVec.ofNat 512 record, trailer := tTrailer }

/-- IDENTIFY and WRITE of one block at zone 0. -/
def tIdentify : TaskFrame := tTask 0 0x0E

/-! ### Ill-formed operands -/

/-- A command whose operands no board, part or frame can send is refused by the check, one case for each of its clauses. -/
theorem test_wellFormed_refuses :
    (Instr.coldStart { tBoard with test := { tSelf with rates := [] } }).wf = false ∧
    (Instr.internalColdStart { tBoard with test := { tSelf with fwSigOk := [true] } }).wf = false ∧
    (Instr.warmStart .activation { tWarm with test := { tSelf with dies := [3, 3] } }).wf = false ∧
    (Instr.warmStartDeferred { tWarm with test := { tSelf with durationUs := 2 ^ 32 } }).wf = false ∧
    (Instr.avsbusAcknowledge (2 ^ 16)).wf = false ∧
    (Instr.dramUncorrectableRead 0 (BitVec.ofNat 64 (12 * 14 * 2 ^ 30)) 0 true false).wf = false ∧
    (Instr.bandwidthWindowEnd [] []).wf = false ∧
    (Instr.regRead { env := tEnv 0 0 16, op := 1, count := 33, reserved := 0, addr := 0, data := List.replicate 33 0
                     trailer := tTrailer }).wf = false ∧
    (Instr.regWrite { env := tEnv 0 0 16, op := 2, count := 33, reserved := 0, addr := 0, data := List.replicate 33 0
                      trailer := tTrailer }).wf = false ∧
    (Instr.coldStart tBoard).wf = true := by decide

/-! ### Witnesses: the queue, the test port, records and starts -/

theorem witness_EmptyQueueLetsOneNanosecondPass :
    (tRun.pending = [] ∧ tRun.quartz + 1 < 2 ^ 64) ∧
    ({ tRun with quartz := 2 ^ 64 - 2 }.quartz + 1 < 2 ^ 64) ∧ (2 ^ 64 ≤ { tRun with quartz := 2 ^ 64 - 1 }.quartz + 1) := by
  decide

/-- One state meets the hypotheses of the statements about every step. -/
theorem witness_step : ∃ s t : State,
    TapInv s ∧ RingsOk s.obs ∧ BuffersOk s ∧ s.pending.head? ≠ some .coldPowerUp ∧ step s = .next t := by
  refine ⟨{ State.reset with pending := [.extest] }, _, fun _ => rfl, ⟨by decide, by decide⟩, ?_, by decide, rfl⟩
  exact ⟨rfl, rfl, rfl, rfl, rfl⟩

theorem witness_TestPortInstructions :
    (drivesBalls tRun.tck.tap = false ∧ drivesBalls { tRun.tck with tap := .extest }.tap = true) ∧
    (∀ p ∈ [(Instr.extest, Tap.extest), (.extestPulse, .extestPulse), (.extestTrain, .extestTrain),
      (.clamp, .clamp), (.highz, .highz)], p ∈ [(Instr.extest, Tap.extest), (.extestPulse, .extestPulse),
      (.extestTrain, .extestTrain), (.clamp, .clamp), (.highz, .highz)]) ∧ State.reset.tck.resetN = false ∧
    State.reset.sys.boot ≠ .dump ∧ { State.reset.sys with boot := .dump }.boot = .dump ∧ tRun.tck.resetN = true ∧
    vccqOk tRun = true := ⟨by decide, fun _ h => h, by decide⟩

def tRec : Rec :=
  { seq := 0, iseq := 0, time := 0, code := 1, severity := 1, simul := false, first := false, carried := false
    source := 0, inst := noInst, incarn := 0, derate := 0, payload := 0 }

/-- A device whose event FIFO holds `n` entries. -/
def tFifo (n : Nat) : State := { tRun with obs := { coldObs with fifo := List.replicate n tRec } }

theorem witness_RecordsEnterAndLeaveTheFifoInOrder :
    (1 ≠ noInst) ∧ (tFifo 59).obs.fifo.length < 60 ∧ ((tFifo 63).obs.fifo.length < 64 ∧ sevContain ≤ sevHalt) ∧
    ¬ ((tFifo 60).obs.fifo.length < 60 ∨ ((tFifo 60).obs.fifo.length < 64 ∧ sevContain ≤ sevNotice)) ∧
    ¬ ((tFifo 64).obs.fifo.length < 60 ∨ ((tFifo 64).obs.fifo.length < 64 ∧ sevContain ≤ sevHalt)) ∧
    (tFifo 0).obs.fifo = [] ∧ (tFifo 2).obs.fifo = tRec :: [tRec] ∧ (tFifo 2).obs.lostCount = 0 := by decide

/-- A device in some state of Table SU-3 with a change of SYS. -/
def tSys (f : Sys → Sys) : State := { tRun with sys := f tRun.sys }

theorem witness_ControlBallAssertions :
    (tSys fun x => { x with boot := .start }).tck.resetN = true ∧ (tSys fun x => { x with boot := .start }).sys.boot = .start ∧
    (tSys fun x => { x with boot := .lodestone }).sys.boot = .lodestone ∧
    (tRun.sys.boot = .run ∧ tRun.pwr.phase = 0 ∧ tRun.pwr.state < 2 ∧ tRun.tck.resetN = true ∧ tRun.pins.pfailN = true) ∧
    { coldPins with pfailN := false }.pfailN = false ∧ State.reset.tck.resetN = false ∧
    ((tSys fun x => { x with boot := .dump }).sys.boot = .dump ∧ (tSys fun x => { x with boot := .dump }).tck.resetN = true) := by
  decide

theorem witness_DumpClosesAcceptanceAndEndsInSafe : ∃ s : State,
    s.sys.boot = .dump ∧ s.sys.dumpMarker = false ∧ s.sys.resetWaits = false ∧ s.pins.pfailN = false :=
  ⟨{ tSys (fun x => { x with boot := .dump }) with pins := { coldPins with pfailN := false } }, rfl, rfl, rfl, rfl⟩

theorem witness_ReleaseAndResetAfterTheDump :
    (∃ s : State, s.sys.boot = .safe ∧ s.tck.resetN = true ∧ s.sys.resetWaits = false ∧ s.sys.afterDump = .reopen ∧
      s.qtz.unsent = false) ∧
    (∃ s : State, s.sys.boot = .dump) ∧
    (∃ s : State, s.sys.boot = .halt ∧ s.sys.resetWaits = true ∧ ∀ b, s.sys.hold ≠ .reset b) ∧
    (∃ s : State, s.sys.boot = .safe ∧ s.sys.resetWaits = true ∧ vccqOk s = true ∧ ∀ b, s.sys.hold ≠ .reset b) :=
  ⟨⟨tSys (fun x => { x with boot := .safe }), rfl, rfl, rfl, rfl, rfl⟩, ⟨tSys (fun x => { x with boot := .dump }), rfl⟩,
    ⟨tSys (fun x => { x with boot := .halt, resetWaits := true }), rfl, rfl, fun _ h => nomatch h⟩,
    ⟨tSys (fun x => { x with boot := .safe, resetWaits := true }), rfl, rfl, rfl, fun _ h => nomatch h⟩⟩

theorem witness_ColdStartWaitsOrRunsItsSteps :
    (State.reset.tck.resetN = false ∧ State.reset.sys.boot = .start ∧ { coldPins with sysClk := false }.sysClk = false ∧
      (State.reset.slt.state ≠ 4 ∨ State.reset.slt.step ≠ 7)) ∧
    (State.reset.pins.sysClk = true ∧ tBoard.junction ≤ 580 ∧ tBoard.cut = none ∧ drivesBalls State.reset.tck.tap = false) ∧
    (580 < { tBoard with junction := 581 }.junction ∧ { tBoard with junction := 632 }.junction ≤ 632) ∧
    (tSys fun x => { x with boot := .start, hold := .clock tBoard 1 }).sys.hold = .clock tBoard 1 ∧
    ((tSys fun x => { x with hold := .thermal tBoard 1 }).sys.hold = .thermal tBoard 1 ∧ junctionCool tRun = true ∧
      junctionCool { tRun with thm := { coldThm with junction := 540 } } = false) ∧ tRun.sys.hold = .no ∧
    ((tSys fun x => { x with boot := .start, afterDump := .internalCold }).sys.afterDump = .internalCold ∧
      (tSys fun x => { x with boot := .start, afterDump := .internalCold }).tck.resetN = true) ∧
    { tBoard with test := { tSelf with lbistOk := false } }.test.lbistOk = false := by decide

theorem witness_PowerUpAndWarmStartRequests :
    (tRun.cfl.unit0 = coldUnit ∧ tRun.cfl.unit1 = coldUnit ∧ (∀ p ∈ tRun.med.progs, p.2.sources = []) ∧
      (tRun.slt.state ≠ 4 ∨ tRun.slt.step ≠ 7)) ∧
    bits (0x57A20001#32).toNat 16 16 ≠ 0x57A3 ∧ bits (0x57A30000#32).toNat 0 4 ≠ 1 ∧
    (bits (0x57A30001#32).toNat 16 16 = 0x57A3 ∧ bits (0x57A30001#32).toNat 0 4 = 1 ∧ tRun.sys.boot = .run ∧
      tRun.sys.warmDeferred = none ∧ tRun.slt.state ≠ 4 ∧ tRun.pwr.state < 2 ∧ tRun.pwr.phase = 0 ∧ tWarm.cut = none) ∧
    (2 ≤ { coldPwr with state := 2 }.state ∧ (tSys fun x => { x with boot := .dump }).sys.afterDump = .reopen ∧
      (tSys fun x => { x with boot := .dump, afterDump := .internalCold }).sys.afterDump ≠ .reopen) ∧
    { coldSlt with state := 4 }.state = 4 ∧ (tSys fun x => { x with warmDeferred := some 2 }).sys.warmDeferred = some 2 ∧
    ((tCut 3).step ≤ 3 ∧ (tCut 3).pfail = true) := by
  decide

/-- A bank whose first sector holds the header of a firmware image, used and activated. -/
def tFirmware : State :=
  { tRun with cfl := { coldCfl with
    hdrs := [(0, { openM := .blank, doneM := .set, usedM := .set, activateM := .set })]
    mem := [(0, BitVec.ofNat 2048 (0x465A5445 + 2 ^ 32 + 0x4000 * 2 ^ 160))] } }

/-- Steps 6 to 8 of a warm start pass with a firmware image in bank 0, and fail without one. -/
theorem witness_warmSteps :
    (runSteps (warmSteps tSelf) (warmStop 2 (warmClose 2 tFirmware))).isOk = true ∧
    ∃ e, runSteps (warmSteps tSelf) (warmStop 2 (warmClose 2 tRun)) = .error e := ⟨rfl, _, rfl⟩

/-! ### Witnesses: faults and links -/

/-- A device with a change of FCL. -/
def tFcl (f : Fcl → Fcl) : State := { tRun with fcl := f tRun.fcl }

def tFault (sev : Nat) : Fault' :=
  { source := 5, severity := sev, addr := 0, access := 0, master := 0, inst := noInst, code := 1, payload := 0 }

theorem witness_FaultsJoinTheWindowInOrder :
    classHeld tRun 1 = false ∧ classHeld (tFcl fun x => { x with unrestored := [2] }) 1 = true ∧
    faultBefore (tFault 3) (tFault 2) = true := by decide

theorem witness_PowerClockAndAvsbusFaults :
    (tRun.pins.pfailN = true ∧ tRun.tck.resetN = true ∧ tRun.fcl.halted = false ∧ tRun.pins.sysClk = true ∧
      tRun.sys.hold = .no) ∧
    (State.reset.tck.resetN = false ∧ { coldSys with boot := .dump }.boot = .dump) ∧
    ({ coldPins with pfailN := false }.pfailN = false ∧ Rail.core ≠ .vccqNand ∧ State.reset.sys.boot = .start ∧
      tRun.sys.boot ≠ .start) ∧ tRun.sys.avsFails ≠ 2 ∧
    ((tSys fun x => { x with avsFails := 2 }).sys.avsFails = 2 ∧
      (tSys fun x => { x with avsFails := 2 }).sys.avsStopped = false) := by decide

theorem witness_FaultLinesReachTheArbiter :
    (tFcl fun x => { x with halted := true }).fcl.halted = true ∧ 5 ∈ (tFcl fun x => { x with broken := [5] }).fcl.broken ∧
    (tRun.fcl.halted = false ∧ 5 ∉ tRun.fcl.broken ∧ defaultSev 5 ≠ 0) ∧ defaultSev 0x17F = 0 ∧
    ((0x800#32).getLsbD 11 = true ∧ (0x400#32).getLsbD 11 = false ∧ tRun.fcl.injen = false ∧
      (tFcl fun x => { x with injen := true }).fcl.injen = true ∧ bits (0x800#32).toNat 9 2 = 0 ∧
      bits (0xA00#32).toNat 9 2 = 1 ∧ bits (0xA00#32).toNat 0 9 ∉ tRun.fcl.broken ∧ 2 ≤ bits (0xC00#32).toNat 9 2) := by decide

theorem witness_CaptureAndHalt :
    (∀ sev ∈ [sevDegrade, sevContain], ∃ s : State, s.fcl.window = [tFault sev] ∧ s.fcl.firstValid = false ∧
      s.fcl.capmin ≤ (tFault sev).severity ∧ sevDegrade ≤ (tFault sev).severity ∧ (tFault sev).severity < sevHalt ∧
      s.pwr.state < 2) ∧
    (∃ s : State, s.fcl.window = [tFault sevHalt]) ∧ ((1#32).getLsbD 0 = true ∧ (1#32).getLsbD 1 = false) ∧
    ((2#32).getLsbD 0 = false ∧ (2#32).getLsbD 1 = true) := by
  refine ⟨fun sev h => ⟨tFcl fun x => { x with window := [tFault sev] }, rfl, rfl, ?_⟩,
    ⟨tFcl fun x => { x with window := [tFault sevHalt] }, rfl⟩, by decide, by decide⟩
  revert h
  revert sev
  decide

theorem witness_LinkAndPortLoss :
    linkUp tRun 1 = false ∧ (linkUp tRun 0 = true ∧ tRun.sys.boot = .run) ∧ linkExists tRun 1 = false ∧
    ((tSys fun x => { x with transport := false, boot := .lodestone }).sys.transport = false ∧
      linkUp (tSys fun x => { x with transport := false, boot := .lodestone }) 0 = true ∧
      (tSys fun x => { x with transport := false, boot := .lodestone }).sys.boot ≠ .run) ∧
    (linkUp (tSys fun x => { x with transport := false }) 8 = false ∧ linkExists tRun 8 = true ∧
      tRun.fcl.unrestored = [] ∧ tRun.sys.boot ≠ .halt) ∧ (linkUp tRun 8 = false ∧ tRun.sys.transport = true) ∧
    (∃ n ∈ portLinks 0, n ≠ 0 ∧ linkUp { tRun with eth := { coldEth with p0mode := 3, up := 3 } } n = true) ∧
    ((∀ n ∈ portLinks 0, n ≠ 0 → linkUp tRun n = false) ∧ portSource 0 true ∉ tRun.fcl.unrestored) ∧
    tRun.pins.portClk.getD 1 true = true ∧ [true, false].getD 1 true = false := by decide

theorem witness_PauseDropAndAddressFrames :
    pfcOn tRun = true ∧ pfcOn { tRun with img := coldSettings } = false ∧ linkUp tRun 0 = true ∧
    (1#3).toNat ≠ pfcPriority tRun ∧ (0#3).toNat = pfcPriority tRun ∧ (1#16) ≠ 0 ∧
    ({ coldPins with xoff := [true, false] }.xoff.getD 0 false = true ∧ landingShort { tRun with bpm := coldBpm } 0 = true) ∧
    (tRun.pins.xoff.getD 0 false = false ∧ landingShort tRun 0 = false) ∧
    linkUp tRun 1 = false ∧ tRun.sys.boot = .run ∧ tRun.pwr.state < 2 ∧
    (vlanOk tRun none = true ∧ linkIp4 tRun 0 = some 0x0A000001 ∧ (0x0A000001 : BitVec 32) ≠ 0 ∧
      linkIp6 tRun 0 = some 5 ∧ (5 : BitVec 128) ≠ 0 ∧ linkPaused tRun 0 = false) ∧
    vlanOk tRun (some 1) = false ∧ linkIp4 tRun 0 ≠ some 7 ∧ linkIp6 tRun 0 ≠ some 7 := by decide

/-! ### Witnesses: operating point, temperature and power -/

/-- A device with a change of PWR. -/
def tPwr (f : Pwr → Pwr) : State := { tRun with pwr := f tRun.pwr }

/-- Sensor inputs: one diode, the others unused. -/
def tSensors : State :=
  { tRun with img := { tRun.img with sensors := { coldSensors with inputs := [⟨1, 10000, 0⟩, ⟨0, 0, 0⟩] } } }

theorem witness_OperatingPointAndThermalReadings :
    (∀ v ∈ [720, 850], (tSys fun x => { x with vreq := v }).sys.boot = .run ∧
      (tSys fun x => { x with vreq := v }).pwr.state = 0 ∧ (tSys fun x => { x with vreq := v }).sys.avsStopped = false ∧
      (tSys fun x => { x with vreq := v }).sys.vreq ≤ 850) ∧
    ((tSys fun x => { x with avsStopped := true }).sys.avsStopped = true ∧ 900 < (901#16).toNat ∧
      (tPwr fun x => { x with state := 1 }).pwr.state = 1 ∧ 1400 < (1401#16).toNat) ∧
    ((tSys fun x => { x with vreq := 850 }).sys.vreq = 850 ∧ 960 < (961#16).toNat ∧ tRun.thm.junction ≤ 500 ∧
      tRun.sys.cycleDerate = false) ∧
    (tSys fun x => { x with vreq := 850, cycleDerate := true }).sys.cycleDerate = true ∧
    tRun.thm.sites.length = 8 ∧ tSensors.thm.sensors.length = 24 ∧
    ((tSensors.img.sensors.inputs[0]?).map (·.type) = some 1 ∧ (tSensors.img.sensors.inputs[1]?).map (·.type) = some 0) ∧
    tRun.thm.step = 0 ∧
    (0 < { tRun with thm := { coldThm with step := 2 } }.thm.step ∧
      stepCool { tRun with thm := { coldThm with step := 2 } } = true) ∧
    stepCool { tRun with thm := { coldThm with step := 2, junction := 600 } } = false := by decide

/-- Two readings that ask for 25 mV more make one request of 25 mV. -/
theorem witness_requestChanges : ∃ t, exec (.operatingPointAdjust 1000) tRun = .next t ∧ t.sys.vreq = 825 := ⟨_, rfl, rfl⟩

theorem witness_ForcedDerateTakesEffectAtOnce :
    4 < bits (0x140#32).toNat 6 3 ∧ bits (0x100#32).toNat 6 3 ≤ 4 := by decide

theorem witness_PowerRequestsAndPolicy :
    (Instr.pwrReqStow ∈ [Instr.pwrReqRun, .pwrReqTrim, .pwrReqDoze, .pwrReqStow]) ∧
    (bits (0x50E40000#32).toNat 16 16 ≠ 0x50E5 ∧ bits (0x50E50001#32).toNat 16 16 = 0x50E5 ∧ tRun.pwr.phase = 0) ∧
    (bits (0x50E50000#32).toNat 0 2 = tRun.pwr.state ∧ permitted { tRun with img := { tRun.img with permit := 0 } } 3 = false) ∧
    (tRun.pwr.state < 2 ∧ permitted tRun 1 = true ∧ bits (0x50E50001#32).toNat 0 2 = 1) ∧
    ((tPwr fun x => { x with state := 1 }).pwr.state = 1 ∧ 2 ≤ (tPwr fun x => { x with state := 2 }).pwr.state ∧
      (tPwr fun x => { x with phase := 1 }).pwr.phase = 1 ∧ (tPwr fun x => { x with phase := 5 }).pwr.phase = 5) ∧
    (bits (0x03E80000#32).toNat 1 15 < 1 ∧ 30000 < bits (0x0001EA62#32).toNat 1 15 ∧ bits (0x00000002#32).toNat 16 10 < 1 ∧
      1000 < bits (0x03E90002#32).toNat 16 10 ∧ (3#32).getLsbD 0 = true) ∧
    (1 ≤ bits (0x03E8EA60#32).toNat 1 15 ∧ bits (0x03E8EA60#32).toNat 1 15 ≤ 30000 ∧
      1 ≤ bits (0x03E8EA60#32).toNat 16 10 ∧ bits (0x03E8EA60#32).toNat 16 10 ≤ 1000) ∧
    ((tPwr fun x => { x with idleEn := true }).pwr.idleEn = true ∧ permitted tRun 2 = true ∧
      anyHeld tRun (fun _ => true) = false ∧ tRun.slt.state ≠ 4 ∧ tRun.pwr.idleEn = false) := by
  refine ⟨by simp, ?_⟩
  decide

theorem witness_WakesAndExits :
    ((tPwr fun x => { x with state := 2 }).pwr.phase = 0 ∧ (tPwr fun x => { x with state := 2 }).pwr.state = 2 ∧
      linkUp (tPwr fun x => { x with state := 2 }) 0 = true ∧ tRun.sys.boot ≠ .halt) ∧
    tRun.pwr.state < 2 ∧
    (2 ≤ (tPwr fun x => { x with state := 3, phase := 5 }).pwr.state ∧
      (tPwr fun x => { x with state := 3, phase := 5 }).pwr.phase = 5 ∧
      (tPwr fun x => { x with state := 3, phase := 5 }).pwr.pendingReq = none) ∧ tRun.pwr.phase ≠ 5 := by decide

/-- An entry to a state under way. -/
def tEntry (target : Nat) : State := tPwr fun x => { x with target := target, phase := 1 }

theorem witness_PrepareAndCommit :
    prepareReady tRun = false ∧ prepareReady (tEntry 1) = true ∧ prepareReady (tEntry 2) = true ∧
    refuser (tEntry 2) .allAgree = none ∧ refuser (tEntry 1) .allAgree = none ∧
    refuser (tEntry 2) (.refusedBy 14) = some 14 ∧ (tEntry 3).pwr.target = 3 := by decide

/-! ### Witnesses: frames, acceptance, MGMT and DIAG -/

/-- Frames behind E, at E, at the last held position and beyond it. -/
theorem witness_UpFramesActOnTheOrderByDistance (d : DataFrame) (m : MgmtFrame) :
    ∀ p ∈ [(0xFFFFFFFF, (-1 : Int)), (0, 0), (64, 64), (65, 65)], ∃ (y : Inst) (r : State),
      (Instr.identify (tTask p.1 0x0E), Up.task (tTask p.1 0x0E)) ∈ upCommands (tTask p.1 0x0E) d m ∧
      Reaches (.task (tTask p.1 0x0E)) tRun ∧ ValidFor (.task (tTask p.1 0x0E)) tInst tRun ∧
      inst? (received (.task (tTask p.1 0x0E)) tRun) 1 = some y ∧
      allocBuf 0 0 false (received (.task (tTask p.1 0x0E)) tRun) = (some 0, r) ∧ stateRefusal y = none ∧
      y.heldUp = [] ∧ seqDiff (tTask p.1 0x0E).env.hdr.seq y.e = p.2 := by
  intro p hp
  simp only [List.mem_cons, List.not_mem_nil, or_false] at hp
  obtain rfl | rfl | rfl | rfl := hp
  all_goals exact ⟨_, _, by simp [upCommands, taskTypes], ⟨rfl, rfl, by decide, rfl⟩, ⟨rfl, rfl, rfl, rfl⟩, rfl, rfl, rfl,
    rfl, by decide⟩

/-- A half without landing buffers, and an instance that is held. -/
theorem witness_NoLandingBufferAndHeldInstance :
    (allocBuf 0 0 false { tRun with bpm := coldBpm }).1 = none ∧ (stateRefusal { tInst with held := true }).isSome = true := by
  decide

/-- A frame in landing buffer 0. -/
def tLand : Land := { at' := 0, buf := some 0 }

theorem witness_HeldFrames :
    inst? tRun 1 = some tInst ∧ ([] : List (U32 × Up × Land)).any (fun p => p.1 = 3) = false ∧
    ([(3, .task tIdentify, tLand)] : List (U32 × Up × Land)).any (fun p => p.1 = 3) = true ∧
    (tSys fun x => { x with open' := false }).sys.open' = false ∧ tInst.heldUp = [] := by
  refine ⟨rfl, by decide, by decide, rfl, rfl⟩

theorem witness_InvalidFramesAreRefused :
    Reaches (.task { tIdentify with env := tEnv 2 0 64 }) (tSys fun x => { x with open' := false }) ∧
    (inst? tRun 2).isNone = true ∧ (∃ n, upHeaderBad (.task { tIdentify with env := tEnv 1 0 65 }) = some n) ∧
    upHeaderBad (.task { tIdentify with env := tEnv 2 0 64 }) = none ∧
    sourceOk 1 tInst 0 { tEnv 1 0 64 with src := { tSrc with mac := 8 } } = false ∧
    (linkUp tRun 0 = true ∧ outerOk tRun (tEnv 1 0 64) = true ∧ tRun.sys.transport = true ∧ inst? tRun 2 = none) :=
  ⟨⟨rfl, rfl, by decide, rfl⟩, rfl, ⟨_, rfl⟩, rfl, rfl, rfl, rfl, rfl, rfl⟩

/-- An instance that has sent five down frames of which three are acknowledged. -/
def tSent : Inst := { tInst with down := 5, ackIn := 3 }

theorem witness_AckFramesReleaseWhatTheyPass :
    inst? (tWith tSent) 1 = some tSent ∧
    (seqDiff 3 tSent.down ≤ 0 ∧ seqDiff 3 tSent.ackIn ≤ 0) ∧ (seqDiff 5 tSent.down ≤ 0 ∧ 0 < seqDiff 5 tSent.ackIn) ∧
    0 < seqDiff 6 tSent.down ∧
    (∃ f : AckFrame, linkUp tRun f.env.link.val = true ∧ tRun.sys.boot = .run ∧ tRun.pwr.state < 2 ∧
      tRun.sys.transport = true ∧ outerOk tRun f.env = true ∧ ackHeaderBad f = none ∧
      sourceOk 1 tInst 4 f.env = true ∧ f.env.hdr.flags.getLsbD 6 = true ∧ linkPaused tRun f.env.link.val = false) :=
  ⟨rfl, by decide, by decide, by decide,
    ⟨{ env := { tEnv 1 0 16 with hdr := { tHdr 1 0 16 with flags := 0x44 } }, sack := 0, gapFirst := 0, gapCount := 0
       reserved := 0 }, by decide⟩⟩

def tDown : Down :=
  { link := 0, flags := 0, inst := 1, slot := 0, seq := 0, ack := 0, block := 0, time := 0, echo := 0, incarn := 0
    body := .arp 0, trailer := none, dst := none, buf := none, out := none }

theorem witness_TransportTimersActOnTheirInstance :
    tRun.sys.transport = true ∧ inst? tRun 1 = some tInst ∧ { tInst with e := 1 }.ackOut ≠ { tInst with e := 1 }.e ∧
    tInst.ackOut = tInst.e ∧
    ({ tInst with lastLink := some 0 }.lastLink = some 0 ∧
      (amGet? { tInst with lastValid := [(0, tSrc)] }.lastValid 0).isSome = true ∧ linkUp tRun 0 = true ∧
      linkPaused tRun 0 = false ∧ tRun.sys.boot ≠ .halt) ∧
    ({ tInst with gapAt := some 0, heldUp := [(3, .task tIdentify, tLand)] }.gapAt.isSome = true ∧
      { tInst with gapAt := some 0, heldUp := [(3, .task tIdentify, tLand)] }.heldUp ≠ []) ∧ tInst.gapAt = none ∧
    (∀ n ∈ [14, 15], { tInst with unacked := [tDown], expiries := n }.unacked ≠ [] ∧
      { tInst with unacked := [tDown], expiries := n }.stalled = false) := by
  refine ⟨rfl, rfl, by decide, rfl, by decide, ⟨rfl, by simp⟩, rfl, fun n _ => ⟨by simp, rfl⟩⟩

/-- A task frame with a trailer, and a command key whose counter it passes. -/
theorem witness_AcceptanceIsOneUpdate :
    inst? tRun 1 = some tInst ∧ hasTrailer { tHdr 1 0 64 with flags := 1 } = true ∧ hasTrailer (tHdr 1 0 64) = false ∧
    (∃ k : CmdKey, { tInst with cmd := some ⟨0, 1, 0, 0, false⟩ }.cmd = some k ∧ k.gen = tTrailer.keyGen.toNat) :=
  ⟨rfl, by decide, by decide, ⟨_, rfl, by decide⟩⟩

/-- A task in a HELD slot. -/
def tHeld (op seq : Nat) : Machine.Task :=
  { op := op, seq := BitVec.ofNat 32 seq, record := BitVec.ofNat 512 op, link := 0, trailer := none, payload := 0
    acceptTime := 0, ready := 0, pos := 0, latch := .running, blocks := [], looked := false, heldBack := none
    failedFirst := 0, failedCount := 0, fillCount := 0, lost := false, poison := false, authFail := false, desc := none
    holds := [], result := 0, cause := .other, since := 0, spent := [], reply := [] }

/-- A WRITE of one block to zone 0. -/
def tWrite : TaskFrame := tTask 0 (0x02 + 1 * 2 ^ 128)

/-- An instance with data key 0 loaded and a trailer frame of it while a KEY_ROTATE is accepted. -/
def tKeyed : Inst := { tInst with keys := [(0, 1)] }
def tRotating : Inst := { tInst with cmd := some ⟨0, 1, 0, 0, false⟩, slots := [(3, .held (tHeld 0x14 0))] }
def tTagged : TaskFrame := { tIdentify with env := { tEnv 1 0 64 with hdr := { tHdr 1 0 64 with flags := 1 } } }

theorem witness_FrontTaskIsJudgedByTheRows :
    (upData tWrite.record = 1 ∧ noCount tWrite.record = false ∧ twinType (recOp tWrite.record) = true ∧
      tInst.waiting = .no) ∧
    taskRows tRun 1 tInst (tTask 0 0x10E) [] = .refuse rjBadRecord 1 ∧
    taskRows tRun 1 tRotating tTagged [] = .wait .key ∧
    (taskRows tRun 1 tInst tIdentify [] = .pass ∧ tokensShort tRun (credited tRun tInst) tIdentify.record = 0 ∧
      twinType (recOp tIdentify.record) = false ∧ upData tIdentify.record = 0) ∧
    (tokensShort tRun (credited tRun tInst) tWrite.record = 0 ∧
      0 < tokensShort tRun (credited tRun { tInst with ops := { tInst.ops with level := 0 } }) tIdentify.record) ∧
    ({ tInst with waiting := .staged }.waiting = .staged ∧ { tInst with waiting := .twin 0 }.waiting = .twin 0 ∧
      tRun.sys.open' = true) ∧
    (∃ x, frontTask { tInst with placed := [(0, .task tIdentify, tLand)] } = some x) := by
  refine ⟨by decide, by decide, by decide, by decide, by decide, by decide, ⟨_, rfl⟩⟩

/-- The line that a WRITE reads, locked by an HWT or not. -/
theorem witness_taskLines : ∃ n, taskLines 1 tWrite.record = [n] ∧
    (taskLines 1 tWrite.record).any (hwtLocked tRun) = false ∧
    (taskLines 1 tWrite.record).any (hwtLocked { tRun with jrn := { tRun.jrn with locks := [[n]] } }) = true := by
  have h : taskLines 1 tWrite.record = [mapLine 1 0] := rfl
  refine ⟨_, h, ?_⟩
  rw [h]
  simp [hwtLocked, tRun, State.reset, coldJrn]

/-- A device with a die set. -/
def tSet : DieSet :=
  { pool := 0, num := 0, dies := [0, 1, 2, 3], lent := [], draining := false, blocked := false, lostMember := false
    gc := false, rebuilds := [] }
def tPlaced : State :=
  { tRun with slt := { coldSlt with dirtyMib := 64 }
              med := { coldMed with sets := [tSet], dies := tSet.dies.map fun d => (d, freshDie referenceProfile) } }

def tData : DataFrame := { env := { tEnv 1 1 4096 with hdr := { tHdr 1 1 4096 with flags := 2 } }, data := 0, md := 0 }

/-- The rows pass a WRITE whose DATA frame has come, and the twin buffer has room for it. -/
theorem witness_twin :
    taskRows tPlaced 1 tKeyed tWrite [.data tData] = .pass ∧
    twinFits (setInst 1 (reserveTask tWrite.record (credited tPlaced tKeyed)) tPlaced)
      (reserveTask tWrite.record (credited tPlaced tKeyed)) 1 = true := by
  refine ⟨by decide, by decide⟩

theorem witness_TaskWithoutDataIsAcceptedAtOnce :
    ((0x0E, Instr.identify) ∈ taskTypes) ∧ recOp tIdentify.record = 0x0E ∧ upData tIdentify.record = 0 ∧
    noCount tIdentify.record = false ∧ twinType 0x0E = false ∧ Reaches (.task tIdentify) tRun ∧
    ValidFor (.task tIdentify) tInst tRun ∧
    ∃ y z : Inst, ∃ r t : State, inst? (received (.task tIdentify) tRun) 1 = some y ∧
      allocBuf 0 0 false (received (.task tIdentify) tRun) = (some 0, r) ∧ stateRefusal y = none ∧
      tIdentify.env.hdr.seq = y.e ∧ y.placed = [] ∧ y.heldUp = [] ∧ y.waiting = .no ∧ r.sys.open' = true ∧
      z = { y with placed := [(0, .task tIdentify, tLand)], e := y.e + 1, echo := 0, gapAt := none } ∧
      t = setInst 1 z r ∧ taskRows t 1 z tIdentify [] = .pass ∧ tokensShort t (credited t z) tIdentify.record = 0 := by
  refine ⟨by simp [taskTypes], by decide, by decide, by decide, by decide, ⟨rfl, rfl, by decide, rfl⟩, ⟨rfl, rfl, rfl, rfl⟩,
    _, _, _, _, rfl, rfl, rfl, rfl, rfl, rfl, rfl, rfl, rfl, rfl, by decide, by decide⟩

/-- A MGMT request of the manager with its tag, under the command key 1. -/
def tMgmt (tag : BitVec 128) : MgmtFrame :=
  { env := { tEnv 0 0 8 with hdr := { tHdr 0 0 8 with flags := 1 } }, op := 1, count := 1, reserved := 0, addr := 0
    data := [], trailer := { tTrailer with counter := 1, tag := tag } }

/-- The manager's instance with its command key. -/
def tManager : Inst := { tInst with cmd := some ⟨0, 1, 0, 0, false⟩ }

theorem witness_MgmtRequestsAccessInAscendingOrder :
    (0xFFFFFF80 + 4 * 32 ≤ 2 ^ 32) ∧ ∃ tag, upHeaderBad (.mgmt (tMgmt tag)) = none ∧
      mgmtRows tRun 0 tManager (tMgmt tag) = .pass := by
  refine ⟨by decide, ?_⟩
  obtain ⟨g, hg⟩ : ∃ g, g = tagOf 1 (tagInput 1 (0#8).toNat 0 (1#64).toNat
      (upTagHeader 7 { tHdr 0 0 8 with flags := 1 }) (mgmtBody (1#8).toNat (1#8).toNat (0#16).toNat 0 []) []) := ⟨_, rfl⟩
  refine ⟨g, ?_, ?_⟩
  · simp [upHeaderBad, headerBad, tMgmt, tHdr, tEnv, upLenOk, upType, upEnv, flagsOk, flagsAllowed]
    decide
  have h : tagOk ⟨0, 1, 0, 0, false⟩ 0 (.mgmt (tMgmt g)) { tTrailer with counter := 1, tag := g } [] = true :=
    decide_eq_true hg
  clear hg
  simp [mgmtRows, mgmtBad, row, tEnv, authRows, Rows.andThen, tMgmt, upTrailer, hasTrailer, tHdr, tManager, rotating,
    acceptKey, keyGen?, tInst, freshInst, tTrailer] at h ⊢
  exact h

def tDiag (op len : Nat) : DiagFrame :=
  { env := { tEnv 0 0 len with hdr := { tHdr 0 0 len with flags := 4 } }, op := BitVec.ofNat 8 op, result := 0
    reserved := 0, reqId := 0, arg := 0, release := none }

theorem witness_DiagRequestsAreAnswered :
    ((1, Instr.diagIdentify) ∈ diagTypes ∧ (6, Instr.releaseBinding) ∈ diagTypes ∧ (8, Instr.linkStatus) ∈ diagTypes) ∧
    ((tDiag 1 16).op.toNat = 1 ∧ (tSys fun x => { x with boot := .lodestone }).sys.boot = .lodestone ∧ tRun.pwr.state < 2 ∧
      linkUp tRun (tDiag 1 16).env.link.val = true ∧
      lodestoneTakes (tSys fun x => { x with boot := .lodestone }) (tDiag 1 16) = false ∧
      lodestoneTakes (tSys fun x => { x with boot := .lodestone, macBase := 2 }) (tDiag 1 16) = true) ∧
    (nthNat (tSys fun x => { x with diagQueue := [15, 0] }).sys.diagQueue 0 < 16 ∧
      16 ≤ nthNat (tSys fun x => { x with diagQueue := [16, 0] }).sys.diagQueue 0) ∧
    (diagHeaderBad (tDiag 1 15) = some 0x10 ∧ diagHeaderBad (tDiag 1 16) = none ∧ diagHeaderBad (tDiag 6 16) = none ∧
      diagHeaderBad (tDiag 8 16) = none) ∧
    (outerOk tRun (tDiag 1 16).env = true ∧ linkPaused tRun 0 = false ∧ inst? tRun 0 = some tInst ∧
      tInst.params.sources.any (sourceMatch tSrc) = true ∧
      tInst.params.sources.any (sourceMatch { tSrc with mac := 8 }) = false) :=
  ⟨⟨by simp [diagTypes], by simp [diagTypes], by simp [diagTypes]⟩, by decide, by decide, by decide,
    ⟨rfl, rfl, rfl, rfl, rfl⟩⟩

theorem witness_LowWordLatchesTheHighWord :
    wide tRun 0x00300014 = some 0 ∧ domainOff tRun (blockDomain 0x00300014) = false ∧
    domainOff tRun (blockDomain 0x00300018) = false ∧ amGet? tRun.mgmt.hi 0x00300014 = none ∧
    amGet? tRun.mgmt.hi 0x00300018 = none ∧
    amGet? { tRun with mgmt := { err := false, words := [], hi := [(0x00300018, 7)] } }.mgmt.hi 0x00300018 = some 7 := by
  decide

/-- Pool 2 with three buffers in use: one held once, one held twice, one at the last count. -/
def tPool : State := modPool 2 (fun q => { q with
  head := 3, used := [(0, ⟨1, false, 1⟩), (1, ⟨2, false, 1⟩), (2, ⟨65535, false, 1⟩)] }) tRun

theorem witness_LatchingReadsAndCounterClears :
    (∃ r, { coldObs with latch := some tRec }.latch = some r) ∧
    (groupExists 0 = false ∧ groupExists 5 = true ∧ targetOk tRun 5 2 = false ∧ targetOk tRun 5 1 = true ∧
      targetOk tRun 0x0104 noInst = true) ∧
    (2 < tPool.bpm.pools.length ∧ (poolAt tPool 2).min < poolFree tPool 2 ∧ (poolAt tPool 2).head = 3 ∧
      amGet? (poolAt tPool 2).used 3 = none ∧ (amGet? (poolAt tPool 2).used 0).map (·.count) = some 1 ∧
      (amGet? (poolAt tPool 2).used 1).map (·.count) = some 2 ∧
      (amGet? (poolAt tPool 2).used 2).map (·.count) = some 65535) ∧
    (12 < tPool.bpm.pools.length ∧ poolFree tPool 12 ≤ 0) := ⟨⟨_, rfl⟩, by decide, by decide, by decide⟩

/-! ### Witnesses: tasks, zones, transactions and keys -/

theorem witness_TaskCostsFollowTheTable : ∀ op ∈ [0x01, 0x02, 0x03, 0x04, 0x05, 0x06, 0x07, 0x08, 0x09, 0x0A, 0x0B, 0x0C, 0x0D,
    0x0E, 0x0F, 0x10, 0x11, 0x12, 0x13, 0x14], recOp (BitVec.ofNat 512 op) = op := by decide

theorem witness_CriticalTypesNeedATrailerAndFlushAZone :
    (recOp (tTask 0 0x07).record ∈ [0x06, 0x07, 0x0A, 0x10, 0x12, 0x13, 0x14] ∧ hasTrailer (tTask 0 0x07).env.hdr = false ∧
      dataOk (tTask 0 0x07) 0 0 [] = true ∧ recordBad tInst (tTask 0 0x07) = none ∧
      tInst.params.typeMask.testBit 0x07 = true ∧ (tTask 0 0x07).env.hdr.slot.toNat < slotsNow tRun 1 tInst) ∧
    (∀ z ∈ [3, 4, 0xFFFFFFFF], recOp (BitVec.ofNat 512 (0x0D + z * 2 ^ 64)) = 0x0D ∧
      recZoneIdx (BitVec.ofNat 512 (0x0D + z * 2 ^ 64)) = z) ∧ tInst.params.zoneCount = 4 := by decide

theorem witness_TokenBucketsBalance : bucketEq tInst.ops ∧ 64 ≤ tInst.ops.level ∧
    bucketEq { tInst.ops with level := 60, reserved := 4 } ∧ 4 ≤ { tInst.ops with level := 60, reserved := 4 }.reserved :=
  ⟨rfl, by decide, rfl, by decide⟩

/-- An instance with one HELD task in slot 0. -/
def tBusy (t : Machine.Task) : Inst := { tInst with slots := [(0, .held t)] }

theorem witness_CompletionTakesTheNextNumber :
    slotOf (tBusy (tHeld 1 0)) 0 = some (.held (tHeld 1 0)) ∧ isLate tRun (tHeld 1 0) = false ∧
    isLate { tRun with quartz := 1001 } { tHeld 1 0 with record := BitVec.ofNat 512 (1 + 1 * 2 ^ 16) } = true ∧
    inst? (tWith (tBusy (tHeld 1 0))) 1 = some (tBusy (tHeld 1 0)) :=
  ⟨rfl, by decide, by decide, rfl⟩

theorem witness_ZoneOperationsMoveTheZone :
    inst? tRun 1 = some tInst ∧ (zoneOf tInst 0).state = .empty ∧ (zoneOf tInst 0).wp = 0 ∧
    (∀ st ∈ [ZState.explicitOpen, .closed, .full], ∃ zn : Zone, zn.state = st ∧ zn.state ≠ .empty ∧ zn.wp ≠ 0 ∧
      zn.gen ≠ 2 ^ 42 - 1) ∧
    (∃ zn : Zone, zn.state = .closed ∧ zn.gen = 2 ^ 42 - 1 ∧ zn.genExhausted = false ∧ zn.txn = none) := by
  refine ⟨rfl, rfl, rfl, fun st h => ⟨{ freshZone with state := st, wp := 1 }, rfl, ?_, by simp, ?_⟩,
    ⟨{ freshZone with state := .closed, gen := 2 ^ 42 - 1 }, rfl, rfl, rfl, rfl⟩⟩
  · rintro (e : st = .empty)
    subst e
    revert h
    decide
  · show freshZone.gen ≠ _
    decide

theorem witness_WritesAdvanceTheWritePointer :
    inst? tRun 1 = some tInst ∧ ([tData])[0]? = some tData ∧ tInst.params.zoneCap ≤ (zoneOf tInst 0).wp + 48 ∧
    ¬ tInst.params.zoneCap ≤ (zoneOf tInst 0).wp + [tData].length := ⟨rfl, rfl, by decide, by decide⟩

def tBox : Sealed := { c := 0, mc := 0, tag := 0, key := 0, dm := 0 }

def tStored : Stored :=
  { box := tBox, hint := 0, pos := 0, twin := some (0, 0), place := none, onFlash := false, slcPage := false, native := none
    desc := none, harm := .whole }

/-- An instance with one block written to its conventional area. -/
def tBlock (b : Stored) : Inst := { tInst with conv := [(0, b)] }
def tKey : BlkKey := { inst := 1, conv := true, zone := 0, offset := 0 }

/-- A READ of one block of the conventional area that is at its lane. -/
def tReading : State :=
  tWith (tBusy { tHeld 1 0 with
    looked := true
    blocks := [{ stage := .lane, box := some tBox, nonce := 0, harm := .whole, data := 0, md := 0, twin := none, ref := false
                 out := none, place := none, need := 0 }] })

theorem witness_ReadsReturnWhatStands :
    (∀ b : Stored, stored? (tWith (tBlock b)) tKey = some b) ∧ stored? tRun tKey = none ∧
    ({ tStored with desc := some 1 }.desc.isSome = true ∧ tStored.desc = none ∧ tStored.harm = .whole ∧
      { tStored with harm := .poison }.harm ≠ .whole ∧ { tStored with onFlash := true }.onFlash = true ∧
      { tKey with conv := false }.conv = false) ∧
    (∃ x t b, inst? tReading 1 = some x ∧ heldTask tReading 1 0 = some t ∧ t.blocks[0]? = some b ∧ b.stage = .lane ∧
      b.box = some tBox ∧ t.looked = true ∧ t.holds = [] ∧ t.op = 0x01 ∧ t.heldBack = none ∧ openBlocks t = 1) :=
  ⟨fun _ => rfl, rfl, by decide, ⟨_, _, _, rfl, rfl, rfl, rfl, rfl, rfl, rfl, rfl, rfl, rfl⟩⟩

theorem leBytes_length (w x : Nat) : (leBytes w x).length = w := by
  induction w generalizing x with
  | zero => rfl
  | succ w ih => simp [leBytes, ih]

theorem ofLeBytes_lt (l : List Byte) : ofLeBytes l < 256 ^ l.length := by
  induction l with
  | nil => simp [ofLeBytes]
  | cons b l ih =>
    have h := b.isLt
    simp only [ofLeBytes, List.length_cons, Nat.pow_succ]
    omega

theorem gcmTag_lt (key nonce p : List Byte) : ofLeBytes (gcmSeal key nonce p).2 < 2 ^ 128 := by
  refine Nat.lt_of_lt_of_eq (ofLeBytes_lt _) ?_
  simp only [gcmSeal, beBytes, List.length_reverse, leBytes_length]
  norm_num

/-- A ciphertext whose tag is the one of its plaintext opens under its key and nonce (R178, R310). -/
theorem openData_of_tag (w : Bool) (k : BitVec 256) (n : BitVec 96) (b : Sealed) (p : List Byte)
    (e : p = gcmCtr (aesKeys (bytesOf 32 k)) (nonceBytes n)
      ((bytesOf 4096 b.c ++ if w then bytesOf 64 b.mc else []).length / 16 + 1) 2
      (bytesOf 4096 b.c ++ if w then bytesOf 64 b.mc else []))
    (h : b.tag = BitVec.ofNat 128 (ofLeBytes (gcmSeal (bytesOf 32 k) (nonceBytes n) p).2)) :
    (openData w k n b).isSome = true := by
  have f : ofLeBytes (gcmSeal (bytesOf 32 k) (nonceBytes n) p).2 = b.tag.toNat := by
    rw [h, BitVec.toNat_ofNat, Nat.mod_eq_of_lt (gcmTag_lt ..)]
  unfold openData
  simp only [← e]
  rw [if_pos f]
  rfl

theorem witness_openData (w : Bool) (k : BitVec 256) (n : BitVec 96) (b : Sealed) :
    ∃ tag, (openData w k n { b with tag := tag }).isSome = true := by
  obtain ⟨p, e⟩ : ∃ p, p = gcmCtr (aesKeys (bytesOf 32 k)) (nonceBytes n)
      ((bytesOf 4096 b.c ++ if w then bytesOf 64 b.mc else []).length / 16 + 1) 2
      (bytesOf 4096 b.c ++ if w then bytesOf 64 b.mc else []) := ⟨_, rfl⟩
  exact ⟨BitVec.ofNat 128 (ofLeBytes (gcmSeal (bytesOf 32 k) (nonceBytes n) p).2),
    openData_of_tag w k n { b with tag := _ } p e rfl⟩

def tMsg : Msg := { sender := 0, bytes := [], num := 0, harm := .whole }

theorem witness_AbortMailboxAndKeyErase :
    slotOf tInst 0 = none ∧ slotOf (tBusy (tHeld 1 5)) 0 = some (.held (tHeld 1 5)) ∧
    (opAbortable 0x01 = true ∧ opAbortable 0x0C = false ∧ (tHeld 1 5).latch = .running ∧
      { tHeld 1 5 with latch := .caught }.latch ≠ .running) ∧
    (∃ c d r t, slotOf { tInst with slots := [(0, .done ⟨0, 1, false, 5, 0, 0, 0⟩ 0 none (tHeld 1 5))] } 0 =
      some (.done c d r t)) ∧
    (heldTask (tWith (tBusy (tHeld 0x10 0))) 1 0 = some (tHeld 0x10 0) ∧ (tHeld 0x10 0).holds = [] ∧ (tHeld 0x11 0).op = 0x11 ∧
      recField (tHeld 0x10 0).record 0x08 2 = 0 ∧
      inst? (tWith (tBusy (tHeld 0x10 0))) 0 = some tInst ∧ inService tInst = true ∧
      inService { tInst with held := true } = false ∧ tInst.mbox.length < tInst.params.mboxDepth ∧
      tInst.params.mboxDepth ≤ { tInst with mbox := [tMsg, tMsg] }.mbox.length) ∧
    (tInst.mbox = [] ∧ { tInst with mbox := [tMsg] }.mbox = tMsg :: []) ∧
    recField (BitVec.ofNat 512 (0x10 + 9 * 2 ^ 64)) 0x08 2 = 9 ∧ inst? tRun 9 = none :=
  ⟨rfl, rfl, by decide, ⟨_, _, _, _, rfl⟩, ⟨rfl, rfl, rfl, by decide, rfl, rfl, rfl, by decide, by decide⟩, ⟨rfl, rfl⟩,
    by decide, rfl⟩

def tDesc (st : TxnState) : Desc :=
  { inst := 1, txnId := 7, state := st, members := [], timeoutMs := 1000, began := 0, firstJseq := 0, slot := 0, counter := 0
    closePos := 0, undo := [] }

/-- A journal page in flight that ends the groups of some descriptors. -/
def tPage (descs : List Nat) : JPage := { descs := descs, rides := [], bufs := [] }

/-- A device with one transaction descriptor, and pages in flight. -/
def tTxn (st : TxnState) (pages : List JPage) (locks : List (List Nat)) : State :=
  { tRun with jrn := { tRun.jrn with descs := [(0, tDesc st)], pages := pages, locks := locks } }

theorem witness_TransactionsOpenAndTimeOut :
    inst? (tTxn .opened [] []) 1 = some tInst ∧ inst? (wastePending 0 1 (tTxn .opened [] [])) 1 = some tInst ∧
    (∃ zn : Zone, amGet? { tInst with zones := [(0, { freshZone with txn := some 0 })] }.zones 0 = some zn ∧ zn.txn = some 0) ∧
    tRun.jrn.descs.find? (fun p => p.2.inst = 1 && p.2.txnId = 7 && p.2.state = .opened) = none ∧
    (tTxn .opened [] []).jrn.descs.find? (fun p => p.2.inst = 1 && p.2.txnId = 7 && p.2.state = .opened) =
      some (0, tDesc .opened) ∧ amGet? (tTxn .opened [] []).jrn.descs 0 = some (tDesc .opened) :=
  ⟨rfl, rfl, ⟨_, rfl, rfl⟩, rfl, rfl, rfl⟩

theorem witness_JournalPagesTakeEffectInOrder :
    tRun.jrn.pages = [] ∧ (tTxn .committing [tPage [0], tPage [1]] []).jrn.pages = tPage [0] :: [tPage [1]] ∧
    ((tPage [0]).descs = [0] ∧ amGet? (tTxn .aborting [] []).jrn.descs 0 = some (tDesc .aborting) ∧
      (tDesc .aborting).state ≠ .committing ∧ (tDesc .aborting).undo = []) ∧
    ((tDesc .committing).state = .committing ∧
      (txnLines (tDesc .committing)).any (hwtLocked (tTxn .committing [] [])) = false ∧
      heldTask (tWith (tBusy { tHeld 0x0A 0 with desc := some 0 })) (tDesc .committing).inst (tDesc .committing).slot =
        some { tHeld 0x0A 0 with desc := some 0 }) ∧
    (∃ d : Desc, d.state = .committing ∧ txnLines d ≠ [] ∧ 0 ∉ tRun.jrn.waitingApply ∧
      (txnLines d).any (hwtLocked (tTxn .committing [] [txnLines d])) = true) ∧
    (tRun.mch.waiting = [] ∧ tRun.jrn.waitingApply = [] ∧ tRun.jrn.waitingHwt = [] ∧ tRun.jrn.waitingPoison = [] ∧
      tRun.jrn.waitingReads = [] ∧ ¬(tRun.slt.state = 4 ∧ tRun.slt.step = 7)) := by
  have h : mapLine 1 0 ∈ txnLines { tDesc .committing with members := [⟨2, 1, 0, 0, 0, 0⟩] } :=
    List.mem_eraseDups.mpr (List.mem_map_of_mem (by decide))
  exact ⟨rfl, rfl, ⟨rfl, rfl, by decide, rfl⟩, ⟨rfl, rfl, rfl⟩,
    ⟨{ tDesc .committing with members := [⟨2, 1, 0, 0, 0, 0⟩] }, rfl, List.ne_nil_of_mem h, by decide,
      List.any_eq_true.mpr ⟨_, h, List.any_eq_true.mpr ⟨_, List.mem_singleton.mpr rfl, List.contains_iff_mem.mpr h⟩⟩⟩,
    by decide⟩

theorem witness_UnwrappedKeysTakeTheirSlot :
    inst? tRun 1 = some tInst ∧ keyTask tInst = none ∧
    (∀ op ∈ [0x12, 0x14], keyTask (tBusy (tHeld op 0)) = some (0, tHeld op 0) ∧
      slotOf (tBusy (tHeld op 0)) 0 = some (.held (tHeld op 0))) ∧
    unwrapUnder none 1 0 1 0 (List.replicate 41 0) = .malformed ∧ unwrapUnder none 1 0 1 0 (List.replicate 40 0) = .failed ∧
    (([0, 1] : List Byte).any (· != 0) = true ∧ ([0, 0] : List Byte).any (· != 0) = false) :=
  ⟨rfl, rfl, fun op h => by simp at h; rcases h with rfl | rfl <;> exact ⟨rfl, rfl⟩, rfl, rfl, by decide⟩

theorem witness_ViolationsAndMissWindows :
    inst? tRun 1 = some tInst ∧ tInst.viol = 0 ∧
    ({ tInst with viol := 2 }.viol ≠ 0 ∧ tRun.quartz < { tInst with viol := 2 }.violWindow + tInst.params.violWindowUs * 1000 ∧
      0 < tInst.params.violLimit) ∧
    (bits (0x9E1A0001#32).toNat 16 16 = 0x9E1A ∧ (0x9E1A0001#32).getLsbD 0 = true ∧
      { tInst with quarantined := true }.quarantined = true ∧ bits (0x9E1B0001#32).toNat 16 16 ≠ 0x9E1A) ∧
    (tInst.unacked.length < 1024 ∧ { tInst with lastLink := some 0 }.lastLink = some 0 ∧
      (amGet? { tInst with lastValid := [(0, tSrc)] }.lastValid 0).isSome = true ∧ linkUp tRun 0 = true ∧
      linkPaused tRun 0 = false ∧ tRun.sys.boot ≠ .halt) ∧
    inst? tRun 2 = none :=
  ⟨rfl, rfl, by decide, by decide, by decide, rfl⟩

/-! ### Witnesses: flash, DRAM and the map cache -/

/-- A device with die 0 in some state. -/
def tDie (f : Die → Die) : State := { tRun with med := { coldMed with dies := [(0, f (freshDie referenceProfile))] } }

def tReq : ReadReq := 
  { inst := 1, slot := 0, blk := 0, due := none, order := 0, at' := 0, recon := false, last := false, plane := 2, job := none }

/-- A READ of one block at place (0, 0) waits in die 0's queue of plane 2. -/
def tQueued : State :=
  { tWith (tBusy { tHeld 1 0 with
      blocks := [{ stage := .array 0, box := some tBox, nonce := 0, harm := .whole, data := 0, md := 0, twin := none
                   ref := false, out := none, place := some (0, 0), need := 0 }] }) with
    med := { coldMed with dies := [(0, { freshDie referenceProfile with reads := [tReq] })] } }

/-- A program of two members under way. -/
def tProg : Prog :=
  { kind := .host, sb := 0, items := [], left := [0, 1], first := 0, groups := 1, redo := [], failed := [], sources := []
    toRead := [], needs := [], bufs := [], bundle := none }

theorem witness_queuedRead : ∃ x t b, die? tQueued 0 = some x ∧ x.reads = [tReq] ∧ tReq.job = none ∧ tReq.recon = false ∧
    servesReads x = true ∧ readTask tQueued tReq = some t ∧ t.blocks[0]? = some b ∧ b.place = some (0, 0) :=
  ⟨_, _, _, rfl, rfl, rfl, rfl, rfl, rfl, rfl, rfl⟩

theorem witness_program : amGet? { coldMed with progs := [(3, tProg)] }.progs 3 = some tProg ∧ tProg.redo = [] ∧
    2 ≤ tProg.left.length := by decide

theorem witness_DieOperationsEndOrAreEnded :
    (∃ x, die? (tDie fun x => { x with reads := [tReq] }) 0 = some x ∧ x.reads.find? (fun q => q.plane = 2) = some tReq ∧
      x.reads.find? (fun q => q.plane = 1) = none ∧ servesReads x = true) ∧
    (∃ x, die? (tDie id) 0 = some x ∧ x.reads = [] ∧ x.op = .idle ∧ x.nested = none ∧ x.phase ≠ .resetting) ∧
    (∃ x, die? (tDie fun x => { x with op := .program 3 }) 0 = some x ∧ x.op = .program 3 ∧ x.nested = none ∧
      x.phase = .running ∧ x.lost = false ∧ x.reads = [] ∧ x.waitProgs = [] ∧ x.eraseQ = [] ∧ x.op ≠ .idle ∧
      ∀ t, x.lastLimit = some t → t + 1000000000 < tRun.quartz) ∧
    (∃ x, die? (tDie fun x => { x with op := .erase 5 }) 0 = some x ∧ x.op = .erase 5 ∧ x.phase = .running) ∧
    (injected tRun 0 2 = false ∧ injected tRun 0 3 = false ∧ injected tRun 0 4 = false) ∧
    (∃ x, die? (tDie fun x => { x with op := .erase 5, lastLimit := some 0 }) 0 = some x ∧ x.lastLimit = some 0 ∧
      tRun.quartz ≤ 0 + 1000000000) ∧
    (∃ x, die? (tDie fun x => { x with op := .erase 5, phase := .resetting }) 0 = some x ∧ x.phase = .resetting) ∧
    (∃ x, die? (tDie fun x => { x with op := .erase 5, phase := .suspending }) 0 = some x ∧ x.phase = .suspending ∧
      x.reads = []) ∧
    (∃ x, die? (tDie fun x => { x with op := .erase 5, phase := .suspended }) 0 = some x ∧ x.phase = .suspended ∧
      resumeFits { tRun with med := { coldMed with eraseCap := 1 } } x = true) ∧
    (∃ x, die? (tDie fun x => { x with op := .erase 5, phase := .suspending
                                       reads := [{ tReq with due := some 9 }] }) 0 = some x ∧
      x.reads.any (fun r => r.due.isSome) = true) := by
  refine ⟨⟨_, rfl, rfl, rfl, rfl⟩, ⟨_, rfl, rfl, rfl, rfl, nofun⟩,
    ⟨_, rfl, rfl, rfl, rfl, rfl, rfl, rfl, rfl, nofun, nofun⟩, ⟨_, rfl, rfl, rfl⟩,
    by decide, ⟨_, rfl, rfl, by decide⟩, ⟨_, rfl, rfl⟩, ⟨_, rfl, rfl, rfl⟩, ⟨_, rfl, rfl, rfl⟩, ⟨_, rfl, rfl⟩⟩

/-- Die 0 with a superblock on its block 5, whose read-level index is 15. -/
def tLevel : State :=
  { tRun with med := { coldMed with
    dies := [(0, { freshDie referenceProfile with levels := [(5, 15)] })]
    sbs := [(0, { inst := 1, set := 0, slc := true, cls := 0, stream := 0, conv := false, members := [(0, 5)],
                  rebuilding := [], used := 0, issued := 0, closed := false, full := false, staging := false
                  readers := [] })] } }

/-- Stage 3 reads at the next entry, modulo RETRY_STEPS = 16: after 15 comes 0; stage 2 leaves the index (R248). -/
theorem witness_SoftStagesMoveTheReadLevel :
    (∃ x, die? tLevel 0 = some x ∧ amGetD x.levels 5 0 = 15) ∧ blockAt tLevel 0 (0, 0) = some 5 ∧
    (die? (readLevels 0 (0, 0) 3 true tLevel) 0).map (fun x => (amGetD x.levels 5 0, x.entry)) = some (0, some 0) ∧
    (die? (readLevels 0 (0, 0) 4 true tLevel) 0).map (fun x => (amGetD x.levels 5 0, x.entry)) = some (1, some 1) ∧
    (die? (readLevels 0 (0, 0) 2 true tLevel) 0).map (fun x => (amGetD x.levels 5 0, x.entry)) = some (15, some 15) :=
  ⟨⟨_, rfl, rfl⟩, rfl, rfl, rfl, rfl⟩

theorem witness_EraseKeepsTheBlockCountsAndBackgroundWork :
    (∃ x, die? (tDie id) 0 = some x ∧ dieEq 4096 x ∧ 0 < x.free ∧ 0 < x.spare) ∧
    (∃ x, die? (tDie fun x => { x with free := x.free + x.spare, spare := 0 }) 0 = some x ∧ dieEq 4096 x ∧ 0 < x.free ∧
      x.spare = 0) ∧
    (patrolKey 1 true 0 = tKey ∧ stored? tRun tKey = none ∧
      stored? (tWith (tBlock { tStored with onFlash := true })) tKey = some { tStored with onFlash := true } ∧
      { tStored with onFlash := true }.harm = .whole ∧ 0 ≤ refreshBits tRun 1 ∧ hwtLocked tRun (keyLine tKey) = false) ∧
    ((zoneOf tInst 0).sb = none ∧ (0#32).toNat ≠ 0xFFFFFFFF) ∧
    tRun.med.rebuild.contains 0 = false ∧ { coldMed with rebuild := [0] }.rebuild.contains 0 = true ∧
    0 ∉ coldMed.beyondRepair :=
  ⟨⟨_, rfl, rfl, by decide, by decide⟩, ⟨_, rfl, rfl, by decide, rfl⟩, ⟨rfl, rfl, rfl, rfl, by decide, rfl⟩, by decide, rfl, rfl,
    by decide⟩

/-- Zone 0 of instance 1 fills an SLC superblock: one block of its first group stands in the twin buffer. -/
def tFilling : State :=
  { tWith { tInst with zones := [(0, { freshZone with
      state := .implicitOpen, wp := 1, sb := some 0, blocks := [(0, { tStored with place := some (0, 0) })] })] } with
    med := { coldMed with sbs := [(0, tFill)] } }
where
  /-- A superblock of four members with one data block. -/
  tFill : Superblock :=
    { inst := 1, set := 0, slc := true, cls := 0, stream := 0, conv := false, members := [(0, 8), (1, 8), (2, 8), (3, 8)]
      rebuilding := [], used := 1, issued := 0, closed := false, full := false, staging := false, readers := [] }

theorem witness_stagingExtent : ∃ x n b g, inst? tFilling 1 = some x ∧ (zoneOf x 0).sb = some n ∧
    extentFree (zoneOf x 0) = true ∧ sb? tFilling n = some b ∧ b.closed = false ∧ b.slc = true ∧
    g = groupBlocks tFilling.img.profile b.members.length true ∧ 0 < g ∧ b.used % g ≠ 0 ∧
    b.issued * g < b.used / g * g + g ∧ b.used / g * g + g < sbBlocks tFilling.img.profile b.members.length true ∧
    groupAsked tFilling (fun _ => true) n b = true :=
  ⟨_, _, _, _, rfl, rfl, rfl, rfl, rfl, rfl, rfl, by decide, by decide, by decide, by decide, rfl⟩

theorem witness_ChannelTrainingAndInjections :
    tRun.nfc.length = 64 ∧ (nfcOf tRun 0).lost = false ∧ (nfcOf tRun 0).fenced = false ∧
    ((channelTemp tRun 0 - { coldNfc with trainTemp := 39 }.trainTemp).natAbs < 40 ∧
      40 ≤ (channelTemp tRun 0 - { coldNfc with trainTemp := 40 }.trainTemp).natAbs) ∧
    (tRun.med.testen = false ∧ 5 < rateNow tRun { coldNfc with rate := 6 } ∧ rateNow tRun { coldNfc with rate := 5 } ≤ 5) ∧
    ((0#32).getLsbD 1 = false ∧ (2#32).getLsbD 1 = true) ∧
    (∀ m ∈ [1, 2, 3, 4, 5], bits (BitVec.ofNat 32 m).toNat 0 3 = m ∧ bits (BitVec.ofNat 32 m).toNat 0 3 ≠ 0) ∧
    { coldMed with testen := true }.testen = true := by decide

/-- A device with a change of DMC. -/
def tDmc (f : Dmc → Dmc) : State := { tRun with dmc := f tRun.dmc }

/-- Lowest and highest word address of the test window. -/
theorem witness_DramEventsAndTestMode :
    tRun.dmc.chs.length = 24 ∧ mayPostpone tRun = false ∧
    (mayPostpone (tDmc fun x => { x with testen := true }) = true ∧ (dmcCh tRun 0).debt < 8) ∧
    (8 ≤ { coldDmcCh with debt := 8 }.debt) ∧
    (tRun.dmc.drift < 65 ∧ 64 ≤ tRun.dmc.drift ∧ (dmcCh tRun 0).state ≠ 4 ∧ (dmcCh tRun 0).state ≠ 5) ∧ tRun.dmc.testen = false ∧
    tRun.dmc.rebuilding.contains 3 = false ∧ (tDmc fun x => { x with rebuilding := [3] }).dmc.rebuilding.contains 3 = true ∧
    ((dmcCh tRun (groupChannel 0 (groupOf 0))).recentUe = [] ∧ inCopies (dramRegion 0) = true ∧ dramBad tRun 1 0 64 = false ∧
      dramBad (tDmc fun x => { x with bad := [(1, 0)] }) 1 0 64 = true ∧
      inCopies (dramRegion (36 * 2 ^ 30)) = false ∧ inWindow (36 * 2 ^ 30) = false) ∧
    (bits (4#32).toNat 0 2 = 0 ∧ bits (1#32).toNat 0 2 = 1 ∧ bits (2#32).toNat 0 2 = 2 ∧ bits (3#32).toNat 0 2 = 3) ∧
    ((tDmc fun x => { x with testen := true, taddr := 42947575808 }).dmc.testen = true ∧
      inWindow (tDmc fun x => { x with taddr := 42947575808 }).dmc.taddr = true ∧
      inWindow (40 * 2 ^ 30 - 64) = true ∧ inWindow (40 * 2 ^ 30) = false ∧ inWindow (40 * 2 ^ 30 - 2 * 2 ^ 20 - 64) = false) := by
  decide

/-- A device with a change of MCH, the cache enabled. -/
def tMch (f : Mch → Mch) : State := { tRun with mch := f { coldMch with enable := true, invDone := true } }

def tLine : Line := { part := 0, way := 3, dirty := true, poison := 0 }

theorem witness_MapCacheLinesAndMaintenance :
    ((2#32).getLsbD 1 = true ∧ (1#32).getLsbD 1 = false ∧ (1#32).getLsbD 0 = true ∧ tRun.mch.invDone = false ∧
      (tMch id).mch.invDone = true) ∧
    ((tMch fun x => { x with fills := [(128, true)] }).mch.fills.any (fun f => f.1 = 128 && f.2) = true ∧
      (tMch fun x => { x with fills := [(128, false)] }).mch.fills.any (fun f => f.1 = 128 && f.2) = false) ∧
    (tRun.mch.enable = false ∧ (nthNat (tMch id).mch.ways 0).testBit 10 = false ∧
      (tMch fun x => { x with locked := 8 }).mch.locked.testBit 3 = true) ∧
    ((tMch id).mch.enable = true ∧ (nthNat (tMch id).mch.ways 0).testBit 9 = true ∧ (tMch id).mch.locked.testBit 9 = false ∧
      occupant (tMch id) (setIdx 128) 9 = none) ∧
    ((tMch fun x => { x with evict := [[(128, true)], [], [], []] }).mch.evict[0]? = some [(128, true)]) ∧
    (occupant (tMch fun x => { x with lines := [(128, tLine)] }) (setIdx (128 + 128 * 32768)) 3 = some (128, tLine) ∧
      hwtLocked { tMch (fun x => { x with lines := [(128, tLine)] }) with
        jrn := { tRun.jrn with locks := [[128]] } } 128 = true) ∧
    (bits (0x06#32).toNat 0 2 ≠ 0 ∧ (0x06#32).getLsbD 2 = true ∧ bits (0x04#32).toNat 0 2 = 0 ∧ (0x02#32).getLsbD 2 = false) ∧
    hwtLocked tRun 0 = false ∧ lineOf (tMch fun x => { x with lines := [(0, tLine)] }) 0 = some tLine ∧
    (8 ≤ popCount 16 0xFF ∧ popCount 16 0x7F < 8 ∧ (0xFF).testBit 9 = false ∧ (0x7F).testBit 9 = false) ∧
    (∀ m ∈ (tMch id).mch.ways, 2 ≤ usableWays (tMch fun x => { x with locked := setBit 0 9 true }) m) := by decide

/-! ### Witnesses: trust, code flash, Slate -/

/-- A device with a change of KEC. -/
def tKec (f : Kec → Kec) : State := { tRun with kec := f tRun.kec }

theorem witness_TrustCommands :
    (tKec fun x => { x with trngFailed := true }).kec.trngFailed = true ∧ tRun.kec.trngFailed = false ∧
    inst? tRun 1 = some tInst ∧
    (bits (0x4B590001#32).toNat 16 16 = 0x4B59 ∧ bits (0x4B590002#32).toNat 0 2 = 2 ∧ bits (0x4B580001#32).toNat 16 16 ≠ 0x4B59) ∧
    ((tKec fun x => { x with testen := true }).kec.testen = true ∧ slotAssigned tRun 5 = true ∧ slotAssigned tRun 6 = false) ∧
    ((0x200#32).getLsbD 9 = true ∧ (0x100#32).getLsbD 9 = false ∧ bits (0x2BF#32).toNat 0 8 < 192 ∧
      (0x2BF#32).getLsbD 8 = false) ∧
    ((0x10000#32).getLsbD 16 = true ∧ (tKec fun x => { x with busy := true }).kec.busy = true ∧ tRun.kec.busy = false ∧
      (tKec fun x => { x with identity := true }).kec.identity = true ∧ tRun.kec.identity = false) :=
  ⟨rfl, rfl, rfl, by decide, by decide, by decide, by decide⟩

/-- A header of a sector in state ERASED, and a device whose bank 1 has one. -/
def tErased : SectorHdr := { openM := .blank, doneM := .set, usedM := .blank, activateM := .blank }
def tBank1 (f : Cfl → Cfl) : State :=
  { tRun with cfl := f { coldCfl with bank := 1, sector := 2, hdrs := [(130, tErased)] } }

theorem witness_CodeFlashCommandsAreChecked :
    (bits (0xCF1B0001#32).toNat 16 16 ≠ 0xCF1A ∧ bits (0xCF1A0000#32).toNat 0 4 = 0 ∧ 6 < bits (0xCF1A0007#32).toNat 0 4 ∧
      (tBank1 fun x => { x with busy := true }).cfl.busy = true) ∧
    (bits (0xCF1A0001#32).toNat 16 16 = 0xCF1A ∧ bits (0xCF1A0001#32).toNat 0 4 = 1 ∧ (tBank1 id).cfl.busy = false) ∧
    (cflRefusal tRun 1 (some tRun.cfl.running) 0 0 0 ≠ 0 ∧ cflRefusal tRun 2 (some tRun.cfl.running) 0 0 0 ≠ 0) ∧
    (cflRefusal (tBank1 id) 1 (some 0) 1 2 0 = 0 ∧ (cflUnit (tBank1 id) 1).op = none ∧ cflRefusal (tBank1 id) 2 (some 0) 1 2 0 = 0) ∧
    (cflRefusal (tBank1 id) 3 (some 0) 1 127 0 = 0 ∧ nextSector (tBank1 id) 1 0 = some 0) ∧
    (inXo (tBank1 id) 1 2 = false ∧ inXo (tBank1 fun x => { x with xoLock := true, xo := [(1, 2, 1)] }) 1 2 = true ∧
      (cflHdr (tBank1 id) 1 2).openM = .blank) ∧
    ((tBank1 id).cfl.bank ≠ (tBank1 id).cfl.running ∧ tRun.cfl.bank = tRun.cfl.running) ∧
    ((tBank1 id).cfl.verified.getD 1 false = false ∧
      (tBank1 fun x => { x with verified := [false, true] }).cfl.verified.getD 1 false = true) := by
  refine ⟨by decide, by decide, ⟨by decide, by decide⟩, ⟨rfl, rfl, rfl⟩, ⟨rfl, rfl⟩, by decide, by decide, by decide⟩

def tOp (kind : Nat) (mgr : Bool) : CflOp :=
  { kind := kind, mgr := mgr, bank := 1, sector := 126, granule := 255, data := 0, suspended := false, suspensions := 0
    resumedAt := 0, suspendedAt := 0, suspendedNs := 0 }

theorem witness_CodeFlashOperationsComplete :
    (∀ o : CflOp, cflUnit (tBank1 fun x => { x with unit1 := { op := some o, nested := none } }) (1 : Fin 2).val =
        { op := some o, nested := none } ∧
      (tBank1 fun x => { x with unit1 := { op := some o, nested := none } }).cfl.reads = []) ∧
    ((tOp 1 true).sector < 127 ∧ (tOp 1 true).granule < 256 ∧ (tOp 1 true).suspended = false ∧ (tOp 1 true).mgr = true ∧
      (tOp 2 false).kind = 2 ∧ { tOp 2 true with suspended := true }.suspended = true ∧ (tOp 2 true).bank = (1 : Fin 2).val ∧
      (0 : Fin 2) ≠ (1 : Fin 2)) :=
  ⟨fun _ => ⟨rfl, rfl⟩, by decide⟩

/-- A device with a change of SLT. -/
def tSlt (f : Slt → Slt) : State := { tRun with slt := f tRun.slt }

/-- A staged batch: a new dirty limit, and the deletion of instance 1. -/
def tLimit : Slt := { coldSlt with stageLen := 12, stage := [(0, 0x0004000A), (2, 64)] }
def tLimited : State := { State.reset with img := { tRun.img with dirtyMib := 64 }, slt := tLimit }
def tDelete : Slt := { coldSlt with state := 4, step := 3, stageLen := 8, stage := [(0, 2), (1, 1)] }

theorem witness_SlateStagesAppliesAndSwitches :
    ((0x0144FFFC#32).toNat = 0x01410000 + 4 * 65535 ∧ 65535 < 65536 ∧ (0x01410000#32).toNat = 0x01410000 + 4 * 0) ∧
    (stagingBusy tRun = false ∧ stagingBusy (tSlt fun x => { x with state := 4 }) = true) ∧
    (bits (0x51A70003#32).toNat 16 16 = 0x51A7 ∧ bits (0x51A80003#32).toNat 16 16 ≠ 0x51A7 ∧
      bits (0x51A70001#32).toNat 0 4 = 1 ∧ bits (0x51A70002#32).toNat 0 4 = 2 ∧ bits (0x51A70003#32).toNat 0 4 = 3) ∧
    (∃ r off, judgeBatch tRun = some (r, off)) ∧ judgeBatch tLimited = none ∧
    (hwtLocked { tRun with jrn := { tRun.jrn with locks := [[rootLine]] } } rootLine = true ∧ hwtLocked tRun rootLine = false) ∧
    (tRun.slt.state ≠ 4 ∧ tRun.slt.state ≠ 3 ∧ (tSlt fun x => { x with state := 3 }).slt.state = 3) ∧
    ((tSlt fun x => { x with state := 4, step := 3 }).slt.step = 3 ∧ drained (tSlt fun x => { x with state := 4, step := 3 }) = true ∧
      drained { tWith (tBusy (tHeld 1 0)) with slt := tDelete } = false) ∧
    ((tSlt fun x => { x with state := 4, step := 5 }).slt.step = 5 ∧ (tSlt fun x => { x with state := 4, step := 6 }).slt.step = 6) := by
  refine ⟨by decide, by decide, by decide, ⟨_, _, rfl⟩, by decide, by simp [hwtLocked, tRun, State.reset, coldJrn], by decide,
    by decide, by decide⟩

/-! ### A few results that the spec states -/

/-- R52: the device identification of stepping B0. -/
theorem test_idcode : ∃ t, exec .idcode State.reset = .next t ∧ t.tck.dr = 0x20400B47 := ⟨_, rfl, rfl⟩

/-- R3: SYS_IDENT reports STEP 0xB0. -/
theorem test_sys_ident_step : (regRead 0 State.reset).1 % 256 = 0xB0 := by rfl

/-- R53: EXTEST while RESET_N is high selects BYPASS and writes one NOTICE record. -/
theorem test_extest_in_run : ∃ t, exec .extest tRun = .next t ∧ t.tck.tap = .bypass ∧
    t.obs.fifo.map (·.severity) = [sevNotice] := ⟨_, rfl, rfl, rfl⟩

/-- R101: sequence numbers wrap. -/
theorem test_seqDiff_wraps : seqDiff 0 0xFFFFFFFF = 1 ∧ seqDiff 0xFFFFFFFF 0 = -1 := by decide

/-- R345: three misses a line apart start the prefetch of the next four lines; the fourth access, a hit in flight, does not
repeat them. -/
theorem test_prefetch_follows_three_misses :
    ((mapAccess 0 256 (mapAccess 0 128 (mapAccess 0 0 (tMch id)))).mch.fills.map Prod.fst) =
      [0, 128, 256, 384, 512, 640, 768] ∧
    ((mapAccess 0 128 (mapAccess 0 0 (tMch id))).mch.fills.map Prod.fst) = [0, 128] := by decide

/-- R345: a downward stream stops at the start of its 2 MiB region. -/
theorem test_prefetch_stops_at_the_region :
    ((mapAccess 0 2097152 (mapAccess 0 2097280 (mapAccess 0 2097408 (tMch id)))).mch.fills.map Prod.fst) =
      [2097408, 2097280, 2097152] := by decide

/-- R346: a fill of a line whose way a locked line occupies is delivered and not installed. -/
theorem test_fill_beside_a_locked_line :
    lineOf (fillComplete 0 (128 + 128 * 32768) 3 0 false { tMch (fun x => { x with lines := [(128, tLine)] }) with
      jrn := { tRun.jrn with locks := [[128]] } }) (128 + 128 * 32768) = none := by decide

/-- The table gives no row bits: no word spells a command, and the queue stays as it is. -/
theorem test_row_without_bits : decodeTableWord 32 0 = none ∧ (State.reset.withFetchWord 32 0) = State.reset := ⟨rfl, rfl⟩

end Sys2Proof.Tests
end

section
/-! SUPPORT. One rule per way a register read can go (R9, R10): a latched word, the low and the high word of a 64-bit
quantity, a register that the read leaves as it is. The addresses of 64-bit quantities and of reads that act are
disjoint, and so is the word after each. -/

namespace Sys2Proof.Proofs

open Sys2Proof Sys2Proof.Machine Sys2Proof.Laws

variable {a v : Nat} {s : State}

/-- Addresses of the low words of 64-bit quantities. -/
abbrev WideAddr (a : Nat) : Prop :=
  a ∈ [0x00000004, 0x00000020, 0x00000188, 0x00100014, 0x0030000C, 0x00300014, 0x0030001C, 0x00400010, 0x00400028,
    0x00500008, 0x00702000, 0x00702050, 0x00800028, 0x00901000, 0x00D00040, 0x00E00000, 0x01400010] ∨
  0x00C00000 ≤ a ∧ a < 0x00D00000 ∧ (a % 0x4000 = 0x008 ∨ a % 0x4000 = 0x010)

/-- Addresses whose read acts. -/
abbrev ActingAddr (a : Nat) : Prop :=
  a ∈ [0x00200000, 0x00400008, 0x00600014, 0x00A00020, 0x00A00024, 0x00B0000C, 0x00B00010, 0x00E00018, 0x00F00010,
    0x00F00014] ∨
  (0x00400100 ≤ a ∧ a < 0x00400180) ∧ a % 4 = 0 ∨
  (0x00700000 ≤ a ∧ a < 0x00701800) ∧ a % 0x100 = 4 ∨
  (0x00700000 ≤ a ∧ a < 0x00701800) ∧ a % 0x100 = 8 ∨
  (0x00900000 ≤ a ∧ a < 0x00901000) ∧ a % 0x40 = 0x0C ∨
  (0x00900000 ≤ a ∧ a < 0x00901000) ∧ a % 0x40 = 0x10 ∨
  (0x00900000 ≤ a ∧ a < 0x00901000) ∧ a % 0x40 = 0x14 ∨
  (0x00900000 ≤ a ∧ a < 0x00901000) ∧ a % 0x40 = 0x18

theorem wide_eq_none (s : State) (h : ¬ WideAddr a) : wide s a = none := by
  simp only [WideAddr, List.mem_cons, List.not_mem_nil, or_false, not_or, not_and] at h
  obtain ⟨hfixed, hnfc⟩ := h
  simp only [wide, hfixed, Bool.and_eq_true, decide_eq_true_eq, if_false]
  split
  next hr => simp only [hnfc hr.1 hr.2, if_false]
  next => rfl

theorem wideAddr_of_wide (h : wide s a = some v) : WideAddr a := by
  by_contra hn
  simp [wide_eq_none s hn] at h

theorem actingRead_eq_none (s : State) (h : ¬ ActingAddr a) : actingRead a s = none := by
  simp only [ActingAddr, List.mem_cons, List.not_mem_nil, or_false, not_or] at h
  simp only [actingRead, Bool.and_eq_true, decide_eq_true_eq, h, if_false]

/-- No read of a low word acts, nor one of the high word, and the high word is the low word of nothing. -/
theorem WideAddr.disjoint (h : WideAddr a) : ¬ ActingAddr a ∧ ¬ ActingAddr (a + 4) ∧ ¬ WideAddr (a + 4) := by
  rcases h with h | ⟨hlo, hhi, hoff⟩
  · revert a
    decide
  · simp only [ActingAddr, WideAddr, List.mem_cons, List.not_mem_nil, or_false]
    refine ⟨?_, ?_, ?_⟩
    · omega
    · omega
    · omega

theorem exec_lowWordRead (a : U32) (s : State) : exec (.lowWordRead a) s = .next (regRead a.toNat s).2 := rfl

/-- A latched word is what the next read of its address answers, and the read ends the latch. -/
theorem regRead_latched {w : U32} (hon : domainOff s (blockDomain a) = false) (hl : amGet? s.mgmt.hi a = some w) :
    regRead a s = (w.toNat, { s with mgmt := { s.mgmt with hi := amErase s.mgmt.hi a } }) := by
  simp only [regRead, hon, hl, Bool.false_eq_true, if_false]

/-- The low word of a 64-bit quantity. -/
theorem regRead_low (hon : domainOff s (blockDomain a) = false) (hl : amGet? s.mgmt.hi a = none)
    (hw : wide s a = some v) : regRead a s = (v % 2 ^ 32, latchHi (a + 4) (v / 2 ^ 32) s) := by
  have hact := actingRead_eq_none s (wideAddr_of_wide hw).disjoint.1
  simp only [regRead, hon, hl, hact, hw, Bool.false_eq_true, if_false]

/-- The high word of a 64-bit quantity, with no read of the low one before. -/
theorem regRead_high (hon : domainOff s (blockDomain (a + 4)) = false) (hl : amGet? s.mgmt.hi (a + 4) = none)
    (hw : wide s a = some v) : regRead (a + 4) s = (v / 2 ^ 32, s) := by
  obtain ⟨-, hact, hwide⟩ := (wideAddr_of_wide hw).disjoint
  simp only [regRead, hon, hl, actingRead_eq_none s hact, wide_eq_none s hwide, Nat.le_add_left, Nat.add_sub_cancel, hw,
    Bool.false_eq_true, if_false, if_true]

/-- Addresses of neither a read that acts nor a word of a 64-bit quantity; 0x0040000C is the high word of OBS_HEAD. -/
abbrev PlainAddr (a : Nat) : Prop :=
  ¬ ActingAddr a ∧ ¬ WideAddr a ∧ (4 ≤ a → ¬ WideAddr (a - 4)) ∧ a ≠ 0x0040000C

/-- Any other register, which the read leaves as it is. -/
theorem regRead_plain (hon : domainOff s (blockDomain a) = false) (hl : amGet? s.mgmt.hi a = none)
    (ha : PlainAddr a) (hp : plainRead a s = some v) : regRead a s = (v, s) := by
  obtain ⟨hact, hlow, hhigh, hhead⟩ := ha
  have hw : (if 4 ≤ a then wide s (a - 4) else none) = none := by
    split
    next h => exact wide_eq_none s (hhigh h)
    next => rfl
  simp only [regRead, hon, hl, actingRead_eq_none s hact, wide_eq_none s hlow, hw, hhead, hp, Bool.false_eq_true,
    if_false]

/-- Right after reset no domain is off. -/
theorem domainOff_reset (d : Nat) : domainOff State.reset d = false := by
  unfold domainOff
  split
  · rfl
  · rfl

end Sys2Proof.Proofs
end

section
/-! The statements of 00_scope: the 64-bit read rule R9 and the registers' cold values. -/

namespace Sys2Proof.Proofs

open Sys2Proof Sys2Proof.Machine Sys2Proof.Laws

/-- Settles O37: its three parts are the rules of the low word, of a latched word and of the high word; they apply
because no read at either address of a 64-bit quantity acts. -/
theorem lowWordLatchesTheHighWord : Obligations.LowWordLatchesTheHighWord := by
  unfold Obligations.LowWordLatchesTheHighWord
  intro a v s hw hon
  refine ⟨fun hl => ?_, fun h u honU hlatched => ?_, fun honHi hl _ => regRead_high honHi hl hw⟩
  · have hlow := regRead_low hon hl hw
    exact ⟨latchHi (a.toNat + 4) (v / 2 ^ 32) s, by rw [exec_lowWordRead, hlow], hlow, amGet?_amSet_self .., rfl⟩
  · rw [regRead_latched honU hlatched]
    exact ⟨rfl, amGet?_amErase_self ..⟩

set_option maxRecDepth 8000 in
/-- Settles O60: right after reset no domain is off and nothing is latched, so a plain register reads its cold value;
the reads that act and the two words of QTZ_TIME are evaluated. -/
theorem registersHoldTheirColdValues : Obligations.RegistersHoldTheirColdValues := by
  unfold Obligations.RegistersHoldTheirColdValues
  intro p hp
  by_cases hplain : PlainAddr p.1
  · have hcold : plainRead p.1 State.reset = some p.2 := by
      revert p
      decide
    exact congrArg Prod.fst (regRead_plain (domainOff_reset _) rfl hplain hcold)
  · revert p
    decide

end Sys2Proof.Proofs
end

section
/-! SUPPORT. The fields that records, and frames that leave, do not touch; and the pins in reset, in SAFE and at the begin
of a dump (R33, R42, R44, Table PK-9). -/

namespace Sys2Proof.Proofs

open Sys2Proof Sys2Proof.Machine Sys2Proof.Laws Sys2Proof.Safety

variable {s t : State}

/-! ### What records and frames leave -/

/-- A field of the state after frames have left, by what they may change. -/
theorem proj_of_transported {β : Type} (f : State → β) (h : Transported s t) : f t = f { s with
    insts := t.insts, wire := t.wire, obs := t.obs, pins := { s.pins with pauseQ := t.pins.pauseQ }
    eth := { s.eth with silent := t.eth.silent, ovfSilent := t.eth.ovfSilent, rejsupp := t.eth.rejsupp
                        ovfRej := t.eth.ovfRej, unknownSrc := t.eth.unknownSrc }
    tal := { s.tal with ctrs := t.tal.ctrs, rxUnits := t.tal.rxUnits, txUnits := t.tal.txUnits }
    fcl := { s.fcl with contained := t.fcl.contained } } := congrArg f h

/-- A field of the state after records, by what they may change. -/
theorem proj_of_recorded {β : Type} (f : State → β) (h : Recorded s t) : f t = f { s with
    obs := t.obs
    tal := { s.tal with ctrs := t.tal.ctrs, rxUnits := t.tal.rxUnits, txUnits := t.tal.txUnits }
    fcl := { s.fcl with contained := t.fcl.contained } } := congrArg f h

/-! ### The pins in reset and in SAFE -/

theorem media_pinsSafe (h : vccqOk s = true) : (pinsSafe s).pins.media = .safe := if_pos h

theorem media_inReset (h : vccqOk s = true) : (inReset s).pins.media = .safe := media_pinsSafe h

theorem media_enterSafe (h : vccqOk s = true) : (enterSafe s).pins.media = .safe := media_pinsSafe h

/-! ### The begin of a dump -/

/-- A dump's begin closes acceptance and sets ALIVE; it gives up the code-flash operations and the dies' erases; the rest
is the one DUMP record (R26, R44, R254, R358). -/
theorem beginDump_shape (s : State) : Recorded { s with
    sys := { s.sys with boot := .dump, open' := false, closedWhy := 2, dumpBegun := true, dumpMarker := false
                        dumpKept := false }
    pins := { s.pins with alive := if s.tck.resetN then .khz1 else .low }
    med := (abandonErases s).med, cfl := (cflAbandon s).cfl, free := (cflAbandon s).free } (beginDump s) := by
  have hrec := notice_recorded kDump [] (abandonErases (cflAbandon s))
  rw [cflAbandon_shape s] at hrec
  unfold beginDump
  rw [cflAbandon_shape s]
  generalize notice _ _ _ = u at hrec ⊢
  exact congrArg (fun z : State => { z with
    sys := { z.sys with boot := .dump, open' := false, closedWhy := 2, dumpBegun := true, dumpMarker := false
                        dumpKept := false }
    pins := { z.pins with alive := if z.tck.resetN then .khz1 else .low } }) hrec

theorem sys_beginDump (s : State) : (beginDump s).sys = { s.sys with
    boot := .dump, open' := false, closedWhy := 2, dumpBegun := true, dumpMarker := false, dumpKept := false } :=
  (proj_of_recorded State.sys (beginDump_shape s) :)

theorem alive_beginDump (s : State) : (beginDump s).pins.alive = if s.tck.resetN then .khz1 else .low :=
  (proj_of_recorded (fun u => u.pins.alive) (beginDump_shape s) :)

theorem insts_beginDump (s : State) : (beginDump s).insts = s.insts := (proj_of_recorded State.insts (beginDump_shape s) :)

theorem jrn_beginDump (s : State) : (beginDump s).jrn = s.jrn := (proj_of_recorded State.jrn (beginDump_shape s) :)

theorem sbs_beginDump (s : State) : (beginDump s).med.sbs = s.med.sbs :=
  (proj_of_recorded (fun u => u.med.sbs) (beginDump_shape s) :)

theorem fuses_beginDump (s : State) : (beginDump s).fuses = s.fuses := (proj_of_recorded State.fuses (beginDump_shape s) :)

/-- With no power entry under way, and awake, PFAIL_N or RESET_N in RUN closes acceptance and begins the dump before
anything that was landed is processed (R26, R42, R401). -/
theorem failRun_awake (src : Nat) (hphase : s.pwr.phase = 0) (hawake : s.pwr.state < 2) :
    failRun src s = settle (processHeld (beginDump
      { s with sys := { s.sys with boot := .dump, open' := false, closedWhy := 2 } })) := by
  unfold failRun
  dsimp only
  rw [if_neg (by simp [inEntry, hphase]), if_neg (by simpa using hawake)]

/-! ### The two balls -/

/-- RESET_N falls: its level, and what SYS_RESETREQ shows of it (R26). -/
def resetFalls (s : State) : State :=
  { s with tck := { s.tck with resetN := false }
           sys := { s.sys with reqState := bootCode s.sys.boot, reqTime := s.quartz } }

/-- A cold start that waits for the end of a dump (R26, R43). -/
def resetWaiting (s : State) : State := { s with sys := { s.sys with resetWaits := true, hold := .no } }

theorem exec_resetNAssert_low (h : s.tck.resetN = false) : exec .resetNAssert s = .next s := by
  simp only [exec, execResetNAssert, h, Bool.not_false, if_true]

theorem exec_pfailNAssert_low (h : s.pins.pfailN = false) : exec .pfailNAssert s = .next s := by
  simp only [exec, execPfailNAssert, h, Bool.not_false, if_true]

/-- A start and LODESTONE end without a dump (R57, R80). -/
theorem exec_resetNAssert_start (h : s.tck.resetN = true) (hboot : s.sys.boot = .start ∨ s.sys.boot = .lodestone) :
    exec .resetNAssert s = .next (inReset (resetFalls s)) := by
  rcases hboot with hboot | hboot
  · simp only [exec, execResetNAssert, resetFalls, h, hboot, Bool.not_true, Bool.false_eq_true, if_false]
  · simp only [exec, execResetNAssert, resetFalls, h, hboot, Bool.not_true, Bool.false_eq_true, if_false]

/-- In RUN the cold start waits for the dump that begins (R26). -/
theorem exec_resetNAssert_run (h : s.tck.resetN = true) (hboot : s.sys.boot = .run) :
    exec .resetNAssert s = .next (failRun 2 (resetWaiting (resetFalls s))) := by
  simp only [exec, execResetNAssert, resetFalls, resetWaiting, h, hboot, Bool.not_true, Bool.false_eq_true, if_false]

/-- During a dump the cold start waits for its end, with ALIVE low (R43, R44). -/
theorem exec_resetNAssert_dump (h : s.tck.resetN = true) (hboot : s.sys.boot = .dump) :
    exec .resetNAssert s =
      .next { resetWaiting (resetFalls s) with pins := { s.pins with alive := .low } } := by
  simp only [exec, execResetNAssert, resetFalls, resetWaiting, h, hboot, Bool.not_true, Bool.false_eq_true, if_false]

theorem exec_pfailNAssert_run (h : s.pins.pfailN = true) (hboot : s.sys.boot = .run) :
    exec .pfailNAssert s = .next (failRun 1 { s with pins := { s.pins with pfailN := false } }) := by
  simp only [exec, execPfailNAssert, h, hboot, Bool.not_true, Bool.false_eq_true, if_false]

/-- The end marker of a dump: its record, the media pins safe and DRST0_N and DRST1_N low (R42). -/
def marked (s : State) : State :=
  notice kDump [] { s with sys := { s.sys with dumpMarker := true }, pins := { s.pins with media := .safe, drst := false } }

theorem marked_recorded (s : State) : Recorded { s with
    sys := { s.sys with dumpMarker := true }, pins := { s.pins with media := .safe, drst := false } } (marked s) :=
  notice_recorded ..

/-- With no reset waiting and PFAIL_N low the end marker leads to SAFE (R42). -/
theorem exec_dumpEndMarker_safe (hboot : s.sys.boot = .dump) (hmarker : s.sys.dumpMarker = false)
    (hreset : s.sys.resetWaits = false) (hpfail : s.pins.pfailN = false) :
    exec .dumpEndMarker s = .next (enterSafe (marked s)) := by
  have hrec := marked_recorded s
  have hr : (marked s).sys.resetWaits = false := by exact (proj_of_recorded (fun u => u.sys.resetWaits) hrec).trans hreset
  have hp : (marked s).pins.pfailN = false := by exact (proj_of_recorded (fun u => u.pins.pfailN) hrec).trans hpfail
  have hexec : exec .dumpEndMarker s = .next (if s.sys.boot != .dump || s.sys.dumpMarker then s
      else if (marked s).sys.resetWaits then resetNow (marked s)
      else if !(marked s).pins.pfailN then enterSafe (marked s)
      else afterMarker (marked s)) := rfl
  rw [hexec]
  simp only [hboot, hmarker, hr, hp, bne_self_eq_false, Bool.or_false, Bool.not_false, Bool.false_eq_true, if_false,
    if_true]

end Sys2Proof.Proofs
end

section
/-! The statements of 01_architecture on the balls and the dump. -/

namespace Sys2Proof.Proofs

open Sys2Proof Sys2Proof.Machine Sys2Proof.Laws Sys2Proof.Safety

/-- Settles O12: a start and LODESTONE go to reset; in RUN both balls lead to `failRun`, which begins the dump on the state
with the ball low; a ball that is low already changes nothing. -/
theorem controlBallAssertions : Obligations.ControlBallAssertions := by
  unfold Obligations.ControlBallAssertions
  refine ⟨fun s hreset hboot => ?_, fun s hboot hphase hawake => ⟨fun hreset => ?_, fun hpfail => ?_⟩,
    fun s => ⟨exec_pfailNAssert_low, exec_resetNAssert_low, fun hboot hreset => ?_⟩⟩
  · exact ⟨_, exec_resetNAssert_start hreset hboot, rfl, rfl, rfl, rfl, media_inReset (s := resetFalls s), rfl, rfl, rfl,
      rfl, rfl, rfl⟩
  · refine ⟨_, ?_, rfl, ?_⟩
    · rw [exec_resetNAssert_run hreset hboot, failRun_awake (s := resetWaiting (resetFalls s)) 2 hphase hawake]
      simp only [resetWaiting, resetFalls, hboot]
    · simp only [sys_beginDump, alive_beginDump, insts_beginDump, sbs_beginDump, fuses_beginDump, Bool.false_eq_true,
        if_false, and_self]
  · refine ⟨_, ?_, rfl, ?_⟩
    · rw [exec_pfailNAssert_run hpfail hboot]
      exact congrArg _ (failRun_awake 1 hphase hawake)
    · simp +contextual only [sys_beginDump, alive_beginDump, insts_beginDump, sbs_beginDump, fuses_beginDump, if_true,
        implies_true, and_self]
  · rw [exec_resetNAssert_dump hreset hboot]
    simp only [resetWaiting, resetFalls, hboot]

/-- Settles O13: the begin of a dump by its shape; the end marker writes one record and leads to SAFE. -/
theorem dumpClosesAcceptanceAndEndsInSafe : Obligations.DumpClosesAcceptanceAndEndsInSafe := by
  unfold Obligations.DumpClosesAcceptanceAndEndsInSafe
  refine ⟨fun s => ?_, fun s hboot hmarker hreset hpfail => ?_⟩
  · simp only [sys_beginDump, alive_beginDump, insts_beginDump, jrn_beginDump, sbs_beginDump, fuses_beginDump, and_self]
  · have hrec := marked_recorded s
    have hvccq : vccqOk (marked s) = vccqOk s := (proj_of_recorded vccqOk hrec :)
    refine ⟨_, exec_dumpEndMarker_safe hboot hmarker hreset hpfail, rfl, ?_, rfl, rfl,
      fun hok => media_enterSafe (hvccq.trans hok), rfl, rfl, ?_, ?_⟩
    · exact (proj_of_recorded (fun u => u.sys.dumpMarker) hrec :)
    · exact (proj_of_recorded State.insts hrec :)
    · exact eventAt_seq ..

end Sys2Proof.Proofs
end

section
/-! SUPPORT. What the fault lines, the watchdogs and the injection do, by case (R19, R370, R372, R373, Table LT-7). -/

namespace Sys2Proof.Proofs

open Sys2Proof Sys2Proof.Machine Sys2Proof.Laws Sys2Proof.Safety

variable {src : Nat} {s : State}

theorem exec_faultLineError (src : Fin 384) (addr : U64) (m : Byte) (a : BitVec 4) (s : State) :
    exec (.faultLineError src addr m a) s = .next (settle (faultLineErrorEffect src addr m a s)) := rfl

theorem exec_lineBroken (src : Fin 384) (s : State) :
    exec (.lineBroken src) s = .next (settle (lineBrokenEffect src s)) := rfl

theorem exec_handshakeTimeout (src : Fin 384) (stage : U64) (m : Byte) (s : State) :
    exec (.handshakeTimeout src stage m) s = .next (settle (handshakeTimeoutEffect src stage m s)) := rfl

theorem exec_faultInjection (v : U32) (s : State) :
    exec (.faultInjection v) s = .next (settle (fclInj v.toNat s)) := rfl

/-! ### A line that reports an error -/

/-- A source that names no part raises nothing (Table FE-2). -/
theorem lineError_noPart (h : defaultSev src = 0) (access master addr : Nat) (s : State) :
    lineError src access master addr s = s := if_pos h

/-- A part's fault reaches the arbiter, and its chapter handles the part as faulted. -/
theorem lineError_part (h : defaultSev src ≠ 0) (access master addr : Nat) (s : State) :
    lineError src access master addr s = handlePart src (raise src (lineFault src access master addr) s) := if_neg h

/-- In HALT, and on a broken line, no error is reported (R372). -/
theorem faultLineErrorEffect_silent {src : Fin 384} (h : s.fcl.halted = true ∨ src.val ∈ s.fcl.broken) (addr : U64)
    (m : Byte) (a : BitVec 4) : faultLineErrorEffect src addr m a s = s := by
  unfold faultLineErrorEffect
  exact if_pos (by simpa using h)

theorem faultLineErrorEffect_live {src : Fin 384} (hrun : s.fcl.halted = false) (hwhole : src.val ∉ s.fcl.broken)
    (addr : U64) (m : Byte) (a : BitVec 4) :
    faultLineErrorEffect src addr m a s = lineError src.val a.toNat m.toNat addr.toNat s := by
  unfold faultLineErrorEffect
  exact if_neg (by simp [hrun, hwhole])

/-! ### A line that breaks -/

/-- The fault of a broken line: severity DEGRADE, access type 8 (R372). -/
def brokenFault (src master : Nat) : Fault' :=
  { lineFault src 8 master 0 with severity := sevDegrade, code := kLineBroken }

/-- A line that is broken already raises nothing (R372). -/
theorem lineBroken_again (h : src ∈ s.fcl.broken) (master : Nat) : lineBroken src master s = s := by
  unfold lineBroken
  exact if_pos (by simp [h])

/-- A line breaks: it is noted and its fault reaches the arbiter; a part whose default is DEGRADE is handled as faulted
(R372). -/
theorem lineBroken_first (hpart : defaultSev src ≠ 0) (hwhole : src ∉ s.fcl.broken) (master : Nat) :
    lineBroken src master s =
      if defaultSev src = sevDegrade then
        handlePart src (raise src (brokenFault src master)
          { s with fcl := { s.fcl with broken := insertNat src s.fcl.broken } })
      else raise src (brokenFault src master)
        { s with fcl := { s.fcl with broken := insertNat src s.fcl.broken } } := by
  unfold lineBroken
  exact if_neg (by simp [hpart, hwhole])

theorem lineBrokenEffect_running {src : Fin 384} (h : s.fcl.halted = false) :
    lineBrokenEffect src s = lineBroken src.val 0xFF s := if_neg (by simp [h])

/-! ### Misses -/

/-- A missed handshake is the fault of its source, with access type 4 and the stage as its address; it counts in the device
window (R19, R373). -/
theorem handshakeTimeoutEffect_part {src : Fin 384} (hrun : s.fcl.halted = false) (hpart : defaultSev src.val ≠ 0)
    (stage : U64) (m : Byte) : handshakeTimeoutEffect src stage m s =
      missInternal (handlePart src.val (raise src.val (lineFault src.val 4 m.toNat stage.toNat) s)) := by
  unfold handshakeTimeoutEffect
  rw [if_neg (by simp [hrun, hpart]), lineError_part hpart]

/-- The severity that the rows of Table LT-7 give, the handshake's that of its source. -/
theorem missSeverity_eq (src : Nat) (row : InternalDeadline) : missSeverity src row =
    (if row = .handshake then defaultSev src
      else if row = .hwtWait ∨ row = .startStep then sevDegrade
      else if row = .dumpStep then sevContain else sevNotice) := by
  cases row <;> rfl

/-- The fault of a missed internal deadline (R229). -/
def deadlineFault (src : Nat) (row : InternalDeadline) (step : Nat) : Fault' :=
  { ruleFault kInternalMiss (missSeverity src row) src noInst [step] with access := 9 }

theorem exec_internalDeadlineMiss {src : Fin 384} (row : InternalDeadline) (step : Nat) (h : s.fcl.halted = false) :
    exec (.internalDeadlineMiss src row step) s =
      .next (missInternal (raise src.val (deadlineFault src.val row step) s)) :=
  congrArg Host.Outcome.next (if_neg (by simp [h]))

/-! ### Fault injection -/

/-- FCL_INJ holds what is written to it (FCL_INJ). -/
def injWritten (v : Nat) (s : State) : State :=
  { s with fcl := { s.fcl with injSource := bits v 0 9, injPattern := bits v 9 2 } }

theorem fclInj_idle (v : Nat) (h : bit v 11 = false) (s : State) : fclInj v s = injWritten v s :=
  if_pos (by simp [h])

theorem fclInj_locked (v : Nat) (h : bit v 11 = true) (hinj : s.fcl.injen = false) :
    fclInj v s = regRefused 0x00300038 v (injWritten v s) := by
  unfold fclInj
  simp only [h, hinj, Bool.not_true, Bool.not_false, Bool.false_eq_true, if_false, if_true, injWritten]

/-- With GO and INJEN the TEST record is written, then the pattern is driven. -/
theorem fclInj_driven (v : Nat) (h : bit v 11 = true) (hinj : s.fcl.injen = true) :
    fclInj v s =
      if bits v 9 2 = 0 then notice kTest [] (injWritten v s)
      else if bits v 9 2 = 1 then
        if (notice kTest [] (injWritten v s)).fcl.broken.contains (bits v 0 9) then notice kTest [] (injWritten v s)
        else lineError (bits v 0 9) (ofLeBytes ((drawBytes 9 (notice kTest [] (injWritten v s))).1.take 1) % 12) 0x20
          (ofLeBytes ((drawBytes 9 (notice kTest [] (injWritten v s))).1.drop 1))
          (drawBytes 9 (notice kTest [] (injWritten v s))).2
      else lineBroken (bits v 0 9) 0x20 (notice kTest [] (injWritten v s)) := by
  unfold fclInj
  simp only [h, hinj, Bool.not_true, Bool.false_eq_true, if_false, injWritten]

/-- An error pattern on a whole line is an error of master 0x20, with an access type below 12. -/
theorem fclInj_error (v : Nat) (h : bit v 11 = true) (hinj : s.fcl.injen = true) (hpat : bits v 9 2 = 1)
    (hwhole : bits v 0 9 ∉ s.fcl.broken) : ∃ k a, k < 12 ∧
      fclInj v s = lineError (bits v 0 9) k 0x20 a (drawBytes 9 (notice kTest [] (injWritten v s))).2 := by
  have hbroken : bits v 0 9 ∉ (notice kTest [] (injWritten v s)).fcl.broken := by
    rw [proj_of_recorded (fun u => u.fcl.broken) (notice_recorded ..)]
    exact hwhole
  have he := fclInj_driven v h hinj
  rw [if_neg (by omega), if_pos hpat, if_neg (by simpa using hbroken)] at he
  exact ⟨_, _, Nat.mod_lt _ (by decide), he⟩

end Sys2Proof.Proofs
end

section
/-! The statement of 01_architecture on the fault lines. -/

namespace Sys2Proof.Proofs

open Sys2Proof Sys2Proof.Machine Sys2Proof.Laws Sys2Proof.Safety

/-- Settles O19: one case lemma per clause; a line error and an injected one are the same `lineError`, a broken line and an
injected break the same `lineBroken`. -/
theorem faultLinesReachTheArbiter : Obligations.FaultLinesReachTheArbiter := by
  unfold Obligations.FaultLinesReachTheArbiter
  refine ⟨fun src addr m a s => ⟨fun hsilent => ?_, fun hrun hwhole hnone => ?_, fun hrun hwhole hpart => ?_⟩,
    fun src s hrun hpart => ⟨fun hbroken => ?_, fun hwhole => ?_⟩,
    fun src stage m row step s hrun => ⟨fun hpart => ?_, ?_⟩, ?_⟩
  · rw [exec_faultLineError, faultLineErrorEffect_silent hsilent]
  · rw [exec_faultLineError, faultLineErrorEffect_live hrun hwhole, lineError_noPart hnone]
  · refine ⟨lineFault src.val a.toNat m.toNat addr.toNat, rfl, rfl, rfl, rfl, rfl, ?_⟩
    rw [exec_faultLineError, faultLineErrorEffect_live hrun hwhole, lineError_part hpart]
  · rw [exec_lineBroken, lineBrokenEffect_running hrun, lineBroken_again hbroken]
  · refine ⟨brokenFault src.val 0xFF, rfl, rfl, rfl, _, rfl, ?_⟩
    rw [exec_lineBroken, lineBrokenEffect_running hrun, lineBroken_first hpart hwhole]
  · refine ⟨lineFault src.val 4 m.toNat stage.toNat, rfl, rfl, rfl, ?_⟩
    rw [exec_handshakeTimeout, handshakeTimeoutEffect_part hrun hpart]
  · exact ⟨deadlineFault src.val row step, rfl, rfl, rfl, missSeverity_eq .., exec_internalDeadlineMiss row step hrun⟩
  · rintro v s src pat rfl rfl u rfl
    refine ⟨fun hgo => ?_, fun hgo hinj => ?_, fun hgo hinj hpat => ?_, fun hgo hinj hpat hwhole => ?_,
      fun hgo hinj hpat => ?_⟩
    · rw [exec_faultInjection, fclInj_idle v.toNat hgo, injWritten]
    · rw [exec_faultInjection, fclInj_locked v.toNat hgo hinj, injWritten]
    · rw [exec_faultInjection, fclInj_driven v.toNat hgo hinj, if_pos hpat, injWritten]
    · obtain ⟨k, a, hk, he⟩ := fclInj_error v.toNat hgo hinj hpat hwhole
      exact ⟨k, a, hk, by rw [exec_faultInjection, he, injWritten]⟩
    · rw [exec_faultInjection, fclInj_driven v.toNat hgo hinj, if_neg (by omega), if_neg (by omega), injWritten]

end Sys2Proof.Proofs
end

section
/-! SUPPORT. The derate step and wakes (R233, R404): each by what it changes of the state. -/

namespace Sys2Proof.Proofs

open Sys2Proof Sys2Proof.Machine Sys2Proof.Laws Sys2Proof.Safety

theorem notifyDerate_transported (arg1 : Nat) (s : State) : Transported s (notifyDerate arg1 s) := by
  unfold notifyDerate
  refine Transported.forInsts rfl fun i x h => ?_
  split
  · split
    · exact Transported.app (notify_transported ..) h
    · exact h
  · exact h

theorem turnAll_transported (old new : MissCause) (s : State) : Transported s (turnAll old new s) := rfl

/-- The state in which a new derate step is in force, every bucket's base moved before (R233). -/
def restepped (s : State) : State :=
  { rebaseAll s with qtz := { (rebaseAll s).qtz with step := wantedStep s } }

theorem restepped_transported (s : State) :
    Transported { s with qtz := { s.qtz with step := wantedStep s } } (restepped s) := rfl

/-- The state in which the new step is recorded and waiting tasks bear its cause, before the instances are told (R233). -/
def stepped (s : State) : State :=
  let r := notice kThermal [] (tally noInst 0x0101 6 1 (restepped s))
  if s.qtz.step < wantedStep s then turnAll .other .derate r else turnAll .derate .other r

theorem stepped_transported (s : State) :
    Transported { s with qtz := { s.qtz with step := wantedStep s } } (stepped s) := by
  have hrec : Recorded (restepped s) (notice kThermal [] (tally noInst 0x0101 6 1 (restepped s))) :=
    Recorded.app (notice_recorded ..) (tally_recorded ..)
  have hall := Transported.trans (restepped_transported s) (Recorded.transported hrec)
  unfold stepped
  exact Transported.ite (Transported.app (turnAll_transported ..) hall) (Transported.app (turnAll_transported ..) hall)

theorem setDerate_of_ne {s : State} (h : wantedStep s ≠ s.qtz.step) : setDerate s =
    if (stepped s).sys.open' then notifyDerate 0 (stepped s)
    else { stepped s with qtz := { (stepped s).qtz with unsent := true } } := if_neg h

/-- The step wanted is in force; with acceptance closed it is still to be told (R233). -/
theorem setDerate_shape (s : State) : ∃ unsent,
    Transported { s with qtz := { s.qtz with step := wantedStep s, unsent := unsent } } (setDerate s) := by
  by_cases h : wantedStep s = s.qtz.step
  · have hsame : setDerate s = s := if_pos h
    rw [hsame, h]
    exact ⟨s.qtz.unsent, rfl⟩
  · rw [setDerate_of_ne h]
    have hstep := stepped_transported s
    by_cases hopen : (stepped s).sys.open' = true
    · rw [if_pos hopen]
      exact ⟨s.qtz.unsent, Transported.app (notifyDerate_transported ..) hstep⟩
    · rw [if_neg hopen]
      exact ⟨true, (congrArg (fun z : State => { z with qtz := { z.qtz with unsent := true } }) hstep :)⟩

/-! ### What a change of the derate step leaves -/

@[simp] theorem setDerate_sys (s : State) : (setDerate s).sys = s.sys :=
  (setDerate_shape s).elim fun _ h => (proj_of_transported State.sys h :)

@[simp] theorem setDerate_thm (s : State) : (setDerate s).thm = s.thm :=
  (setDerate_shape s).elim fun _ h => (proj_of_transported State.thm h :)

@[simp] theorem setDerate_med (s : State) : (setDerate s).med = s.med :=
  (setDerate_shape s).elim fun _ h => (proj_of_transported State.med h :)

@[simp] theorem setDerate_window (s : State) : (setDerate s).fcl.window = s.fcl.window :=
  (setDerate_shape s).elim fun _ h => (proj_of_transported (fun u => u.fcl.window) h :)

@[simp] theorem setDerate_coreOff (s : State) : (setDerate s).pins.coreOff = s.pins.coreOff :=
  (setDerate_shape s).elim fun _ h => (proj_of_transported (fun u => u.pins.coreOff) h :)

@[simp] theorem setDerate_thermal (s : State) : (setDerate s).qtz.thermal = s.qtz.thermal :=
  (setDerate_shape s).elim fun _ h => (proj_of_transported (fun u => u.qtz.thermal) h :)

theorem step_setDerate (s : State) : (setDerate s).qtz.step = wantedStep s :=
  (setDerate_shape s).elim fun _ h => (proj_of_transported (fun u => u.qtz.step) h :)

@[simp] theorem wantedStep_setDerate (s : State) : wantedStep (setDerate s) = wantedStep s :=
  (setDerate_shape s).elim fun _ h => (proj_of_transported wantedStep h :)

/-! ### Wakes -/

/-- A wake changes the power state's registers and records. -/
theorem wake_shape (src detail : Nat) (s : State) : ∃ p, Recorded { s with pwr := p } (wake src detail s) := by
  unfold wake
  split
  · exact ⟨s.pwr, rfl⟩
  · split
    · split
      · exact ⟨_, Recorded.refl _⟩
      · exact ⟨s.pwr, rfl⟩
    · exact ⟨_, Recorded.app (tally_recorded ..) (notice_recorded ..)⟩

@[simp] theorem wake_thm (src detail : Nat) (s : State) : (wake src detail s).thm = s.thm :=
  (wake_shape src detail s).elim fun _ h => (proj_of_recorded State.thm h :)

@[simp] theorem wake_med (src detail : Nat) (s : State) : (wake src detail s).med = s.med :=
  (wake_shape src detail s).elim fun _ h => (proj_of_recorded State.med h :)

@[simp] theorem wake_qtz (src detail : Nat) (s : State) : (wake src detail s).qtz = s.qtz :=
  (wake_shape src detail s).elim fun _ h => (proj_of_recorded State.qtz h :)

@[simp] theorem wake_pins (src detail : Nat) (s : State) : (wake src detail s).pins = s.pins :=
  (wake_shape src detail s).elim fun _ h => (proj_of_recorded State.pins h :)

@[simp] theorem wantedStep_wake (src detail : Nat) (s : State) : wantedStep (wake src detail s) = wantedStep s :=
  (wake_shape src detail s).elim fun _ h => (proj_of_recorded wantedStep h :)

end Sys2Proof.Proofs
end

section
/-! SUPPORT. The operating point (R45, R46, R230, R231): the voltage that a reading asks for, the requests that lead to it, and
the check of a slow cycle. -/

namespace Sys2Proof.Proofs

open Sys2Proof Sys2Proof.Machine Sys2Proof.Laws Sys2Proof.Safety

variable {s : State}

/-! ### The voltage asked for -/

theorem nthNat_le {l : List Nat} {b : Nat} (h : ∀ x ∈ l, x ≤ b) (i : Nat) : nthNat l i ≤ b := by
  unfold nthNat
  cases he : l[i]? with
  | none => exact Nat.zero_le b
  | some x => exact h x (List.mem_of_getElem? he)

theorem lowestMv_le (band : Nat) : lowestMv band ≤ 800 := nthNat_le (by decide) band

theorem floorMv_trim (h : s.pwr.state = 1) : floorMv s = 680 := if_pos h

theorem floorMv_other (h : s.pwr.state ≠ 1) : floorMv s = max 720 (lowestMv s.sys.tband) := if_neg h

theorem floorMv_le (s : State) : floorMv s ≤ 800 := by
  have hband := lowestMv_le s.sys.tband
  by_cases h : s.pwr.state = 1
  · rw [floorMv_trim h]
    omega
  · rw [floorMv_other h]
    omega

/-- What a reading asks for, before the range of R230 bounds it. -/
def askedMv (s : State) (cycle low : Nat) : Nat :=
  if cycleHigh s < cycle then s.sys.vreq + min 25 ((cycle - cycleHigh s) / 10 * 5)
  else if 10 ≤ low then s.sys.vreq - 5 else s.sys.vreq

theorem askedMv_near (s : State) (cycle low : Nat) :
    askedMv s cycle low ≤ s.sys.vreq + 25 ∧ s.sys.vreq ≤ askedMv s cycle low + 5 := by
  unfold askedMv
  split
  · omega
  · split
    · omega
    · omega

theorem cycleHigh_run (h : s.pwr.state = 0) : cycleHigh s = 900 := by simp [cycleHigh, h]

theorem cycleHigh_trim (h : s.pwr.state = 1) : cycleHigh s = 1400 := if_pos h

theorem askedMv_slow {cycle : Nat} (h : cycleHigh s < cycle) (low : Nat) :
    askedMv s cycle low = s.sys.vreq + min 25 ((cycle - cycleHigh s) / 10 * 5) := if_pos h

/-- The request stays within 0.85 V and the floor in force (R230). -/
theorem nextVreq_eq (s : State) (cycle low : Nat) :
    nextVreq s cycle low = max (floorMv s) (min 850 (askedMv s cycle low)) := by
  have hfloor := floorMv_le s
  have hdef : nextVreq s cycle low =
      if askedMv s cycle low < floorMv s then floorMv s else min 850 (askedMv s cycle low) := rfl
  rw [hdef]
  split
  · omega
  · omega

/-! ### Requests -/

/-- No request on the way to a voltage moves it by more than 25 mV (R45). -/
theorem vPath_steps (n v goal k a b : Nat) (ha : (v :: vPath n v goal)[k]? = some a)
    (hb : (v :: vPath n v goal)[k + 1]? = some b) : a ≤ b + 25 ∧ b ≤ a + 25 := by
  induction n generalizing v k with
  | zero => simp [vPath] at hb
  | succ n ih =>
    by_cases hv : v = goal
    · simp [vPath, hv] at hb
    · rw [vPath, if_neg hv] at ha hb
      cases k with
      | zero =>
        simp only [List.getElem?_cons_zero, List.getElem?_cons_succ, Option.some.injEq] at ha hb
        split at hb
        · omega
        · omega
      | succ k => exact ih _ k ha hb

/-- A request changes the request, its steps and the access delay. -/
theorem requestTo_shape (mv : Nat) (s : State) : ∃ v l c,
    requestTo mv s = { s with sys := { s.sys with vreq := v, vsteps := l }, cfl := c } := by
  unfold requestTo
  split
  · exact ⟨s.sys.vreq, s.sys.vsteps, s.cfl, rfl⟩
  · exact ⟨_, _, _, rfl⟩

/-- Once AVSBus has failed no request leaves (R46). -/
theorem requestTo_stopped (h : s.sys.avsStopped = true) (mv : Nat) : requestTo mv s = s := if_pos (by simp [h])

theorem vreq_requestTo (hboot : s.sys.boot = .run) (havs : s.sys.avsStopped = false) (mv : Nat) :
    (requestTo mv s).sys.vreq = mv := by
  unfold requestTo
  split
  next h => simpa [hboot, havs, eq_comm] using h
  next => rfl

theorem vsteps_requestTo (hboot : s.sys.boot = .run) (havs : s.sys.avsStopped = false) {mv : Nat}
    (h : mv ≠ s.sys.vreq) : (requestTo mv s).sys.vsteps = vPath 64 s.sys.vreq mv := by
  unfold requestTo
  rw [if_neg (by simp [hboot, havs, h])]
  rfl

/-! ### The check of the cycle -/

/-- The check of the cycle changes the derate mark and the time since which the cycle is fast, of what SYS holds. -/
theorem cycleCheck_sys (cycle : Nat) (s : State) : ∃ d o,
    (cycleCheck cycle s).sys = { s.sys with cycleDerate := d, cycleOkSince := o } := by
  unfold cycleCheck
  dsimp only
  split
  · split
    · exact ⟨true, none, setDerate_sys _⟩
    · exact ⟨_, none, rfl⟩
  · split
    · exact ⟨false, _, setDerate_sys _⟩
    · exact ⟨_, _, rfl⟩

/-- The fault of a slow cycle (R231). -/
def cycleFault (cycle : Nat) : Fault' := ruleFault kFault sevDegrade noSource noInst [cycle]

/-- A slow cycle at 0.85 V and at most 125 °C raises its fault and wants a derate step (R231). -/
theorem cycleCheck_slow {cycle : Nat} (hslow : 960 < cycle) (hv : s.sys.vreq = 850) (hj : s.thm.junction ≤ 500)
    (hd : s.sys.cycleDerate = false) : cycleCheck cycle s = setDerate (raise noSource (cycleFault cycle)
      { s with sys := { s.sys with cycleOkSince := none, cycleDerate := true } }) := by
  unfold cycleCheck
  rw [if_pos hslow]
  exact if_pos (by simp [hv, hj, hd])

/-- A fault of no source keeps its severity: no class holds it (R371). -/
theorem window_raise_noSource (f : Fault') (s : State) :
    (raise noSource f s).fcl.window = s.fcl.window ++ [f] := by
  have hclass : arClass noSource = 0 := by decide
  have hheld : classHeld s noSource = false := by simp [classHeld, hclass]
  unfold raise
  rw [hheld]
  rfl

/-- The mark ends once the cycle has been at or below 0.96 ns for 1 s (R231). -/
theorem cycleCheck_ends (cycle : Nat) (h : s.sys.cycleDerate = true) : (cycleCheck cycle s).sys.cycleDerate = false ↔
    cycle ≤ 960 ∧ ∃ since, s.sys.cycleOkSince = some since ∧ since + 1000000000 ≤ s.quartz := by
  unfold cycleCheck
  by_cases hslow : 960 < cycle
  · simp [hslow, h]
  · have hfast : cycle ≤ 960 := Nat.le_of_not_lt hslow
    simp only [hslow, if_false, h, Bool.true_and, decide_eq_true_eq, hfast, true_and]
    cases hs : s.sys.cycleOkSince with
    | none => simp
    | some since =>
      by_cases hlong : since + 1000000000 ≤ s.quartz
      · simp [hlong]
      · simp [hlong]

/-! ### The command -/

/-- Readings in a row below the low cycle, with this one (R230). -/
def lowRun (cycle : Nat) (s : State) : Nat := if cycle < cycleLow s then s.sys.lowReadings + 1 else 0

/-- SYS_HSCYCLE shows the reading, and low readings are counted to ten (R230). -/
def cycleRead (cycle : Nat) (s : State) : State :=
  { s with sys := { s.sys with
      cyclePs := cycle, lowReadings := if 10 ≤ lowRun cycle s then 0 else lowRun cycle s } }

/-- The state in which a reading's request has left (R230). -/
def adjusted (cycle : Nat) (s : State) : State :=
  raiseAdelay (requestTo (if s.sys.avsStopped then s.sys.vreq else nextVreq s cycle (lowRun cycle s)) (cycleRead cycle s))

theorem exec_operatingPointAdjust (c : U16) (hboot : s.sys.boot = .run) (hawake : s.pwr.state < 2) :
    exec (.operatingPointAdjust c) s = .next (cycleCheck c.toNat (adjusted c.toNat s)) := by
  have hstate : ¬ 2 ≤ s.pwr.state := Nat.not_le.mpr hawake
  simp only [exec, execOperatingPointAdjust, hboot, hstate, decide_false, Bool.or_false, bne_self_eq_false, adjusted,
    cycleRead, lowRun]
  rfl

/-- A reading changes what SYS holds and the access delay; the derate mark and its time stand until the check. -/
theorem adjusted_shape (cycle : Nat) (s : State) : ∃ v l c, adjusted cycle s =
    { cycleRead cycle s with sys := { (cycleRead cycle s).sys with vreq := v, vsteps := l }, cfl := c } := by
  obtain ⟨v, l, c, h⟩ := requestTo_shape
    (if s.sys.avsStopped then s.sys.vreq else nextVreq s cycle (lowRun cycle s)) (cycleRead cycle s)
  unfold adjusted
  rw [h]
  exact ⟨v, l, _, rfl⟩

theorem adjusted_stopped (cycle : Nat) (h : s.sys.avsStopped = true) : (adjusted cycle s).sys.vreq = s.sys.vreq :=
  (congrArg (fun u : State => (raiseAdelay u).sys.vreq) (requestTo_stopped (s := cycleRead cycle s) h _) :)

theorem adjusted_vreq (cycle : Nat) (hboot : s.sys.boot = .run) (havs : s.sys.avsStopped = false) :
    (adjusted cycle s).sys.vreq = max (floorMv s) (min 850 (askedMv s cycle (lowRun cycle s))) := by
  rw [← nextVreq_eq]
  unfold adjusted
  rw [if_neg (by simp [havs])]
  exact vreq_requestTo (s := cycleRead cycle s) hboot havs _

theorem adjusted_vsteps (cycle : Nat) (hboot : s.sys.boot = .run) (havs : s.sys.avsStopped = false)
    (h : (adjusted cycle s).sys.vreq ≠ s.sys.vreq) :
    (adjusted cycle s).sys.vsteps = vPath 64 s.sys.vreq (adjusted cycle s).sys.vreq := by
  rw [adjusted_vreq cycle hboot havs, ← nextVreq_eq] at h ⊢
  unfold adjusted
  rw [if_neg (by simp [havs])]
  exact vsteps_requestTo (s := cycleRead cycle s) hboot havs h

/-- At 0.85 V a reading above 0.90 ns asks for no other voltage. -/
theorem adjusted_top {cycle : Nat} (hboot : s.sys.boot = .run) (hstate : s.pwr.state = 0) (hv : s.sys.vreq = 850)
    (hslow : 900 < cycle) : (adjusted cycle s).sys.vreq = 850 := by
  cases havs : s.sys.avsStopped with
  | true => rw [adjusted_stopped cycle havs, hv]
  | false =>
    have hhigh := cycleHigh_run hstate
    have hfloor := floorMv_le s
    rw [adjusted_vreq cycle hboot havs, askedMv_slow (by omega), hv]
    omega

/-- The request that a reading leaves: its range, what the cycle asks for, and its steps (R45, R230, R394). -/
theorem adjusted_request (cycle : Nat) (hboot : s.sys.boot = .run) (hv : s.sys.vreq ≤ 850)
    (havs : s.sys.avsStopped = false) :
    floorMv s ≤ (adjusted cycle s).sys.vreq ∧ (adjusted cycle s).sys.vreq ≤ 850 ∧
    (adjusted cycle s).sys.vreq ≤ max (s.sys.vreq + 25) (floorMv s) ∧ s.sys.vreq ≤ (adjusted cycle s).sys.vreq + 25 ∧
    (s.pwr.state = 0 → 900 < cycle → (adjusted cycle s).sys.vreq =
      max (floorMv s) (min 850 (s.sys.vreq + min 25 ((cycle - 900) / 10 * 5)))) ∧
    (s.pwr.state = 1 → 1400 < cycle → (adjusted cycle s).sys.vreq =
      max (floorMv s) (min 850 (s.sys.vreq + min 25 ((cycle - 1400) / 10 * 5)))) ∧
    ((adjusted cycle s).sys.vreq ≠ s.sys.vreq → ∀ k a b,
      (s.sys.vreq :: (adjusted cycle s).sys.vsteps)[k]? = some a →
      (s.sys.vreq :: (adjusted cycle s).sys.vsteps)[k + 1]? = some b → a ≤ b + 25 ∧ b ≤ a + 25) := by
  obtain ⟨hup, hdown⟩ := askedMv_near s cycle (lowRun cycle s)
  have hfloor := floorMv_le s
  have hvreq := adjusted_vreq cycle hboot havs
  refine ⟨by omega, by omega, by omega, by omega, fun hstate hslow => ?_, fun hstate hslow => ?_, fun hmoved k a b => ?_⟩
  · rw [hvreq, askedMv_slow (by rwa [cycleHigh_run hstate]), cycleHigh_run hstate]
  · rw [hvreq, askedMv_slow (by rwa [cycleHigh_trim hstate]), cycleHigh_trim hstate]
  · rw [adjusted_vsteps cycle hboot havs hmoved]
    exact vPath_steps _ _ _ k a b

/-- A reading in RUN above 0.96 ns at 0.85 V and at most 125 °C leaves the request and ends in the slow-cycle check (R231). -/
theorem cycleCheck_adjusted_slow {cycle : Nat} (hboot : s.sys.boot = .run) (hstate : s.pwr.state = 0)
    (hv : s.sys.vreq = 850) (hslow : 960 < cycle) (hj : s.thm.junction ≤ 500) (hd : s.sys.cycleDerate = false) :
    cycleCheck cycle (adjusted cycle s) = setDerate (raise noSource (cycleFault cycle)
      { adjusted cycle s with
        sys := { (adjusted cycle s).sys with cycleOkSince := none, cycleDerate := true } }) := by
  obtain ⟨_, _, _, hshape⟩ := adjusted_shape cycle s
  refine cycleCheck_slow hslow (adjusted_top hboot hstate hv (by omega)) ?_ ?_
  · rw [hshape]
    exact hj
  · rw [hshape]
    exact hd

end Sys2Proof.Proofs
end

section
/-! SUPPORT. Temperatures (R405–R408): the thermal step at a reading, the hottest site, the shutdown, a broken input, and the
fall of the step. -/

namespace Sys2Proof.Proofs

open Sys2Proof Sys2Proof.Machine Sys2Proof.Laws Sys2Proof.Safety

variable {s : State}

/-! ### The thermal step at a reading -/

/-- The input and the step of the hotter of what stands so far and one more reading (R407). -/
def hotter (a : Nat × Nat) (r : Nat × Int × Nat) : Nat × Nat := if a.2 < r.2.2 then (r.1, r.2.2) else a

/-- The reading that asks for the highest step, with that step (R407). -/
def hottest (s : State) : Nat × Nat := (readings s).foldl hotter (31, 0)

theorem le_hotter (a : Nat × Nat) (r : Nat × Int × Nat) : a.2 ≤ (hotter a r).2 ∧ r.2.2 ≤ (hotter a r).2 := by
  unfold hotter
  split
  next h => exact ⟨Nat.le_of_lt h, Nat.le_refl _⟩
  next h => exact ⟨Nat.le_refl _, Nat.le_of_not_lt h⟩

theorem le_foldl_hotter (l : List (Nat × Int × Nat)) (a : Nat × Nat) :
    a.2 ≤ (l.foldl hotter a).2 ∧ ∀ r ∈ l, r.2.2 ≤ (l.foldl hotter a).2 := by
  induction l generalizing a with
  | nil => simp
  | cons r l ih =>
    obtain ⟨hfirst, hrest⟩ := ih (hotter a r)
    obtain ⟨ha, hr⟩ := le_hotter a r
    exact ⟨ha.trans hfirst, List.forall_mem_cons.mpr ⟨hr.trans hfirst, hrest⟩⟩

/-- The junction is one of the readings. -/
theorem junction_le_hottest (s : State) : stepOf junctionLimit s.thm.junction ≤ (hottest s).2 :=
  (le_foldl_hotter (readings s) (31, 0)).2 _ (List.mem_cons_self ..)

/-- The step that the hottest reading asks for, set by its input (R407). -/
def stepRisen (s : State) : State :=
  { s with thm := { s.thm with step := (hottest s).2, by' := (hottest s).1 }
           qtz := { s.qtz with thermal := (hottest s).2 } }

theorem thermalRise_eq (s : State) : thermalRise s =
    if s.thm.step < (hottest s).2 then wake 6 (hottest s).2 (setDerate (stepRisen s)) else s := rfl

/-- A reading moves the thermal step alone of what THM holds, upwards and at least to the step that the hottest one asks for
(R407). -/
theorem thermalRise_thm (s : State) : ∃ step by', (thermalRise s).thm = { s.thm with step := step, by' := by' } ∧
    s.thm.step ≤ step ∧ (hottest s).2 ≤ step := by
  rw [thermalRise_eq]
  by_cases h : s.thm.step < (hottest s).2
  · rw [if_pos h, wake_thm, setDerate_thm]
    exact ⟨_, _, rfl, Nat.le_of_lt h, Nat.le_refl _⟩
  · rw [if_neg h]
    exact ⟨_, _, rfl, Nat.le_refl _, Nat.le_of_not_lt h⟩

theorem thermalRise_coreOff (s : State) : (thermalRise s).pins.coreOff = s.pins.coreOff := by
  rw [thermalRise_eq]
  split
  · rw [wake_pins, setDerate_coreOff, stepRisen]
  · rfl

theorem thermalRise_sensors (s : State) : (thermalRise s).thm.sensors = s.thm.sensors := by
  obtain ⟨_, _, hthm, -⟩ := thermalRise_thm s
  rw [hthm]

/-! ### A junction site -/

/-- The highest of the sites (R405). -/
def siteTop (l : List Int) : Int := l.foldl max (l.headD 0)

theorem siteTop_greatest {l : List Int} (h : l ≠ []) : siteTop l ∈ l ∧ ∀ x ∈ l, x ≤ siteTop l := by
  obtain ⟨a, l, rfl⟩ := List.exists_cons_of_ne_nil h
  refine List.max?_eq_some_iff.mp ?_
  rw [siteTop, List.max?_cons', List.headD_cons, List.foldl_cons, max_self]

theorem peakWith_of_peak {s' : State} {x : Int} (h : s.thm.peak = peakWith x s') : peakWith x s = s.thm.peak := by
  simp only [peakWith, h]
  split
  · rw [max_self]
  · rw [max_assoc, max_self]

/-- A shutdown sets the junction and PEAK to what they are where the junction's reading stands in both (R408). -/
theorem shutdownCheck_thm (h : peakWith s.thm.junction s = s.thm.peak) : (shutdownCheck s).thm = s.thm := by
  unfold shutdownCheck
  split
  · exact congrArg (fun p => { s.thm with peak := p }) h
  · rfl

theorem shutdownCheck_coreOff (s : State) :
    (632 < s.thm.junction → (shutdownCheck s).pins.coreOff = true) ∧
    (s.thm.junction ≤ 632 → (shutdownCheck s).pins.coreOff = s.pins.coreOff) := by
  unfold shutdownCheck
  refine ⟨fun hhot => ?_, fun hcool => ?_⟩
  · cases hoff : s.pins.coreOff with
    | true => simp [hoff]
    | false => simp only [hhot, decide_true, Bool.not_false, Bool.and_self, if_true, shutdownAt, raise]
  · rw [if_neg (by simp [hcool])]

/-- A difference of a site's two diodes above 5 °C is recorded (R405). -/
def siteNoted (d0 d1 : Int) (s : State) : State := if 20 < (d0 - d1).natAbs then notice kThermal [] s else s

/-- The state with a site's reading in place, before the thermal step and the shutdown look at it (R405, R360). -/
def siteRead (n : Nat) (d0 d1 : Int) (s : State) : State :=
  let top := siteTop (setNth s.thm.sites n (max d0 d1))
  raiseAdelay { s with
    thm := { s.thm with
      sites := setNth s.thm.sites n (max d0 d1), junction := top
      site := ((setNth s.thm.sites n (max d0 d1)).findIdx? fun t => t = top).getD 0, peak := peakWith top s }
    sys := { s.sys with tband := tbandOf top } }

theorem measureSite_eq (n : Nat) (d0 d1 : Int) (s : State) :
    measureSite n d0 d1 s = shutdownCheck (thermalRise (siteRead n d0 d1 (siteNoted d0 d1 s))) := rfl

theorem siteNoted_recorded (d0 d1 : Int) (s : State) : Recorded s (siteNoted d0 d1 s) := by
  unfold siteNoted
  split
  · exact notice_recorded ..
  · exact Recorded.refl s

theorem siteRead_thm {r : State} (n : Nat) (d0 d1 : Int) (h : r.thm = s.thm) : ∃ hot,
    (siteRead n d0 d1 r).thm = { s.thm with
      sites := setNth s.thm.sites n (max d0 d1), junction := siteTop (setNth s.thm.sites n (max d0 d1)), site := hot
      peak := peakWith (siteTop (setNth s.thm.sites n (max d0 d1))) s } := by
  simp only [siteRead, raiseAdelay, peakWith, h]
  exact ⟨_, rfl⟩

/-- What a reading of a site leaves in THM: the site, the junction, PEAK, and a step that does not fall (R405, R407). -/
theorem measureSite_thm (n : Nat) (d0 d1 : Int) (s : State) :
    ∃ hot step by', (measureSite n d0 d1 s).thm = { s.thm with
      sites := setNth s.thm.sites n (max d0 d1), junction := siteTop (setNth s.thm.sites n (max d0 d1)), site := hot
      peak := peakWith (siteTop (setNth s.thm.sites n (max d0 d1))) s, step := step, by' := by' } ∧
    (measureSite n d0 d1 s).thm = (thermalRise (siteRead n d0 d1 (siteNoted d0 d1 s))).thm ∧
    s.thm.step ≤ step ∧ stepOf junctionLimit (siteTop (setNth s.thm.sites n (max d0 d1))) ≤ step := by
  have hnoted : (siteNoted d0 d1 s).thm = s.thm := (proj_of_recorded State.thm (siteNoted_recorded d0 d1 s) :)
  obtain ⟨hot, hread⟩ := siteRead_thm n d0 d1 hnoted
  obtain ⟨step, by', hrise, hle, htop⟩ := thermalRise_thm (siteRead n d0 d1 (siteNoted d0 d1 s))
  have hjunction := junction_le_hottest (siteRead n d0 d1 (siteNoted d0 d1 s))
  rw [hread] at hrise hle hjunction
  have hcheck : (measureSite n d0 d1 s).thm = (thermalRise (siteRead n d0 d1 (siteNoted d0 d1 s))).thm := by
    rw [measureSite_eq]
    exact shutdownCheck_thm (peakWith_of_peak (s' := s) (by rw [hrise]))
  exact ⟨hot, step, by', hcheck.trans hrise, hcheck, hle, hjunction.trans htop⟩

/-- A reading of the junction above 158 °C takes the core power off, and no other does (R408). -/
theorem measureSite_coreOff (n : Nat) (d0 d1 : Int) (s : State) :
    (632 < (measureSite n d0 d1 s).thm.junction → (measureSite n d0 d1 s).pins.coreOff = true) ∧
    ((measureSite n d0 d1 s).thm.junction ≤ 632 → (measureSite n d0 d1 s).pins.coreOff = s.pins.coreOff) := by
  obtain ⟨_, _, _, -, hthm, -⟩ := measureSite_thm n d0 d1 s
  have hnoted : (siteNoted d0 d1 s).pins.coreOff = s.pins.coreOff :=
    (proj_of_recorded (fun u => u.pins.coreOff) (siteNoted_recorded d0 d1 s) :)
  have hcore := (thermalRise_coreOff (siteRead n d0 d1 (siteNoted d0 d1 s))).trans hnoted
  rw [hthm, measureSite_eq, ← hcore]
  exact shutdownCheck_coreOff _

/-! ### A remote input -/

theorem exec_diode (n : Fin 24) (mv : Nat) (t : Int) (s : State) : exec (.thermalMeasurement (.diode n mv t)) s =
    .next (measureInput n.val 1 (if 1000 ≤ mv then 2 else if mv ≤ 100 then 3 else 0) t s) := rfl

/-- An input declared unused, or of the other type, is not measured (R406). -/
theorem measureInput_otherType {n type : Nat} {p : SensorInput} (hp : s.img.sensors.inputs[n]? = some p)
    (h : p.type ≠ type) (bad : Nat) (t : Int) : measureInput n type bad t s = s := by
  simp [measureInput, hp, h]

/-- An input that reads open or short is marked so, and the substitute stands for its reading (R406). -/
theorem measureInput_broken {n bad : Nat} {p : SensorInput} (hlen : n < s.thm.sensors.length)
    (hp : s.img.sensors.inputs[n]? = some p) (hbad : bad ≠ 0) (t : Int) :
    sensor (measureInput n p.type bad t s) n = { sensor s n with
      st := bad, subst := true, temp := substitute s n, validRun := 0, fast := isFast s n (substitute s n) } := by
  have hread : ∀ u : State, u.thm = (modSensor n (fun x => { x with
      st := bad, subst := true, temp := substitute s n, validRun := 0, fast := isFast s n (substitute s n) }) s).thm →
      sensor (thermalRise u) n = { sensor s n with
        st := bad, subst := true, temp := substitute s n, validRun := 0, fast := isFast s n (substitute s n) } := by
    intro u hu
    rw [sensor, thermalRise_sensors, hu]
    exact getD_modNth_self _ _ _ _ hlen
  simp only [measureInput, hp, bne_self_eq_false, Bool.false_eq_true, if_false, bne_iff_ne, ne_eq, hbad, not_false_eq_true,
    if_true]
  apply hread
  split
  · rfl
  · unfold unrestore
    split
    · rfl
    · rfl

/-! ### The fall of the step -/

/-- The thermal step is one lower, and the derate step with it (R407). -/
def stepFallen (s : State) : State :=
  { s with thm := { s.thm with step := s.thm.step - 1, by' := stepBy s (s.thm.step - 1) }
           qtz := { s.qtz with thermal := s.thm.step - 1 } }

theorem exec_thermalStepFall_held (h : s.thm.step = 0 ∨ stepCool s = false) : exec .thermalStepFall s = .next s := by
  simp only [exec, execThermalStepFall]
  rcases h with h | h
  · simp [h]
  · simp [h]

theorem exec_thermalStepFall_cool (h : 0 < s.thm.step) (hcool : stepCool s = true) :
    exec .thermalStepFall s = .next (wake 6 (s.thm.step - 1) (setDerate (stepFallen s))) := by
  simp only [exec, execThermalStepFall, h, hcool, decide_true, Bool.and_self, if_true, stepFallen]

end Sys2Proof.Proofs
end

section
/-! The statement of 01_architecture on the operating point and the temperatures. -/

namespace Sys2Proof.Proofs

open Sys2Proof Sys2Proof.Machine Sys2Proof.Laws Sys2Proof.Safety

/-- Settles O23: the check of the cycle leaves the request as the reading made it (`adjusted_request`); a site's reading is
`measureSite_thm`, a broken input's `measureInput_broken`, and a fall of the step passes through the derate step and a wake,
which leave THM. -/
theorem operatingPointAndThermalReadings : Obligations.OperatingPointAndThermalReadings := by
  unfold Obligations.OperatingPointAndThermalReadings
  refine ⟨fun c s hboot hawake hv => ?_, fun s => ⟨floorMv_trim, fun h => ?_⟩,
    fun c s hboot hstate hv => ⟨fun hslow hj hd => ?_, fun hd => ?_⟩, fun n d0 d1 s hlen => ?_,
    fun n mv temp s p hlen hp => ⟨fun htype => ?_, fun htype hopen => ?_, fun htype hshort => ?_⟩,
    fun s => ⟨exec_thermalStepFall_held, fun hstep hcool => ?_⟩⟩
  · obtain ⟨d, o, hcheck⟩ := cycleCheck_sys c.toNat (adjusted c.toNat s)
    obtain ⟨v, l, cfl, hshape⟩ := adjusted_shape c.toNat s
    refine ⟨_, exec_operatingPointAdjust c hboot hawake, ?_⟩
    rw [hcheck]
    exact ⟨by rw [hshape]; rfl, adjusted_stopped c.toNat, adjusted_request c.toNat hboot hv⟩
  · rw [floorMv_other h]
    omega
  · obtain ⟨v, l, cfl, hshape⟩ := adjusted_shape c.toNat s
    have hdone := cycleCheck_adjusted_slow hboot hstate hv hslow hj hd
    refine ⟨_, cycleFault c.toNat, exec_operatingPointAdjust c hboot (by omega), ?_, rfl, ?_, ?_⟩
    · rw [hdone, setDerate_window, window_raise_noSource, hshape]
      rfl
    · rw [hdone, setDerate_sys]
      rfl
    · rw [hdone, step_setDerate]
      exact le_max_right ..
  · obtain ⟨v, l, cfl, hshape⟩ := adjusted_shape c.toNat s
    refine ⟨_, exec_operatingPointAdjust c hboot (by omega), ?_⟩
    rw [cycleCheck_ends _ (by rw [hshape]; exact hd), hshape]
    rfl
  · obtain ⟨hot, step, by', hthm, -, hle, hstep⟩ := measureSite_thm n.val d0 d1 s
    obtain ⟨hoff, hon⟩ := measureSite_coreOff n.val d0 d1 s
    have hne : setNth s.thm.sites n.val (max d0 d1) ≠ [] := by
      rw [← List.length_pos_iff_ne_nil, length_setNth]
      omega
    obtain ⟨hmem, htop⟩ := siteTop_greatest hne
    refine ⟨_, rfl, ?_⟩
    rw [hthm] at hoff hon ⊢
    exact ⟨rfl, hmem, htop, rfl, hle, hstep, rfl, hoff, hon⟩
  · rw [exec_diode, measureInput_otherType hp htype]
  · refine ⟨_, exec_diode .., ?_⟩
    rw [if_pos hopen, ← htype, measureInput_broken (by omega) hp (by decide)]
    exact ⟨rfl, rfl, rfl⟩
  · refine ⟨_, exec_diode .., ?_⟩
    rw [if_neg (by omega), if_pos hshort, ← htype, measureInput_broken (by omega) hp (by decide)]
    exact ⟨rfl, rfl, rfl⟩
  · refine ⟨_, exec_thermalStepFall_cool hstep hcool, ?_⟩
    simp only [wake_thm, wake_qtz, wake_med, wantedStep_wake, setDerate_thm, setDerate_med, setDerate_thermal,
      wantedStep_setDerate, step_setDerate, stepFallen, and_self]

end Sys2Proof.Proofs
end

section
/-! SUPPORT. What a command keeps: every command but those that move RESET_N or the test access port answers a next state
that keeps what `Keeps` lists. The commands whose meaning has branches of its own come first, by chapter. -/

namespace Sys2Proof.Laws

open Sys2Proof Sys2Proof.Machine Sys2Proof.Safety

/-- A command answers a next state, which keeps what `Keeps` lists. -/
def KeepsNext (s : State) (o : Host.Outcome State Fault Refusal) : Prop := ∃ t, o = .next t ∧ Keeps s t

theorem KeepsNext.next {s t : State} (h : Keeps s t) : KeepsNext s (.next t) := ⟨t, rfl, h⟩

theorem KeepsNext.settled {s t : State} (h : Keeps s t) : KeepsNext s (.next (settle t)) := .next (h.trans (settle_keeps t))

/-- A state with the same queue, test port, recorder and fuses, and the same addressed memories. -/
theorem Keeps.frame {s t : State} (hpending : t.pending = s.pending := by rfl) (htck : t.tck = s.tck := by rfl)
    (hobs : t.obs = s.obs := by rfl) (hfuses : t.fuses = s.fuses := by rfl)
    (hmem : BuffersOk s → BuffersOk t := by exact id) : Keeps s t :=
  ⟨hpending, htck, Nat.le_of_eq (congrArg Obs.seq hobs.symm), fun h => hobs ▸ h, hfuses ▸ FusesLe.refl _, hmem⟩

/-! ### Power, clocks and pins -/

theorem execPfailNAssert_keeps (s : State) : KeepsNext s (execPfailNAssert s) := by
  refine .next (.ite (.refl s) ?_)
  dsimp only
  split
  case h_1 => exact .trans .frame (failRun_keeps ..)
  case h_2 => exact .trans .frame (failRun_keeps ..)
  case h_3 => exact .trans .frame (.ite (stopStart_keeps _) (.refl _))
  all_goals exact .frame

theorem execPfailNRelease_keeps (s : State) : KeepsNext s (execPfailNRelease s) :=
  .next (.ite (.trans .frame (afterMarker_keeps _)) .frame)

theorem execRailOutOfTolerance_keeps (r : Rail) (s : State) : KeepsNext s (execRailOutOfTolerance r s) :=
  .next (.ite (.trans .frame (raise_keeps ..)) (.ite .frame .frame))

theorem execSysRefclkLoss_keeps (s : State) : KeepsNext s (execSysRefclkLoss s) :=
  .next (.ite (.refl s) (.ite (.trans .frame (raise_keeps ..)) .frame))

theorem execPortRefclkLoss_keeps (port : Fin 2) (s : State) : KeepsNext s (execPortRefclkLoss port s) :=
  .next (.ite (.trans .frame (.trans (raise_keeps ..) (portFails_keeps ..))) (.refl s))

theorem execAvsbusTransactionFail_keeps (s : State) : KeepsNext s (execAvsbusTransactionFail s) :=
  .next (.ite (.trans .frame (raise_keeps ..)) .frame)

theorem execOperatingPointAdjust_keeps (c : U16) (s : State) : KeepsNext s (execOperatingPointAdjust c s) :=
  .next (.trans .frame (.trans (requestTo_keeps ..) (.trans (raiseAdelay_keeps _) (cycleCheck_keeps ..))))

theorem execThermalMeasurement_keeps (m : Measure) (s : State) : KeepsNext s (execThermalMeasurement m s) := by
  cases m with
  | site => exact .next (measureSite_keeps ..)
  | diode => exact .next (measureInput_keeps ..)
  | thermistor => exact .next (measureInput_keeps ..)

theorem execThermalStepFall_keeps (s : State) : KeepsNext s (execThermalStepFall s) :=
  .next (.ite (.trans .frame (.trans (setDerate_keeps _) (wake_keeps ..))) (.refl s))

theorem execIdleTimeout_keeps (s : State) : KeepsNext s (execIdleTimeout s) := .next (.ite (enter_keeps ..) (.refl s))

theorem execTimerWake_keeps (s : State) : KeepsNext s (execTimerWake s) := .next (.ite (wake_keeps ..) (.refl s))

theorem execFrameWake_keeps (l : Fin 16) (s : State) : KeepsNext s (execFrameWake l s) :=
  .next (.ite (wake_keeps ..) (.refl s))

theorem execExitComplete_keeps (s : State) : KeepsNext s (execExitComplete s) :=
  .next (.ite (.trans (leaveDeep_keeps s) (.trans (processHeld_keeps _) (settle_keeps _))) (.refl s))

theorem execDramRequestInSelfRefresh_keeps (port : Fin 8) (s : State) : KeepsNext s (execDramRequestInSelfRefresh port s) :=
  .next (.trans (tally_keeps ..) (wake_keeps ..))

/-! ### Frames -/

/-- A frame that arrives, where its own meaning keeps what it meets. -/
theorem arrive_settled_keeps (c : Instr) (e : Env) (s : State) {k : State → State} (hk : ∀ x, Keeps x (k x)) :
    KeepsNext s (.next (settle (arrive c e k s))) := .settled (.arrive (.refl s) fun x h => h.trans (hk x))

theorem execArpRequest_keeps (l : Fin 16) (target : BitVec 32) (vlan : Option U16) (src : Source) (s : State) :
    KeepsNext s (execArpRequest l target vlan src s) :=
  .next (.arriveBare (.refl s) fun _ h => h.trans (arpRequest_keeps ..))

theorem execNeighborSolicitation_keeps (l : Fin 16) (target : BitVec 128) (vlan : Option U16) (src : Source) (s : State) :
    KeepsNext s (execNeighborSolicitation l target vlan src s) :=
  .next (.arriveBare (.refl s) fun _ h => h.trans (neighborSolicitation_keeps ..))

theorem execXoffRefresh_keeps (port : Fin 2) (s : State) : KeepsNext s (execXoffRefresh port s) :=
  .next (.ite (sendPause_keeps ..) (.refl s))

theorem execSilentlyDroppedFrame_keeps (l : Fin 16) (f : Dropped) (s : State) :
    KeepsNext s (execSilentlyDroppedFrame l f s) :=
  .next (.ite (.trans (countIn_keeps ..) (.trans (tally_keeps ..) (silentDrop_keeps ..))) (.refl s))

/-! ### Faults and media -/

theorem execInternalDeadlineMiss_keeps (src : Fin 384) (row : InternalDeadline) (step : Nat) (s : State) :
    KeepsNext s (execInternalDeadlineMiss src row step s) :=
  .next (.ite (.refl s) (.trans (raise_keeps ..) (missInternal_keeps _)))

theorem execMissSubwindowEnd_keeps (i : Option (Fin 1024)) (s : State) : KeepsNext s (execMissSubwindowEnd i s) := by
  refine .next ?_
  cases i with
  | none => exact .ite (.trans .frame (event_keeps ..)) .frame
  | some i =>
    dsimp only
    split
    · exact .refl s
    · exact .ite (.trans (setInst_keeps ..) (event_keeps ..)) (setInst_keeps ..)

theorem execZqCalibrationShort_keeps (ch : Fin 64) (ok : Bool) (s : State) : KeepsNext s (execZqCalibrationShort ch ok s) :=
  .next (.ite (retrainCh_keeps ..) (.refl s))

/-! ### DRAM -/

theorem execDramRefresh_keeps (ch : Fin 24) (onTime : Bool) (s : State) : KeepsNext s (execDramRefresh ch onTime s) :=
  .next (.ite (modCh_keeps ..) (.ite (.trans (modCh_keeps ..) (tally_keeps ..))
    (.trans (raise_keeps ..) (missInternal_keeps _))))

theorem execDramScrub_keeps (ch : Fin 24) (addr : U64) (corrected : Bool) (s : State) :
    KeepsNext s (execDramScrub ch addr corrected s) := .next (.ite (countCe_keeps ..) (.refl s))

theorem execCopyRebuildComplete_keeps (ch : Fin 24) (s : State) : KeepsNext s (execCopyRebuildComplete ch s) :=
  .next (.ite (.trans .frame (restored_keeps ..)) (.refl s))

theorem execTrainingGather_keeps (ch : Fin 24) (drift : Nat) (marginOk : Bool) (s : State) :
    KeepsNext s (execTrainingGather ch drift marginOk s) :=
  .settled (.ite (.refl s) (.trans (modCh_keeps ..) (loseDram_keeps ..)))

/-! ### Trust, code flash and Slate -/

theorem execTrngHealthWindow_keeps (repetitionOk proportionOk : Bool) (s : State) :
    KeepsNext s (execTrngHealthWindow repetitionOk proportionOk s) := .next (.ite (.refl s) (trngFail_keeps ..))

theorem execTrngRetest_keeps (pass : Bool) (s : State) : KeepsNext s (execTrngRetest pass s) :=
  .next (.ite (trngPass_keeps s) (.refl s))

theorem execMaskReseed_keeps (half : Fin 2) (s : State) : KeepsNext s (execMaskReseed half s) :=
  .next (.ite (.refl s) .frame)

theorem execCflResume_keeps (bank : Fin 2) (s : State) : KeepsNext s (execCflResume bank s) :=
  .next (.ite (cflResumeOp_keeps ..) (.refl s))

theorem execSlateStageWrite_keeps (addr v : U32) (s : State) : KeepsNext s (execSlateStageWrite addr v s) :=
  .next (.ite (stageLenWrite_keeps ..) (.ite (stageWrite_keeps ..) (regRefused_keeps ..)))

theorem execSlateDrainComplete_keeps (s : State) : KeepsNext s (execSlateDrainComplete s) := .next (.ite .frame (.refl s))

theorem execSlateDrainTimeout_keeps (s : State) : KeepsNext s (execSlateDrainTimeout s) :=
  .next (.ite (slateFail_keeps ..) (.refl s))

theorem execEpochRecordProgrammed_keeps (s : State) : KeepsNext s (execEpochRecordProgrammed s) :=
  .next (.ite .frame (.refl s))

/-! ### Every command -/

/-- The commands that move RESET_N or the instruction of the test access port, or may do so in their course (R26, R53). -/
def movesTck : Instr → Bool
  | .bypass | .idcode | .extest | .extestPulse | .extestTrain | .clamp | .highz | .resetNAssert | .coldStart _
  | .sysRefclkStable | .thermalHoldEnd | .resetNLowTimeElapsed | .dumpEndMarker | .internalColdStart _
  | .warmStart _ _ | .warmStartDeferred _ | .coldPowerUp => true
  | _ => false

/-- Every other command answers a next state and keeps what `Keeps` lists. -/
theorem exec_keeps (c : Instr) (s : State) (h : movesTck c = false) : KeepsNext s (exec c s) := by
  cases c with
  | bypass | idcode | extest | extestPulse | extestTrain | clamp | highz | resetNAssert | coldStart | sysRefclkStable
  | thermalHoldEnd | resetNLowTimeElapsed | dumpEndMarker | internalColdStart | warmStart | warmStartDeferred
  | coldPowerUp => exact absurd h nofun
  -- up frames
  | read | write | append | zoneOpen | zoneClose | zoneFinish | zoneReset | zoneReport | txnBegin | txnCommit | txnAbort
  | abort | flush | identify | counters | mailboxSend | mailboxRead | keyLoad | keyErase | keyRotate | dataFrame | regRead
  | regWrite => exact arrive_settled_keeps _ _ s (upFrame_keeps _)
  | ackFrame | probe | resend => exact arrive_settled_keeps _ _ s (ackFrame_keeps _)
  | diagIdentify | stestReport | recordRead | certRead | measure | releaseBinding | echo | linkStatus =>
    exact arrive_settled_keeps _ _ s (diagFrame_keeps _)
  | badHeaderFrame => exact arrive_settled_keeps _ _ s (badTypeFrame_keeps _ _)
  -- operations of the model, behind which what waits proceeds
  | ackDelayExpiry | gapRequestRepeat | gapTimeout | retransmissionTimeout | acceptanceInstant | twinWaitTimeout
  | keyUnwrapComplete | txnTimeout | journalPageProgrammed | nandReadComplete | cipherBlockComplete | nandProgramComplete
  | nandEraseComplete | operationLimit | dieResetTimeout | suspensionTimeout | stagingExtentTimeout | patrolScrub
  | rebuildComplete | handshakeTimeout | faultLineError | lineBroken | captureWindowClose | faultInjection
  | dramUncorrectableRead | hwtLockRelease | commitMarkProgrammed | pwrReqRun | pwrReqTrim | pwrReqDoze | pwrReqStow
  | prepare | dieSuspended | suspensionCapReached | dieResetAnswered => exact .settled (by simp)
  -- operations of the model alone
  | linkDown | linkUp | pmbAlert | shutdown | derateForce | lowWordRead | pauseFrame | retrain | flipBits
  | failProgramStatus | failEraseStatus | holdDieBusy | failTraining | firstValidClear | recordWrite | obsRdwinRead
  | obsHeadRead | bpmFreeRead | talClr | mr4Read | setPointChange | writeDataOnly | writeCheckBlockOnly | rawRead
  | cacheFillComplete | mchEnable | invall | mchLock | clean | inval | cleanInval | gracePeriodEnd | attestationRequest
  | attestationDone | installTestKey | zeroSlot | laneTest | cflProgram | cflErase | eraseBank | cflRead | verify | activate
  | cflOperationComplete | release | doorbell | check | apply | discard | powerPolicyWrite | evictionWritebackComplete =>
    exact .next (by simp)
  -- updates of a register
  | bandwidthWindowEnd | avsbusAcknowledge => exact .next .frame
  -- meanings with branches of their own
  | pfailNAssert => exact execPfailNAssert_keeps s
  | pfailNRelease => exact execPfailNRelease_keeps s
  | railOutOfTolerance => exact execRailOutOfTolerance_keeps _ s
  | sysRefclkLoss => exact execSysRefclkLoss_keeps s
  | portRefclkLoss => exact execPortRefclkLoss_keeps _ s
  | avsbusTransactionFail => exact execAvsbusTransactionFail_keeps s
  | operatingPointAdjust => exact execOperatingPointAdjust_keeps _ s
  | thermalMeasurement => exact execThermalMeasurement_keeps _ s
  | thermalStepFall => exact execThermalStepFall_keeps s
  | arpRequest => exact execArpRequest_keeps _ _ _ _ s
  | neighborSolicitation => exact execNeighborSolicitation_keeps _ _ _ _ s
  | xoffRefresh => exact execXoffRefresh_keeps _ s
  | missSubwindowEnd => exact execMissSubwindowEnd_keeps _ s
  | zqCalibrationShort => exact execZqCalibrationShort_keeps _ _ s
  | internalDeadlineMiss => exact execInternalDeadlineMiss_keeps _ _ _ s
  | dramRefresh => exact execDramRefresh_keeps _ _ s
  | trainingGather => exact execTrainingGather_keeps _ _ _ s
  | dramScrub => exact execDramScrub_keeps _ _ _ s
  | copyRebuildComplete => exact execCopyRebuildComplete_keeps _ s
  | dramRequestInSelfRefresh => exact execDramRequestInSelfRefresh_keeps _ s
  | trngHealthWindow => exact execTrngHealthWindow_keeps _ _ s
  | trngRetest => exact execTrngRetest_keeps _ s
  | maskReseed => exact execMaskReseed_keeps _ s
  | cflResume => exact execCflResume_keeps _ s
  | slateStageWrite => exact execSlateStageWrite_keeps _ _ s
  | slateDrainComplete => exact execSlateDrainComplete_keeps s
  | slateDrainTimeout => exact execSlateDrainTimeout_keeps s
  | epochRecordProgrammed => exact execEpochRecordProgrammed_keeps s
  | idleTimeout => exact execIdleTimeout_keeps s
  | timerWake => exact execTimerWake_keeps s
  | frameWake => exact execFrameWake_keeps _ s
  | exitComplete => exact execExitComplete_keeps s
  | silentlyDroppedFrame => exact execSilentlyDroppedFrame_keeps _ _ s

/-! ### A step -/

/-- A step that answers a next state is a command's, with the queue's rest, or a tick of Quartz. -/
theorem step_next {s t : State} (h : step s = .next t) :
    (∃ c rest, s.pending = c :: rest ∧ exec c { s with pending := rest } = .next t) ∨
      (s.pending = [] ∧ idleTick s = some t) := by
  unfold step at h
  split at h
  next c rest hqueue => exact .inl ⟨c, rest, hqueue, h⟩
  next hqueue =>
    split at h
    next u hidle =>
      cases h
      exact .inr ⟨hqueue, hidle⟩
    next => nomatch h

end Sys2Proof.Laws
end

section
/-! SUPPORT. The test access port across the commands that move RESET_N or its instruction (R53): each leaves the port as it
is, or RESET_N low, or an instruction that drives no ball. -/

namespace Sys2Proof.Proofs

open Sys2Proof Sys2Proof.Machine Sys2Proof.Laws Sys2Proof.Safety

variable {s t : State}

theorem TapInv.of_tck (h : TapInv s) (htck : t.tck = s.tck) : TapInv t := by
  unfold TapInv
  rwa [htck]

theorem TapInv.of_keeps (h : TapInv s) (hkeeps : Keeps s t) : TapInv t := TapInv.of_tck h hkeeps.tck

theorem TapInv.of_low (h : t.tck.resetN = false) : TapInv t := fun _ => h

theorem TapInv.of_idle (h : drivesBalls t.tck.tap = false) : TapInv t := fun hdrives => absurd (h.symm.trans hdrives) nofun

/-! ### Starts -/

/-- An assertion of RESET_N that stops a start leaves it low (R57). -/
theorem tapInv_resetCut (c : Option StartCut) (h : TapInv s) : TapInv (resetCut c s) := by
  cases c with
  | none => exact h
  | some c =>
    dsimp only [resetCut]
    split
    · exact TapInv.of_low rfl
    · exact h

/-- An assertion of RESET_N in a warm start leaves it low (R77). -/
theorem tapInv_resetWarmCut (c : Option StartCut) (h : TapInv s) : TapInv (resetWarmCut c s) := by
  cases c with
  | none => exact h
  | some c =>
    dsimp only [resetWarmCut]
    split
    · exact TapInv.of_low rfl
    · exact h

theorem tapInv_resetNow (h : TapInv s) : TapInv (resetNow s) := by
  unfold resetNow
  split
  · exact tapInv_resetCut _ (TapInv.of_keeps h (.trans (inReset_keeps s) (edgeStart_keeps ..)))
  all_goals exact TapInv.of_keeps h (inReset_keeps s)

theorem tapInv_beginWarm (cause : Nat) (w : WarmInputs) (h : TapInv s) : TapInv (beginWarm cause w s) := by
  have hentry : Keeps s (if inEntry s then endEntry 9 0 s else s) := .ite (endEntry_keeps ..) (.refl s)
  exact tapInv_resetWarmCut _ (TapInv.of_keeps h (.trans hentry (.trans (warmStart_keeps ..) (settle_keeps _))))

theorem tapInv_askWarm (cause : Nat) (w : WarmInputs) (h : TapInv s) : TapInv (askWarm cause w s) := by
  unfold askWarm
  split
  · exact TapInv.of_keeps h (deferWarm_keeps ..)
  · split
    · exact TapInv.of_keeps h (.trans (deferWarm_keeps ..) (wake_keeps ..))
    · exact tapInv_beginWarm cause w h

/-- An instruction that controls balls stands only while RESET_N is low; else BYPASS stands (R53). -/
theorem tapInv_ballInstruction (k : Tap) (s : State) : TapInv (ballInstruction k s) := by
  unfold ballInstruction
  split
  next => exact TapInv.of_idle (congrArg (fun x : Tck => drivesBalls x.tap) (notice_keeps kTest [] (setTap .bypass 0 s)).tck)
  next h =>
    refine TapInv.of_low ?_
    split
    · exact Bool.eq_false_iff.mpr h
    · exact Bool.eq_false_iff.mpr h

/-! ### The edge of RESET_N -/

/-- RESET_N has risen, and a TAP instruction that controls balls has ended (R53). -/
def risen (s : State) : State :=
  { s with tck := if drivesBalls s.tck.tap then { resetN := true, tap := .bypass, dr := 0 } else { s.tck with resetN := true } }

theorem risen_tck (s : State) : (risen s).tck.resetN = true ∧ drivesBalls (risen s).tck.tap = false := by
  dsimp only [risen]
  split
  next => exact ⟨rfl, rfl⟩
  next h => exact ⟨rfl, Bool.eq_false_iff.mpr h⟩

/-- It is what COLD_START makes of the port. -/
theorem risen_eq (s : State) : (if drivesBalls s.tck.tap then
    setTap .bypass 0 { s with tck := { s.tck with resetN := true } } else { s with tck := { s.tck with resetN := true } }) =
      risen s := by
  unfold risen
  split
  · rfl
  · rfl

theorem risen_idle (h : drivesBalls s.tck.tap = false) : risen s = { s with tck := { s.tck with resetN := true } } := by
  simp [risen, h]

/-! ### The commands -/

/-- A command answers a next state in which the test access port drives balls only with RESET_N low. -/
def TapNext (o : Host.Outcome State Fault Refusal) : Prop := ∃ t, o = .next t ∧ TapInv t

theorem TapNext.next (h : TapInv t) : TapNext (.next t) := ⟨t, rfl, h⟩

theorem execColdStart_tap (b : Board) (h : TapInv s) : TapNext (execColdStart b s) := by
  refine .next ?_
  split
  next => exact h
  next =>
    obtain ⟨-, hidle⟩ := risen_tck s
    dsimp only
    rw [risen_eq]
    generalize risen s = u at hidle ⊢
    have hstart : TapInv (resetCut b.cut (edgeStart b u)) :=
      tapInv_resetCut _ (TapInv.of_keeps (TapInv.of_idle hidle) (edgeStart_keeps b u))
    cases u.sys.boot with
    | dump => exact TapInv.of_idle hidle
    | safe => exact TapInv.of_idle hidle
    | halt => exact TapInv.of_idle hidle
    | start => exact hstart
    | run => exact hstart
    | warm => exact hstart
    | lodestone => exact hstart

/-- RESET_N falls, and what follows keeps it low. -/
theorem execResetNAssert_tap (h : TapInv s) : TapNext (execResetNAssert s) := by
  refine .next ?_
  split
  next => exact h
  next =>
    dsimp only
    split
    case h_1 => exact TapInv.of_keeps (TapInv.of_low rfl) (failRun_keeps ..)
    case h_2 => exact TapInv.of_keeps (TapInv.of_low rfl) (failRun_keeps ..)
    all_goals exact TapInv.of_low rfl

theorem execResetNLowTimeElapsed_tap (h : TapInv s) : TapNext (execResetNLowTimeElapsed s) := by
  refine .next ?_
  split
  · exact tapInv_resetNow h
  · exact h

theorem execSysRefclkStable_tap (h : TapInv s) : TapNext (execSysRefclkStable s) := by
  refine .next ?_
  dsimp only
  split
  · exact tapInv_resetCut _ (TapInv.of_keeps h (.trans .frame (.trans (heatCheck_keeps ..) (settle_keeps _))))
  all_goals exact h

theorem execThermalHoldEnd_tap (h : TapInv s) : TapNext (execThermalHoldEnd s) := by
  refine .next ?_
  split
  · split
    · exact tapInv_resetCut _ (TapInv.of_keeps h (.trans (runStart_keeps ..) (settle_keeps _)))
    · exact h
  all_goals exact h

theorem execDumpEndMarker_tap (h : TapInv s) : TapNext (execDumpEndMarker s) := by
  refine .next ?_
  split
  next => exact h
  next =>
    have hmarked : TapInv (marked s) := TapInv.of_keeps h (.trans .frame (notice_keeps kDump [] _))
    change TapInv (if (marked s).sys.resetWaits then resetNow (marked s)
      else if !(marked s).pins.pfailN then enterSafe (marked s) else afterMarker (marked s))
    split
    · exact tapInv_resetNow hmarked
    · exact TapInv.of_keeps hmarked (.ite (enterSafe_keeps _) (afterMarker_keeps _))

theorem execInternalColdStart_tap (b : Board) (h : TapInv s) : TapNext (execInternalColdStart b s) := by
  refine .next ?_
  split
  · exact tapInv_resetCut _ (TapInv.of_keeps h (.trans .frame (.trans (coldStart_keeps ..) (settle_keeps _))))
  · exact h

theorem tapInv_warmOutside (h : TapInv s) : TapInv (if s.sys.afterDump != .reopen then ignoreWarm s else s) :=
  TapInv.of_keeps h (.ite (ignoreWarm_keeps s) (.refl s))

theorem execWarmStart_tap (c : WarmCause) (w : WarmInputs) (h : TapInv s) : TapNext (execWarmStart c w s) := by
  refine .next ?_
  cases c with
  | manager v =>
    dsimp only
    split
    · exact TapInv.of_keeps h (regRefused_keeps ..)
    · split
      · exact tapInv_warmOutside h
      · split
        · exact TapInv.of_keeps h (ignoreWarm_keeps s)
        · exact tapInv_askWarm 2 w h
  | activation =>
    dsimp only
    split
    · exact tapInv_warmOutside h
    · split
      · exact TapInv.of_keeps h (ignoreWarm_keeps s)
      · exact tapInv_askWarm 3 w h

theorem execWarmStartDeferred_tap (w : WarmInputs) (h : TapInv s) : TapNext (execWarmStartDeferred w s) := by
  refine .next ?_
  split
  · exact h
  · split
    · exact tapInv_beginWarm _ w h
    · exact h

/-- Every command keeps R53: those that do not move the port by `exec_keeps`, the others one by one. -/
theorem exec_tap (c : Instr) (h : TapInv s) : TapNext (exec c s) := by
  by_cases hmoves : movesTck c = false
  · obtain ⟨t, hexec, hkeeps⟩ := exec_keeps c s hmoves
    exact ⟨t, hexec, TapInv.of_keeps h hkeeps⟩
  cases c with
  | bypass => exact .next (TapInv.of_idle rfl)
  | idcode => exact .next (TapInv.of_idle rfl)
  | extest => exact .next (tapInv_ballInstruction .extest s)
  | extestPulse => exact .next (tapInv_ballInstruction .extestPulse s)
  | extestTrain => exact .next (tapInv_ballInstruction .extestTrain s)
  | clamp => exact .next (tapInv_ballInstruction .clamp s)
  | highz => exact .next (tapInv_ballInstruction .highz s)
  | resetNAssert => exact execResetNAssert_tap h
  | coldStart b => exact execColdStart_tap b h
  | sysRefclkStable => exact execSysRefclkStable_tap h
  | thermalHoldEnd => exact execThermalHoldEnd_tap h
  | resetNLowTimeElapsed => exact execResetNLowTimeElapsed_tap h
  | dumpEndMarker => exact execDumpEndMarker_tap h
  | internalColdStart b => exact execInternalColdStart_tap b h
  | warmStart c w => exact execWarmStart_tap c w h
  | warmStartDeferred w => exact execWarmStartDeferred_tap w h
  | coldPowerUp => exact .next (TapInv.of_low rfl)
  | _ => exact absurd rfl hmoves

end Sys2Proof.Proofs
end

section
/-! SUPPORT. The balls under the test access port (R33, R53), and the faults of the rails, the clock and the regulator (R36,
R46). -/

namespace Sys2Proof.Proofs

open Sys2Proof Sys2Proof.Machine Sys2Proof.Laws Sys2Proof.Safety

variable {s : State} {c : Instr} {k : Tap}

/-! ### The test access port -/

theorem ballsReturn_idle (h : drivesBalls s.tck.tap = false) : ballsReturn s = s := if_neg (by simp [h])

theorem ballsReturn_driving (h : drivesBalls s.tck.tap = true) : ballsReturn s = pinsSafe s := if_pos h

/-- The commands that select an instruction which controls balls, each with its instruction (R53). -/
def ballCommands : List (Instr × Tap) :=
  [(.extest, .extest), (.extestPulse, .extestPulse), (.extestTrain, .extestTrain), (.clamp, .clamp), (.highz, .highz)]

theorem exec_ballCommand (h : (c, k) ∈ ballCommands) (s : State) : exec c s = .next (ballInstruction k s) := by
  simp only [ballCommands, List.mem_cons, Prod.mk.injEq, List.not_mem_nil, or_false] at h
  rcases h with ⟨rfl, rfl⟩ | ⟨rfl, rfl⟩ | ⟨rfl, rfl⟩ | ⟨rfl, rfl⟩ | ⟨rfl, rfl⟩
  all_goals rfl

theorem ballInstruction_high (k : Tap) (h : s.tck.resetN = true) :
    ballInstruction k s = notice kTest [] (setTap .bypass 0 s) := if_pos h

/-- In a dump the balls are the dump's (log entry 114). -/
theorem ballInstruction_dump (k : Tap) (h : s.tck.resetN = false) (hboot : s.sys.boot = .dump) :
    ballInstruction k s = setTap k 0 s := by
  unfold ballInstruction
  rw [if_neg (by simp [h]), if_pos hboot]

theorem ballInstruction_reset (k : Tap) (h : s.tck.resetN = false) (hboot : s.sys.boot ≠ .dump) :
    ballInstruction k s = setTap k 0 (ballsUnder k s) := by
  unfold ballInstruction
  rw [if_neg (by simp [h]), if_neg hboot]

/-! ### Rails, clock and regulator -/

/-- A rail has left tolerance. -/
def railOut (r : Rail) (s : State) : State :=
  { s with pins := { s.pins with rails := amSet s.pins.rails (railNum r) false } }

theorem exec_railOut (r : Rail) (s : State) : exec (.railOutOfTolerance r) s = .next (
    if s.pins.pfailN && (s.tck.resetN || s.sys.boot = .dump) && !s.fcl.halted then
      raise 0x170 (lineFault 0x170 10 0x1B (railNum r))
        { railOut r s with pins := { (railOut r s).pins with media := .safe, drst := false } }
    else if !s.tck.resetN && s.sys.boot = .start && r = .vccqNand then
      { railOut r s with pins := { (railOut r s).pins with media := .undriven } }
    else railOut r s) := rfl

/-- With PFAIL_N high and the device out of reset, or in a dump, a rail is a HALT fault (R36). -/
theorem exec_railOut_live (r : Rail) (hpfail : s.pins.pfailN = true) (hlive : s.tck.resetN = true ∨ s.sys.boot = .dump)
    (hrun : s.fcl.halted = false) : exec (.railOutOfTolerance r) s =
      .next (raise 0x170 (lineFault 0x170 10 0x1B (railNum r))
        { railOut r s with pins := { (railOut r s).pins with media := .safe, drst := false } }) := by
  rw [exec_railOut, if_pos (by simp [hpfail, hlive, hrun])]

/-- With PFAIL_N low only the rail's state changes, but for the NAND balls in reset (R33). -/
theorem exec_railOut_low {r : Rail} (hpfail : s.pins.pfailN = false)
    (h : s.tck.resetN = true ∨ s.sys.boot ≠ .start ∨ r ≠ .vccqNand) :
    exec (.railOutOfTolerance r) s = .next (railOut r s) := by
  have hundriven : ¬ (!s.tck.resetN && s.sys.boot = .start && r = .vccqNand) = true := by
    simp only [Bool.and_eq_true, Bool.not_eq_true', decide_eq_true_eq]
    rintro ⟨⟨hlow, hboot⟩, hrail⟩
    rcases h with h | h | h
    · exact absurd (h.symm.trans hlow) nofun
    · exact h hboot
    · exact h hrail
  rw [exec_railOut, if_neg (by simp [hpfail]), if_neg hundriven]

/-- Without VCCQ_NAND the NAND balls are undriven in reset (R33). -/
theorem exec_railOut_undriven (hpfail : s.pins.pfailN = false) (hlow : s.tck.resetN = false) (hboot : s.sys.boot = .start) :
    exec (.railOutOfTolerance .vccqNand) s = .next { railOut .vccqNand s with
      pins := { (railOut .vccqNand s).pins with media := .undriven } } := by
  rw [exec_railOut, if_neg (by simp [hpfail]), if_pos (by simp [hlow, hboot])]

theorem exec_sysRefclkLoss (s : State) : exec .sysRefclkLoss s = .next (
    if !s.pins.sysClk then s
    else if s.tck.resetN && !s.fcl.halted && s.sys.hold = .no then
      raise 0x171 (lineFault 0x171 10 0xFF 0)
        { s with pins := { s.pins with sysClk := false, media := .safe, drst := false } }
    else { s with pins := { s.pins with sysClk := false } }) := rfl

/-- The clock is lost while the device runs (R36). -/
theorem exec_sysRefclkLoss_live (hclk : s.pins.sysClk = true) (hreset : s.tck.resetN = true) (hrun : s.fcl.halted = false)
    (hhold : s.sys.hold = .no) : exec .sysRefclkLoss s = .next (raise 0x171 (lineFault 0x171 10 0xFF 0)
      { s with pins := { s.pins with sysClk := false, media := .safe, drst := false } }) := by
  rw [exec_sysRefclkLoss, if_neg (by simp [hclk]), if_pos (by simp [hreset, hrun, hhold])]

/-- One more AVSBus transaction in a row has failed (R46). -/
def avsFailed (s : State) : State := { s with sys := { s.sys with avsFails := s.sys.avsFails + 1 } }

theorem exec_avsbusTransactionFail (s : State) : exec .avsbusTransactionFail s = .next (
    if s.sys.avsFails + 1 = 3 && !s.sys.avsStopped then
      raise 0x174 (lineFault 0x174 10 0x1B 0)
        { avsFailed s with sys := { (avsFailed s).sys with avsStopped := true, vreq := s.sys.vack } }
    else avsFailed s) := rfl

theorem exec_avsbusTransactionFail_counts (h : s.sys.avsFails ≠ 2) : exec .avsbusTransactionFail s = .next (avsFailed s) := by
  rw [exec_avsbusTransactionFail, if_neg (by simp [h])]

/-- The third one stops every further request (R46). -/
theorem exec_avsbusTransactionFail_third (h : s.sys.avsFails = 2) (hgoing : s.sys.avsStopped = false) :
    exec .avsbusTransactionFail s = .next (raise 0x174 (lineFault 0x174 10 0x1B 0)
      { avsFailed s with sys := { (avsFailed s).sys with avsStopped := true, vreq := s.sys.vack } }) := by
  rw [exec_avsbusTransactionFail, if_pos (by simp [h, hgoing])]

end Sys2Proof.Proofs
end

section
/-! SUPPORT. The return to service after a dump, and the reset that has waited for its end (R42, R376). -/

namespace Sys2Proof.Proofs

open Sys2Proof Sys2Proof.Machine Sys2Proof.Laws Sys2Proof.Safety

variable {s : State}

/-- Nothing proceeds in a start. -/
theorem settle_start (h : s.sys.boot = .start) : settle s = s := if_pos (by rw [h]; rfl)

/-! ### PFAIL_N is released -/

/-- PFAIL_N is high again with every rail in tolerance (R42). -/
def powerBack (s : State) : State := { s with pins := { s.pins with pfailN := true, rails := [] } }

theorem exec_pfailNRelease_safe (hboot : s.sys.boot = .safe) (hreset : s.tck.resetN = true)
    (hwaits : s.sys.resetWaits = false) : exec .pfailNRelease s = .next (afterMarker (powerBack s)) := by
  simp only [exec, execPfailNRelease, powerBack, hboot, hreset, hwaits, decide_true, Bool.and_self, Bool.not_false, if_true]

/-- A dump under way runs on (R42). -/
theorem exec_pfailNRelease_dump (hboot : s.sys.boot = .dump) :
    exec .pfailNRelease s = .next { s with pins := { s.pins with pfailN := true } } := by
  simp [exec, execPfailNRelease, hboot]

theorem afterMarker_reopen (hafter : s.sys.afterDump = .reopen) (hrails : railsOk s = true) : afterMarker s = reopen s := by
  simp only [afterMarker, hafter, hrails, if_true]

/-! ### Acceptance opens again -/

/-- The device is in RUN again, with acceptance open and the media pins active (R42). -/
def backInRun (s : State) : State :=
  { s with
    sys := { s.sys with boot := .run, open' := true, closedWhy := 0, dumpBegun := false, dumpMarker := false
                        transport := true }
    pins := { s.pins with alive := .khz10, media := .active, drst := true } }

/-- The ports have retrained and the core request is again at what the power state allows (R21, R42). -/
def reopened (s : State) : State :=
  let u := trainImagePorts (clearRecent (backInRun s))
  requestTo (max u.sys.vreq (floorMv u)) u

/-- What a return to service changes: SYS and the pins as in RUN, the ports, the core request, and of the instances the
tasks accepted last. -/
theorem reopened_shape (s : State) : ∃ v l c e, reopened s = { backInRun s with
    sys := { (backInRun s).sys with vreq := v, vsteps := l }, cfl := c, eth := e
    insts := s.insts.map fun p => (p.1, { p.2 with recent := [] }) } := by
  obtain ⟨v, l, c, h⟩ := requestTo_shape _ (trainImagePorts (clearRecent (backInRun s)))
  exact ⟨v, l, c, _, h⟩

/-- With no change of the derate step untold, nothing is sent to the instances. -/
theorem reopen_eq (h : s.qtz.unsent = false) : reopen s = settle (reopened s) := by
  obtain ⟨v, l, c, e, hshape⟩ := reopened_shape s
  have hunsent : (reopened s).qtz.unsent = false := by rw [hshape]; exact h
  have hreopen : reopen s = settle (if (reopened s).qtz.unsent then
      notifyDerate 0 { reopened s with qtz := { (reopened s).qtz with unsent := false } } else reopened s) := rfl
  rw [hreopen, hunsent]
  rfl

/-! ### A reset that has waited -/

theorem exec_resetNLowTimeElapsed (hboot : s.sys.boot = .halt ∨ s.sys.boot = .safe) (hwaits : s.sys.resetWaits = true) :
    exec .resetNLowTimeElapsed s = .next (resetNow s) := by
  have hcond : ((s.sys.boot = .halt || s.sys.boot = .safe) && s.sys.resetWaits) = true := by simp [hboot, hwaits]
  simp only [exec, execResetNLowTimeElapsed, hcond, if_true]

/-- Where RESET_N has not risen the device stands in reset. -/
theorem resetNow_low (h : ∀ b, s.sys.hold ≠ .reset b) : resetNow s = inReset s := by
  unfold resetNow
  split
  next b hhold => exact absurd hhold (h b)
  all_goals rfl

end Sys2Proof.Proofs
end

section
/-! SUPPORT. The cold start (R37, R38, R54, R58, Table SU-14): what its step 1 leaves, what it waits for, and LODESTONE behind
a failed logic self-test (R80). -/

namespace Sys2Proof.Proofs

open Sys2Proof Sys2Proof.Machine Sys2Proof.Laws Sys2Proof.Safety

variable {s : State} {b : Board}

/-! ### Step 1 -/

theorem foldl_modDie_shape (f : Die → Die) (l : List (Nat × Nat)) (s : State) :
    ∃ m, l.foldl (fun s p => modDie p.1 f s) s = { s with med := m } := by
  induction l generalizing s with
  | nil => exact ⟨s.med, rfl⟩
  | cons p l ih =>
    obtain ⟨m, h⟩ := ih (modDie p.1 f s)
    exact ⟨m, h⟩

theorem settleSb_shape (n : Nat) (s : State) : ∃ m, settleSb n s = { s with med := m } := by
  unfold settleSb
  split
  · exact ⟨s.med, rfl⟩
  · split
    · exact ⟨s.med, rfl⟩
    · obtain ⟨m, h⟩ := foldl_modDie_shape _ _ (modSb n (fun b => { b with full := true }) s)
      exact ⟨m, h⟩

/-- Copies that a restart struck are given up in the media tables alone (R262). -/
theorem dropCopies_shape (s : State) : ∃ m, dropCopies s = { s with med := m } := by
  unfold dropCopies
  generalize List.filter _ s.med.progs = l
  induction l generalizing s with
  | nil => exact ⟨s.med, rfl⟩
  | cons p l ih =>
    obtain ⟨m, h⟩ := settleSb_shape p.2.sb { s with med := { s.med with progs := amErase s.med.progs p.1 } }
    obtain ⟨m', h'⟩ := ih (settleSb p.2.sb { s with med := { s.med with progs := amErase s.med.progs p.1 } })
    exact ⟨m', by rw [List.foldl_cons, h', h]⟩

theorem restDies_shape (s : State) : ∃ m, restDies s = { s with med := m } := by
  obtain ⟨m, h⟩ := dropCopies_shape s
  unfold restDies
  rw [h]
  exact ⟨_, rfl⟩

/-- What a cold start ends or gives up before it clears the registers (R254, R262, R289, R358). -/
def givenUp (s : State) : State :=
  restDies (endApply (cflAbandon (if applying s && s.slt.step = 7 then slateSwitch s else s)))

/-- With no Slate switch decided these are the code flash, the instances' drain and the media tables. -/
theorem givenUp_shape (h : s.slt.state ≠ 4 ∨ s.slt.step ≠ 7) : ∃ c f i m,
    givenUp s = { s with cfl := c, free := f, insts := i, med := m } := by
  have hundecided : (if applying s && s.slt.step = 7 then slateSwitch s else s) = s := if_neg (by simp [applying]; omega)
  obtain ⟨m, hrest⟩ := restDies_shape (endApply (cflAbandon s))
  rw [givenUp, hundecided, hrest, cflAbandon_shape s]
  exact ⟨_, _, _, _, rfl⟩

theorem clearVolatile_leaves (kind : Nat) (h : s.slt.state ≠ 4 ∨ s.slt.step ≠ 7) :
    (clearVolatile kind s).fuses = s.fuses ∧ (clearVolatile kind s).pins.sysClk = s.pins.sysClk := by
  have hclear : (clearVolatile kind s).fuses = (givenUp s).fuses ∧
      (clearVolatile kind s).pins.sysClk = (givenUp s).pins.sysClk := ⟨rfl, rfl⟩
  obtain ⟨c, f, i, m, hshape⟩ := givenUp_shape h
  rwa [hshape] at hclear

/-- With no Slate switch decided, step 1 leaves the fuses and the level of SYS_REFCLK. -/
theorem beginStart_leaves (kind cause : Nat) (b : Board) (h : s.slt.state ≠ 4 ∨ s.slt.step ≠ 7) :
    (beginStart kind cause b s).fuses = s.fuses ∧ (beginStart kind cause b s).pins.sysClk = s.pins.sysClk :=
  clearVolatile_leaves kind (s := { s with sys := { s.sys with kind := kind, cause := cause } }) h

theorem beginStart_tck (kind cause : Nat) (b : Board) (s : State) : (beginStart kind cause b s).tck = s.tck :=
  (beginStart_keeps kind cause b s).tck

/-- At an edge of RESET_N the straps are sampled (R38). -/
theorem straps_beginStart_edge (u s : State) (cause : Nat) (b : Board) :
    (beginStart (edgeKind u) cause b s).sys.straps = b.straps := by
  unfold edgeKind
  split
  · rfl
  · rfl

/-! ### What a start waits for -/

/-- A start that waits for SYS_REFCLK (R37). -/
def awaitingClock (b : Board) (kind : Nat) (s : State) : State := { s with sys := { s.sys with hold := .clock b kind } }

/-- Without SYS_REFCLK a start waits for it (R37). -/
theorem coldStart_noClock (kind cause : Nat) (b : Board) (h : s.slt.state ≠ 4 ∨ s.slt.step ≠ 7)
    (hclk : s.pins.sysClk = false) : coldStart kind cause b s = awaitingClock b kind (beginStart kind cause b s) :=
  if_pos (by rw [(beginStart_leaves kind cause b h).2, hclk]; rfl)

theorem coldStart_clock (kind cause : Nat) (b : Board) (h : s.slt.state ≠ 4 ∨ s.slt.step ≠ 7)
    (hclk : s.pins.sysClk = true) : coldStart kind cause b s = heatCheck b kind (beginStart kind cause b s) :=
  if_neg (by rw [(beginStart_leaves kind cause b h).2, hclk]; nofun)

/-- At or below 145 °C a start runs (R58). -/
theorem heatCheck_cool (kind : Nat) (s : State) (h : b.junction ≤ 580) :
    heatCheck b kind s = runStart b (thermalRise s) := by
  unfold heatCheck
  rw [if_neg (by omega), if_neg (by omega)]

/-- With the clock there, and at or below 145 °C, a start runs its steps behind step 1 (R54). -/
theorem coldStart_runs (kind cause : Nat) (h : s.slt.state ≠ 4 ∨ s.slt.step ≠ 7) (hclk : s.pins.sysClk = true)
    (hcool : b.junction ≤ 580) : coldStart kind cause b s = runStart b (thermalRise (beginStart kind cause b s)) := by
  rw [coldStart_clock kind cause b h hclk, heatCheck_cool _ _ hcool]

/-- A start that is held at step 2 until the junction has cooled (R58). -/
def heldHot (b : Board) (kind : Nat) (s : State) : State :=
  { s with sys := { s.sys with step := 2, hold := .thermal b kind } }

/-- Above 145 °C it is held at step 2, with one record (R58). -/
theorem heatCheck_hot (kind : Nat) (s : State) (hhot : 580 < b.junction) (hlimit : b.junction ≤ 632) :
    heatCheck b kind s = notice kStart [] (heldHot b kind s) := by
  unfold heatCheck
  rw [if_neg (by omega), if_pos hhot]
  rfl

/-- No assertion of RESET_N has stopped a start that still waits. -/
theorem resetCut_waiting {w : StartHold} (c : Option StartCut) (h : s.sys.hold = w) (hw : w ≠ .no) : resetCut c s = s := by
  cases c with
  | none => rfl
  | some c => exact if_neg (by simp [h, hw])

theorem exec_sysRefclkStable_clock {kind : Nat} (h : s.sys.hold = .clock b kind) : exec .sysRefclkStable s =
    .next (resetCut b.cut (settle (heatCheck b kind { s with pins := { s.pins with sysClk := true } }))) := by
  simp only [exec, execSysRefclkStable, h]

/-- With the clock back, a start that is too hot is held at step 2 (R37, R58). -/
theorem exec_sysRefclkStable_hot {kind : Nat} (h : s.sys.hold = .clock b kind) (hhot : 580 < b.junction)
    (hlimit : b.junction ≤ 632) (hboot : s.sys.boot = .start) : exec .sysRefclkStable s =
      .next (notice kStart [] (heldHot b kind { s with pins := { s.pins with sysClk := true } })) := by
  have hrec := notice_recorded kStart [] (heldHot b kind { s with pins := { s.pins with sysClk := true } })
  have hsys := (proj_of_recorded State.sys hrec :)
  have hstart := settle_start ((congrArg Sys.boot hsys).trans hboot)
  have hcut := resetCut_waiting b.cut (congrArg Sys.hold hsys) nofun
  rw [exec_sysRefclkStable_clock h, heatCheck_hot kind _ hhot hlimit, hstart, hcut]

theorem exec_sysRefclkStable_none (h : s.sys.hold = .no) :
    exec .sysRefclkStable s = .next { s with pins := { s.pins with sysClk := true } } := by
  simp only [exec, execSysRefclkStable, h]

theorem exec_thermalHoldEnd_held {kind : Nat} (h : s.sys.hold = .thermal b kind) : exec .thermalHoldEnd s =
    .next (if junctionCool s then resetCut b.cut (settle (runStart b s)) else s) := by
  simp only [exec, execThermalHoldEnd, h]

/-! ### The edge of RESET_N -/

/-- In reset the edge begins the cold start (R38). -/
theorem exec_coldStart_reset (b : Board) (hlow : s.tck.resetN = false) (hboot : s.sys.boot = .start) :
    exec (.coldStart b) s = .next (resetCut b.cut (settle (coldStart (edgeKind s) (edgeKind s) b (risen s)))) := by
  have hrisen : (risen s).sys.boot = .start := hboot
  simp only [exec, execColdStart, hlow, Bool.false_eq_true, if_false]
  rw [risen_eq, hrisen]
  rfl

/-- Without SYS_REFCLK the start waits, whatever would stop its steps (R37). -/
theorem exec_coldStart_noClock (b : Board) (hlow : s.tck.resetN = false) (hboot : s.sys.boot = .start)
    (hslate : s.slt.state ≠ 4 ∨ s.slt.step ≠ 7) (hclk : s.pins.sysClk = false) : exec (.coldStart b) s =
      .next (awaitingClock b (edgeKind s) (beginStart (edgeKind s) (edgeKind s) b (risen s))) := by
  have hwaits := coldStart_noClock (s := risen s) (edgeKind s) (edgeKind s) b hslate hclk
  rw [exec_coldStart_reset b hlow hboot, hwaits, settle_start rfl, resetCut_waiting (w := .clock b (edgeKind s)) _ rfl nofun]

theorem exec_internalColdStart_due (b : Board) (hboot : s.sys.boot = .start) (hafter : s.sys.afterDump = .internalCold)
    (hhigh : s.tck.resetN = true) : exec (.internalColdStart b) s = .next (resetCut b.cut (settle (coldStart 3 4 b
      { s with sys := { s.sys with reqState := 5, reqTime := s.quartz } }))) := by
  simp only [exec, execInternalColdStart, hboot, hafter, hhigh, decide_true, Bool.and_self, if_true]

/-! ### LODESTONE -/

/-- SYS, the recorder, the pins and the port modes as the device enters LODESTONE (R60, R80). -/
def lodestoneEntered (r : Reason) (step : Nat) (s : State) : State :=
  { s with
    sys := { s.sys with
      boot := .lodestone, step := step, reason := r, open' := false, transport := false, closedWhy := 0, afterDump := .reopen
      stest := { s.sys.stest with
        reason := reasonCode r, failedStep := if r = .forced || r = .strapReserved then 0 else step, startKind := s.sys.kind } }
    obs := { s.obs with useStartup := true }
    pins := { s.pins with media := .safe, drst := false, alive := .hz100 }
    eth := { s.eth with p0mode := strapMode s.sys.straps, p1mode := strapMode s.sys.straps } }

/-- Beside these the entry changes the core request, the ports' lanes and the records. -/
theorem enterLodestone_shape (r : Reason) (step : Nat) (s : State) : ∃ v l c e, Recorded { lodestoneEntered r step s with
    sys := { (lodestoneEntered r step s).sys with vreq := v, vsteps := l }, cfl := c, eth := e } (enterLodestone r step s) := by
  obtain ⟨v, l, c, hrequest⟩ := requestTo_shape 800 (lodestoneEntered r step s)
  refine ⟨v, l, c, (enterLodestone r step s).eth, ?_⟩
  have hrec := event_recorded kStart (if r = .forced then sevNotice else sevContain) noSource noInst
    [reasonCode r, if r = .forced || r = .strapReserved then 0 else step] (requestTo 800 (lodestoneEntered r step s))
  rw [hrequest] at hrec
  have henter : enterLodestone r step s = trainPorts (lodestoneLanes (event kStart
      (if r = .forced then sevNotice else sevContain) noSource noInst
      [reasonCode r, if r = .forced || r = .strapReserved then 0 else step]
      (requestTo 800 (lodestoneEntered r step s)))) := rfl
  rw [henter, hrequest]
  generalize event _ _ _ _ _ _ = u at hrec ⊢
  exact congrArg (fun z : State => { z with eth := (trainPorts (lodestoneLanes u)).eth }) hrec

theorem sys_enterLodestone (r : Reason) (step : Nat) (s : State) : ∃ v l, (enterLodestone r step s).sys =
    { (lodestoneEntered r step s).sys with vreq := v, vsteps := l } := by
  obtain ⟨v, l, c, e, h⟩ := enterLodestone_shape r step s
  exact ⟨v, l, (proj_of_recorded State.sys h :)⟩

theorem pins_enterLodestone (r : Reason) (step : Nat) (s : State) :
    (enterLodestone r step s).pins = (lodestoneEntered r step s).pins := by
  obtain ⟨v, l, c, e, h⟩ := enterLodestone_shape r step s
  exact (proj_of_recorded State.pins h :)

theorem fuses_enterLodestone (r : Reason) (step : Nat) (s : State) : (enterLodestone r step s).fuses = s.fuses := by
  obtain ⟨v, l, c, e, h⟩ := enterLodestone_shape r step s
  exact (proj_of_recorded State.fuses h :)

/-- Step 2 writes records alone. -/
theorem step2_recorded (b : Board) (s : State) : ∃ u, step2 b s = .ok u ∧ Recorded (atStep 2 s) u := by
  unfold step2
  refine ⟨_, rfl, ?_⟩
  split
  · exact Recorded.app (notice_recorded ..) (eventAt_recorded ..)
  · exact eventAt_recorded ..

theorem step3_lbist (s : State) (h : b.test.lbistOk = false) :
    step3 b s = .error { reason := .lbist, step := 3, st := atStep 3 s } := if_pos (by simp [h])

theorem fuses_drainFifo (s : State) : (drainFifo s).fuses = s.fuses := (proj_of_recorded State.fuses (drainFifo_recorded s) :)

/-- The steps end at step 3 where the logic self-test fails. -/
theorem runSteps_lbist (s : State) (h : b.test.lbistOk = false) : ∃ u, u.fuses = s.fuses ∧
    runSteps (coldSteps b) s = .error { reason := .lbist, step := 3, st := u } := by
  obtain ⟨u, hstep, hrec⟩ := step2_recorded b (drainFifo s)
  have hfuses : u.fuses = (drainFifo s).fuses := (proj_of_recorded State.fuses hrec :)
  refine ⟨atStep 3 (drainFifo u), (fuses_drainFifo u).trans (hfuses.trans (fuses_drainFifo s)), ?_⟩
  simp only [coldSteps, runSteps, hstep, step3_lbist _ h]

/-- Such a start ends in LODESTONE, and no fuse was programmed before (R70, R80). -/
theorem runStart_lbist (s : State) (h : b.test.lbistOk = false) (hcut : b.cut = none) : ∃ u, u.fuses = s.fuses ∧
    runStart b s = enterLodestone .lbist 3 u := by
  obtain ⟨straps, junction, test, nor, area, laneInv, cut⟩ := b
  cases hcut
  obtain ⟨u, hfuses, hsteps⟩ := runSteps_lbist (b := ⟨s.sys.straps, junction, test, nor, area, laneInv, none⟩)
    { s with sys := { s.sys with hold := .no } } h
  refine ⟨modStest (fun t => { t with durationUs := test.durationUs }) u, hfuses, ?_⟩
  simp only [runStart, hsteps]
  rfl

end Sys2Proof.Proofs
end

section
/-! The statements of 02_package_and_board: the test port, the starts, and the faults of power and clock. -/

namespace Sys2Proof.Proofs

open Sys2Proof Sys2Proof.Machine Sys2Proof.Laws Sys2Proof.Safety

/-- Settles O5: a command by `exec_tap`, a tick of Quartz by what it keeps. -/
theorem tapDrivesBallsOnlyInReset : Obligations.TapDrivesBallsOnlyInReset := by
  unfold Obligations.TapDrivesBallsOnlyInReset
  intro s t h hstep
  rcases step_next hstep with ⟨c, rest, -, hexec⟩ | ⟨-, hidle⟩
  · obtain ⟨u, hexec', hu⟩ := exec_tap c (s := { s with pending := rest }) h
    rw [hexec] at hexec'
    cases hexec'
    exact hu
  · exact TapInv.of_keeps h (idleTick_keeps s t hidle)

/-- Settles O10: BYPASS and IDCODE select their instruction behind `ballsReturn`; the five ball instructions are
`ballInstruction`, in its three cases. -/
theorem testPortInstructions : Obligations.TestPortInstructions := by
  unfold Obligations.TestPortInstructions
  refine ⟨fun s hidle => ?_, fun s hdrives => ?_, fun c k s hc => ?_⟩
  · have hsame := ballsReturn_idle hidle
    exact ⟨congrArg (fun u => Host.Outcome.next (setTap .bypass 0 u)) hsame,
      congrArg (fun u => Host.Outcome.next (setTap .idcode idcodeValue u)) hsame⟩
  · have hsafe := ballsReturn_driving hdrives
    exact ⟨⟨_, congrArg (fun u => Host.Outcome.next (setTap .bypass 0 u)) hsafe, rfl, media_pinsSafe, rfl, rfl, rfl⟩,
      ⟨_, congrArg (fun u => Host.Outcome.next (setTap .idcode idcodeValue u)) hsafe, rfl, media_pinsSafe, rfl, rfl, rfl⟩⟩
  · rw [exec_ballCommand hc]
    refine ⟨fun hlow hboot => ?_, fun hlow hboot => ?_, fun hhigh => ?_⟩
    · rw [ballInstruction_reset k hlow hboot]
      rfl
    · rw [ballInstruction_dump k hlow hboot]
      rfl
    · rw [ballInstruction_high k hhigh]
      rfl

/-- Settles O14: with every rail back, what follows the dump is the return to service, whose shape gives every field; a
reset that has waited leaves the device in reset while RESET_N is low. -/
theorem releaseAndResetAfterTheDump : Obligations.ReleaseAndResetAfterTheDump := by
  unfold Obligations.ReleaseAndResetAfterTheDump
  refine ⟨fun s hboot hreset hwaits hafter hunsent => ?_, fun s => exec_pfailNRelease_dump, fun s hboot hwaits hhold => ?_⟩
  · have hexec : exec .pfailNRelease s = .next (reopen (powerBack s)) := by
      rw [exec_pfailNRelease_safe hboot hreset hwaits, afterMarker_reopen (s := powerBack s) hafter rfl]
    refine ⟨reopened (powerBack s), ?_, hexec, ?_⟩
    · rw [hexec, reopen_eq (s := powerBack s) hunsent]
    · obtain ⟨v, l, c, e, hshape⟩ := reopened_shape (powerBack s)
      rw [hshape]
      exact ⟨rfl, rfl, rfl, rfl, rfl, rfl, rfl, rfl, List.map_map⟩
  · refine ⟨_, ?_, rfl, rfl, rfl, media_inReset, rfl, rfl⟩
    rw [exec_resetNLowTimeElapsed hboot hwaits, resetNow_low hhold]

/-- Settles O15: a start that waits stands where `coldStart` or `heatCheck` leaves it; one that need not wait is `runStart`
behind step 1; a failed logic self-test ends the steps at step 3. -/
theorem coldStartWaitsOrRunsItsSteps : Obligations.ColdStartWaitsOrRunsItsSteps := by
  unfold Obligations.ColdStartWaitsOrRunsItsSteps
  refine ⟨fun b s hlow hboot hclk hslate => ?_, fun b k s => ⟨fun hhold hcool hcut => ?_, fun hhold hhot hlimit hboot => ?_,
    fun hhold => ⟨fun hcool hcut => ?_, fun hwarm => ?_⟩, exec_sysRefclkStable_none⟩,
    fun b s hclk hcool hcut hslate => ⟨fun hlow hboot hidle => ?_, fun hboot hafter hhigh => ?_⟩,
    fun b s hlbist hcut => ?_⟩
  · obtain ⟨hhigh, hidle⟩ := risen_tck s
    have htck := beginStart_tck (edgeKind s) (edgeKind s) b (risen s)
    obtain ⟨hfuses, -⟩ := beginStart_leaves (s := risen s) (edgeKind s) (edgeKind s) b hslate
    exact ⟨_, exec_coldStart_noClock b hlow hboot hslate hclk, (congrArg Tck.resetN htck).trans hhigh,
      (congrArg (fun k : Tck => drivesBalls k.tap) htck).trans hidle, rfl, rfl,
      straps_beginStart_edge s (risen s) (edgeKind s) b, rfl, rfl, rfl, rfl, hfuses⟩
  · rw [exec_sysRefclkStable_clock hhold, heatCheck_cool k _ hcool, hcut]
    rfl
  · have hrec := notice_recorded kStart [] (heldHot b k { s with pins := { s.pins with sysClk := true } })
    have hsys := (proj_of_recorded State.sys hrec :)
    exact ⟨_, exec_sysRefclkStable_hot hhold hhot hlimit hboot, (congrArg Sys.boot hsys).trans hboot, congrArg Sys.step hsys,
      congrArg Sys.hold hsys, (proj_of_recorded (fun u => u.pins.sysClk) hrec :), eventAt_seq ..,
      (proj_of_recorded State.fuses hrec :), (proj_of_recorded State.insts hrec :)⟩
  · rw [exec_thermalHoldEnd_held hhold, if_pos hcool, hcut]
    rfl
  · rw [exec_thermalHoldEnd_held hhold, hwarm]
    rfl
  · have hrun := coldStart_runs (s := risen s) (edgeKind s) (edgeKind s) hslate hclk hcool
    rw [exec_coldStart_reset b hlow hboot, hrun, risen_idle hidle, hcut]
    rfl
  · have hrun := coldStart_runs (s := { s with sys := { s.sys with reqState := 5, reqTime := s.quartz } })
      3 4 hslate hclk hcool
    rw [exec_internalColdStart_due b hboot hafter hhigh, hrun, hcut]
    rfl
  · obtain ⟨u, hfuses, hstart⟩ := runStart_lbist s hlbist hcut
    obtain ⟨v, l, hsys⟩ := sys_enterLodestone .lbist 3 u
    rw [hstart, hsys, pins_enterLodestone, fuses_enterLodestone]
    exact ⟨rfl, rfl, rfl, rfl, rfl, rfl, hfuses⟩

/-- Settles O18: the alert and the shutdown raise their fault in every state; a rail, the clock and AVSBus by their case
lemmas. -/
theorem powerClockAndAvsbusFaults : Obligations.PowerClockAndAvsbusFaults := by
  unfold Obligations.PowerClockAndAvsbusFaults
  refine ⟨fun st reading r s => ⟨⟨{ lineFault 0x175 10 0x1B 0 with payload := st.toNat }, rfl, rfl, rfl, rfl⟩,
    ⟨{ lineFault 0x176 10 0x1B 0 with payload := (reading % 2 ^ 64).toNat }, rfl, rfl, rfl⟩, fun hpfail hlive hrun => ?_,
    fun hpfail => ⟨exec_railOut_low hpfail, fun hlow hboot hrail => ?_⟩, fun hclk hreset hrun hhold => ?_⟩,
    fun mv s => ⟨exec_avsbusTransactionFail_counts, fun hfails hgoing => ?_, _, rfl, rfl, rfl, rfl⟩⟩
  · exact ⟨_, rfl, rfl, rfl, exec_railOut_live r hpfail hlive hrun⟩
  · rw [hrail]
    exact exec_railOut_undriven hpfail hlow hboot
  · exact ⟨_, rfl, rfl, exec_sysRefclkLoss_live hclk hreset hrun hhold⟩
  · refine ⟨lineFault 0x174 10 0x1B 0, rfl, rfl, ?_⟩
    rw [exec_avsbusTransactionFail_third hfails hgoing]
    simp only [avsFailed, hfails]

end Sys2Proof.Proofs
end

section
/-! SUPPORT. What every command keeps beside the test access port: the commands that move RESET_N or the port's instruction
change the port, and for the rest keep what `Keeps` lists; COLD_POWER_UP alone starts the record numbers anew (R381). -/

namespace Sys2Proof.Proofs

open Sys2Proof Sys2Proof.Machine Sys2Proof.Laws Sys2Proof.Safety

variable {r s t : State}

/-- What `Keeps` lists, but for the test access port. -/
def KeepsBesidePort (s t : State) : Prop := Keeps s { t with tck := s.tck }

theorem KeepsBesidePort.of_keeps (h : Keeps s t) : KeepsBesidePort s t :=
  ⟨h.pending, rfl, h.seq, h.rings, h.fuses, h.buffers⟩

theorem KeepsBesidePort.refl (s : State) : KeepsBesidePort s s := .of_keeps (.refl s)

theorem KeepsBesidePort.trans (h : KeepsBesidePort r s) (k : KeepsBesidePort s t) : KeepsBesidePort r t :=
  ⟨k.pending.trans h.pending, rfl, Nat.le_trans h.seq k.seq, k.rings ∘ h.rings, h.fuses.trans k.fuses,
   k.buffers ∘ h.buffers⟩

/-- Operations that leave the port follow. -/
theorem KeepsBesidePort.keeps (h : KeepsBesidePort r s) (k : Keeps s t) : KeepsBesidePort r t := h.trans (.of_keeps k)

theorem KeepsBesidePort.ite {x y : State} {c : Prop} [Decidable c] (h : KeepsBesidePort s x) (k : KeepsBesidePort s y) :
    KeepsBesidePort s (if c then x else y) := by split <;> assumption

/-- A state with the same queue, recorder and fuses, and the same addressed memories. -/
theorem KeepsBesidePort.frame (hpending : t.pending = s.pending := by rfl) (hobs : t.obs = s.obs := by rfl)
    (hfuses : t.fuses = s.fuses := by rfl) (hmem : BuffersOk s → BuffersOk t := by exact id) : KeepsBesidePort s t :=
  .of_keeps (t := { t with tck := s.tck }) (.frame hpending rfl hobs hfuses hmem)

/-! ### Cuts, requests and ball instructions -/

theorem resetCut_keepsBesidePort (c : Option StartCut) (s : State) : KeepsBesidePort s (resetCut c s) := by
  cases c with
  | none => exact .refl s
  | some c => exact .ite .frame (.refl s)

theorem resetWarmCut_keepsBesidePort (c : Option StartCut) (s : State) : KeepsBesidePort s (resetWarmCut c s) := by
  cases c with
  | none => exact .refl s
  | some c => exact .ite .frame (.refl s)

theorem resetNow_keepsBesidePort (s : State) : KeepsBesidePort s (resetNow s) := by
  have hreset : KeepsBesidePort s (inReset s) := .of_keeps (inReset_keeps s)
  unfold resetNow
  split
  · exact (hreset.keeps (edgeStart_keeps ..)).trans (resetCut_keepsBesidePort ..)
  all_goals exact hreset

theorem beginWarm_keepsBesidePort (cause : Nat) (w : WarmInputs) (s : State) : KeepsBesidePort s (beginWarm cause w s) := by
  have hentry : Keeps s (if inEntry s then endEntry 9 0 s else s) := .ite (endEntry_keeps ..) (.refl s)
  exact .trans (.of_keeps (.trans hentry (.trans (warmStart_keeps ..) (settle_keeps _)))) (resetWarmCut_keepsBesidePort ..)

theorem askWarm_keepsBesidePort (cause : Nat) (w : WarmInputs) (s : State) : KeepsBesidePort s (askWarm cause w s) := by
  have hdefer : KeepsBesidePort s (deferWarm cause s) := .of_keeps (deferWarm_keeps ..)
  exact .ite hdefer (.ite (hdefer.keeps (wake_keeps ..)) (beginWarm_keepsBesidePort ..))

theorem ballInstruction_keepsBesidePort (k : Tap) (s : State) : KeepsBesidePort s (ballInstruction k s) := by
  have hbypass : KeepsBesidePort s (setTap .bypass 0 s) := .frame
  exact .ite (hbypass.keeps (notice_keeps ..)) (.trans (.ite (.refl s) (.of_keeps (ballsUnder_keeps ..))) .frame)

/-! ### The commands -/

/-- A command answers a next state, which keeps what `Keeps` lists, but for the test access port. -/
def KeepsBesidePortNext (s : State) (o : Host.Outcome State Fault Refusal) : Prop :=
  ∃ t, o = .next t ∧ KeepsBesidePort s t

theorem KeepsBesidePortNext.next (h : KeepsBesidePort s t) : KeepsBesidePortNext s (.next t) := ⟨t, rfl, h⟩

theorem execColdStart_keepsBesidePort (b : Board) (s : State) : KeepsBesidePortNext s (execColdStart b s) := by
  refine .next (.ite (.refl s) ?_)
  dsimp only
  rw [risen_eq]
  have hrisen : KeepsBesidePort s (risen s) := .frame
  have hstart : KeepsBesidePort s (resetCut b.cut (edgeStart b (risen s))) :=
    (hrisen.keeps (edgeStart_keeps ..)).trans (resetCut_keepsBesidePort ..)
  cases (risen s).sys.boot with
  | dump => exact hrisen.trans .frame
  | safe => exact hrisen.trans .frame
  | halt => exact hrisen.trans .frame
  | start => exact hstart
  | run => exact hstart
  | warm => exact hstart
  | lodestone => exact hstart

theorem execResetNAssert_keepsBesidePort (s : State) : KeepsBesidePortNext s (execResetNAssert s) := by
  refine .next (.ite (.refl s) ?_)
  dsimp only
  split
  case h_1 => exact .trans .frame (.of_keeps (failRun_keeps ..))
  case h_2 => exact .trans .frame (.of_keeps (failRun_keeps ..))
  case h_4 => exact .trans .frame (.of_keeps (inReset_keeps _))
  case h_5 => exact .trans .frame (.of_keeps (inReset_keeps _))
  all_goals exact .frame

theorem execResetNLowTimeElapsed_keepsBesidePort (s : State) : KeepsBesidePortNext s (execResetNLowTimeElapsed s) :=
  .next (.ite (resetNow_keepsBesidePort s) (.refl s))

theorem execSysRefclkStable_keepsBesidePort (s : State) : KeepsBesidePortNext s (execSysRefclkStable s) := by
  refine .next ?_
  dsimp only
  split
  · exact .trans (.of_keeps (.trans .frame (.trans (heatCheck_keeps ..) (settle_keeps _)))) (resetCut_keepsBesidePort ..)
  all_goals exact .frame

theorem execThermalHoldEnd_keepsBesidePort (s : State) : KeepsBesidePortNext s (execThermalHoldEnd s) := by
  refine .next ?_
  split
  · exact .ite (.trans (.of_keeps (.trans (runStart_keeps ..) (settle_keeps _))) (resetCut_keepsBesidePort ..)) (.refl s)
  all_goals exact .refl s

theorem execDumpEndMarker_keepsBesidePort (s : State) : KeepsBesidePortNext s (execDumpEndMarker s) := by
  have hmarked : KeepsBesidePort s (marked s) := .of_keeps (.trans .frame (notice_keeps kDump [] _))
  exact .next (.ite (.refl s) (.ite (hmarked.trans (resetNow_keepsBesidePort _))
    (.ite (hmarked.keeps (enterSafe_keeps _)) (hmarked.keeps (afterMarker_keeps _)))))

theorem execInternalColdStart_keepsBesidePort (b : Board) (s : State) : KeepsBesidePortNext s (execInternalColdStart b s) :=
  .next (.ite (.trans (.of_keeps (.trans .frame (.trans (coldStart_keeps ..) (settle_keeps _))))
    (resetCut_keepsBesidePort ..)) (.refl s))

theorem execWarmStart_keepsBesidePort (c : WarmCause) (w : WarmInputs) (s : State) :
    KeepsBesidePortNext s (execWarmStart c w s) := by
  have hignore : KeepsBesidePort s (ignoreWarm s) := .of_keeps (ignoreWarm_keeps s)
  refine .next ?_
  cases c with
  | manager v =>
    exact .ite (.of_keeps (regRefused_keeps ..)) (.ite (.ite hignore (.refl s))
      (.ite hignore (askWarm_keepsBesidePort 2 w s)))
  | activation => exact .ite (.ite hignore (.refl s)) (.ite hignore (askWarm_keepsBesidePort 3 w s))

theorem execWarmStartDeferred_keepsBesidePort (w : WarmInputs) (s : State) :
    KeepsBesidePortNext s (execWarmStartDeferred w s) := by
  refine .next ?_
  split
  · exact .refl s
  · exact .ite (beginWarm_keepsBesidePort ..) (.refl s)

/-- Every command but COLD_POWER_UP: those that do not move the port by `exec_keeps`, the others one by one. -/
theorem exec_keepsBesidePort (c : Instr) (s : State) (hpower : c ≠ .coldPowerUp) : KeepsBesidePortNext s (exec c s) := by
  by_cases hmoves : movesTck c = false
  · obtain ⟨t, hexec, hkeeps⟩ := exec_keeps c s hmoves
    exact ⟨t, hexec, .of_keeps hkeeps⟩
  cases c with
  | bypass => exact .next (.trans (.of_keeps (ballsReturn_keeps s)) .frame)
  | idcode => exact .next (.trans (.of_keeps (ballsReturn_keeps s)) .frame)
  | extest => exact .next (ballInstruction_keepsBesidePort .extest s)
  | extestPulse => exact .next (ballInstruction_keepsBesidePort .extestPulse s)
  | extestTrain => exact .next (ballInstruction_keepsBesidePort .extestTrain s)
  | clamp => exact .next (ballInstruction_keepsBesidePort .clamp s)
  | highz => exact .next (ballInstruction_keepsBesidePort .highz s)
  | resetNAssert => exact execResetNAssert_keepsBesidePort s
  | coldStart b => exact execColdStart_keepsBesidePort b s
  | sysRefclkStable => exact execSysRefclkStable_keepsBesidePort s
  | thermalHoldEnd => exact execThermalHoldEnd_keepsBesidePort s
  | resetNLowTimeElapsed => exact execResetNLowTimeElapsed_keepsBesidePort s
  | dumpEndMarker => exact execDumpEndMarker_keepsBesidePort s
  | internalColdStart b => exact execInternalColdStart_keepsBesidePort b s
  | warmStart c w => exact execWarmStart_keepsBesidePort c w s
  | warmStartDeferred w => exact execWarmStartDeferred_keepsBesidePort w s
  | coldPowerUp => exact absurd rfl hpower
  | _ => exact absurd rfl hmoves

/-- COLD_POWER_UP clears what a start clears, and no fuse is lowered with it (R32, R71). -/
theorem powerUp_fusesLe (s : State) : FusesLe s.fuses (powerUp s).fuses := (clearVolatile_keeps 0 s).fuses

/-- No command lowers a fuse. -/
theorem exec_fusesLe {c : Instr} (h : exec c s = .next t) : FusesLe s.fuses t.fuses := by
  by_cases hpower : c = .coldPowerUp
  · subst hpower
    cases h
    exact powerUp_fusesLe s
  · obtain ⟨u, hexec, hkeeps⟩ := exec_keepsBesidePort c s hpower
    rw [hexec] at h
    cases h
    exact hkeeps.fuses

end Sys2Proof.Proofs
end

section
/-! SUPPORT. DIAG requests by case: how one reaches its responder, what LODESTONE and RUN answer, and the reply as it leaves
(R71, R82, R99). -/

namespace Sys2Proof.Proofs

open Sys2Proof Sys2Proof.Machine Sys2Proof.Laws Sys2Proof.Safety

variable {s t : State} {f : DiagFrame} {p : Nat × (DiagFrame → Instr)}

/-! ### What a counted frame leaves -/

theorem sys_of_recorded (h : Recorded s t) : t.sys = s.sys := (proj_of_recorded State.sys h :)

theorem wire_of_recorded (h : Recorded s t) : t.wire = s.wire := (proj_of_recorded State.wire h :)

theorem linkPaused_of_recorded (h : Recorded s t) (l : Nat) : linkPaused t l = linkPaused s l :=
  (proj_of_recorded (fun u => linkPaused u l) h :)

theorem lodestoneTakes_of_recorded (h : Recorded s t) (f : DiagFrame) : lodestoneTakes t f = lodestoneTakes s f :=
  (proj_of_recorded (fun u => lodestoneTakes u f) h :)

theorem outerOk_of_recorded (h : Recorded s t) (e : Env) : outerOk t e = outerOk s e :=
  (proj_of_recorded (fun u => outerOk u e) h :)

theorem inst?_of_recorded (h : Recorded s t) (i : Nat) : inst? t i = inst? s i := (proj_of_recorded (fun u => inst? u i) h :)

theorem boot_of_transported (h : Transported s t) : t.sys.boot = s.sys.boot :=
  (proj_of_transported (fun u => u.sys.boot) h :)

/-! ### A request arrives -/

theorem exec_diag (h : p ∈ diagTypes) (f : DiagFrame) (s : State) :
    exec (p.2 f) s = .next (settle (arrive (p.2 f) f.env (diagFrame f) s)) := by
  simp only [diagTypes, List.mem_cons, List.not_mem_nil, or_false] at h
  rcases h with rfl | rfl | rfl | rfl | rfl | rfl | rfl | rfl
  all_goals rfl

theorem one_le_diagOp (h : p ∈ diagTypes) : 1 ≤ p.1 := by
  simp only [diagTypes, List.mem_cons, List.not_mem_nil, or_false] at h
  rcases h with rfl | rfl | rfl | rfl | rfl | rfl | rfl | rfl
  all_goals decide

/-- A frame on a link that is up is counted and handed on, while the device is awake and not in HALT. -/
theorem arrive_awake (c : Instr) (e : Env) (k : State → State) (hlink : linkUp s e.link.val = true)
    (hboot : s.sys.boot ≠ .halt) (hawake : s.pwr.state < 2) :
    arrive c e k s = k (countIn e.link.val (upBytes s e) s) := by
  have hdeep : deep (countIn e.link.val (upBytes s e) s) = false :=
    (proj_of_recorded deep (countIn_recorded ..)).trans (decide_eq_false (Nat.not_le_of_lt hawake))
  unfold arrive
  rw [if_neg (by simp [hlink, hboot])]
  exact if_pos (by rw [hdeep]; rfl)

theorem settle_lodestone (h : s.sys.boot = .lodestone) : settle s = s := if_pos (by rw [h]; rfl)

/-! ### The reply -/

/-- A frame goes out at once while no pause frame stops its link and the device is not in HALT (R88, R376). -/
theorem emit_wire {d : Down} (hboot : s.sys.boot ≠ .halt) (hpause : linkPaused s d.link = false) :
    (emit d s).wire = s.wire ++ [{ d with out := some (outHdr s d) }] := by
  unfold emit
  rw [if_neg hboot, if_neg (by simp [hpause])]
  exact (proj_of_recorded State.wire (countOut_recorded ..) :)

@[simp] theorem diagReply_transported (f : DiagFrame) (result : Nat) (data : List Byte) (s : State) :
    Transported s (diagReply f result data s) := emit_transported ..

/-- A reply leaves on the link of its request, behind the frames sent before it, and repeats OP, REQ_ID and ARG (R82). -/
theorem diagReply_sent {u : State} {op : Nat} (hop : f.op.toNat = op) (result : Nat) (data : List Byte)
    (hwire : u.wire = s.wire) (hboot : u.sys.boot ≠ .halt) (hpause : linkPaused u f.env.link.val = false) :
    ∃ d, (diagReply f result data u).wire = s.wire ++ [d] ∧ d.link = f.env.link.val ∧ d.dst = some f.env.src ∧
      d.body = .diag op result f.reqId f.arg data f.env.outer.tags := by
  subst hop
  exact ⟨_, (emit_wire hboot hpause).trans (congrArg (· ++ _) hwire), rfl, rfl, rfl⟩

/-! ### RELEASE_BINDING -/

/-- The void mark of a binding is programmed. -/
def voided (n : Nat) (s : State) : State :=
  { s with fuses := { s.fuses with bindings := modNth s.fuses.bindings n fun b => { b with void := true } } }

/-- A request is turned away, or its certificate verifies and the binding in force becomes void (R71). -/
theorem releaseBinding_cases (f : DiagFrame) (s : State) : (releaseBinding f s).2 = s ∨
    ((releaseBinding f s).1 = diagOk ∧ (f.release.any (·.sigOk)) = true ∧
      ∃ n b, bindingNow s = some (n, b) ∧ (releaseBinding f s).2 = voided n s) := by
  unfold releaseBinding
  split
  · exact .inl rfl
  · split
    next => exact .inl rfl
    next n b hbinding =>
      split
      next => exact .inl rfl
      next htaken =>
        simp only [Bool.or_eq_true, not_or, Bool.not_eq_true', Bool.not_eq_false] at htaken
        exact .inr ⟨rfl, htaken.2, n, b, hbinding, rfl⟩

theorem releaseBinding_shape (f : DiagFrame) (s : State) :
    (releaseBinding f s).2 = { s with fuses := (releaseBinding f s).2.fuses } := by
  rcases releaseBinding_cases f s with hsame | ⟨-, -, n, -, -, hvoid⟩
  · rw [hsame]
  · rw [hvoid]
    rfl

/-- The reply that tells the outcome leaves behind the frames sent before it. -/
theorem releaseReply_sent {u : State} (hop : f.op.toNat = 6) (hwire : u.wire = s.wire) (hboot : u.sys.boot ≠ .halt)
    (hpause : linkPaused u f.env.link.val = false) :
    ∃ d, (diagReply f (releaseBinding f u).1 [] (releaseBinding f u).2).wire = s.wire ++ [d] ∧
      d.body = .diag 6 (releaseBinding f u).1 f.reqId f.arg [] f.env.outer.tags := by
  rw [releaseBinding_shape]
  obtain ⟨d, hsent, -, -, hbody⟩ := diagReply_sent (u := { u with fuses := (releaseBinding f u).2.fuses }) hop
    (releaseBinding f u).1 [] hwire hboot hpause
  exact ⟨d, hsent, hbody⟩

/-! ### LODESTONE (R82) -/

/-- A request takes a place in its port's queue. -/
def queued (f : DiagFrame) (s : State) : State :=
  { s with sys := { s.sys with diagQueue := modNth s.sys.diagQueue (f.env.link.val / 8) (· + 1) } }

theorem lodestoneDiag_dropped (h : lodestoneTakes s f = false) : lodestoneDiag f s = silentDrop f.env.link.val s :=
  if_pos (by rw [h]; rfl)

theorem lodestoneDiag_full (h : lodestoneTakes s f = true) (hfull : 16 ≤ nthNat s.sys.diagQueue (f.env.link.val / 8)) :
    lodestoneDiag f s = { s with sys := { s.sys with
      stest := { s.sys.stest with diagDropped := s.sys.stest.diagDropped + 1 } } } := by
  unfold lodestoneDiag
  rw [if_neg (by simp [h])]
  exact if_pos hfull

/-- A request with a bad header is refused with a REJECT to its source (R95). -/
theorem lodestoneDiag_refused {n : Nat} (h : lodestoneTakes s f = true)
    (hroom : nthNat s.sys.diagQueue (f.env.link.val / 8) < 16) (hbad : diagHeaderBad f = some n) :
    lodestoneDiag f s = rejectNobody f.env (rejectEnv f.env 8 rjBadHeader n) (queued f s) := by
  unfold lodestoneDiag
  dsimp only
  rw [if_neg (by simp [h]), if_neg (by omega), hbad]
  rfl

theorem lodestoneDiag_answered (h : lodestoneTakes s f = true)
    (hroom : nthNat s.sys.diagQueue (f.env.link.val / 8) < 16) (hsound : diagHeaderBad f = none) :
    lodestoneDiag f s = lodestoneAnswer f (queued f s) := by
  unfold lodestoneDiag
  dsimp only
  rw [if_neg (by simp [h]), if_neg (by omega), hsound]
  rfl

theorem lodestoneAnswer_data (hlo : 1 ≤ f.op.toNat) (hhi : f.op.toNat ≤ 5) :
    lodestoneAnswer f s = diagReply f diagOk (diagData s 0xFFFE f) s := if_pos (by simp [hlo, hhi])

theorem lodestoneAnswer_release (h : f.op.toNat = 6) :
    lodestoneAnswer f s = diagReply f (releaseBinding f s).1 [] (releaseBinding f s).2 := by
  unfold lodestoneAnswer
  rw [if_neg (by simp [h])]
  exact if_pos h

theorem lodestoneAnswer_unknown (h : 7 ≤ f.op.toNat) : lodestoneAnswer f s = diagUnknown f s := by
  unfold lodestoneAnswer
  rw [if_neg (by simp; omega)]
  exact if_neg (by omega)

theorem boot_diagReply (f : DiagFrame) (result : Nat) (data : List Byte) (s : State) :
    (diagReply f result data s).sys.boot = s.sys.boot := boot_of_transported (diagReply_transported ..)

theorem boot_lodestoneAnswer (f : DiagFrame) (s : State) : (lodestoneAnswer f s).sys.boot = s.sys.boot := by
  have hrelease := congrArg (fun u => u.sys.boot) (releaseBinding_shape f s)
  unfold lodestoneAnswer
  dsimp only
  split
  · exact boot_diagReply ..
  · split
    · exact (boot_diagReply ..).trans hrelease
    · exact boot_diagReply ..

theorem boot_lodestoneDiag (f : DiagFrame) (s : State) : (lodestoneDiag f s).sys.boot = s.sys.boot := by
  unfold lodestoneDiag
  dsimp only
  split
  · exact boot_of_transported (silentDrop_transported ..)
  · split
    · rfl
    · split
      · exact (boot_of_transported (rejectNobody_transported ..) :)
      · exact boot_lodestoneAnswer ..

/-- In LODESTONE a request is counted, and the responder gets it. -/
theorem exec_diag_lodestone (h : p ∈ diagTypes) (hboot : s.sys.boot = .lodestone) (hawake : s.pwr.state < 2)
    (hlink : linkUp s f.env.link.val = true) :
    exec (p.2 f) s = .next (lodestoneDiag f (countIn f.env.link.val (upBytes s f.env) s)) := by
  have hcounted : (countIn f.env.link.val (upBytes s f.env) s).sys.boot = .lodestone :=
    (congrArg Sys.boot (sys_of_recorded (countIn_recorded ..))).trans hboot
  rw [exec_diag h, arrive_awake _ _ _ hlink (by rw [hboot]; nofun) hawake, diagFrame, if_pos hcounted,
    settle_lodestone ((boot_lodestoneDiag ..).trans hcounted)]

/-! ### RUN (R99) -/

/-- In RUN a request is counted, and answered behind R89 and R270; then what waits proceeds. -/
theorem exec_diag_run (h : p ∈ diagTypes) (hboot : s.sys.boot = .run) (hawake : s.pwr.state < 2)
    (hlink : linkUp s f.env.link.val = true) :
    exec (p.2 f) s = .next (settle (runDiag f (countIn f.env.link.val (upBytes s f.env) s))) := by
  have hcounted : (countIn f.env.link.val (upBytes s f.env) s).sys.boot = .run :=
    (congrArg Sys.boot (sys_of_recorded (countIn_recorded ..))).trans hboot
  rw [exec_diag h, arrive_awake _ _ _ hlink (by rw [hboot]; nofun) hawake, diagFrame, if_neg (by rw [hcounted]; nofun),
    if_pos hcounted]

theorem runDiag_unbound {x : Inst} (houter : outerOk s f.env = true) (hinst : inst? s 0 = some x)
    (h : x.params.sources.any (sourceMatch f.env.src) = false) : runDiag f s = s := by
  unfold runDiag
  rw [if_neg (by simp [houter]), if_pos (by simp [hinst, h])]

theorem runDiag_bound {x : Inst} (houter : outerOk s f.env = true) (hinst : inst? s 0 = some x)
    (h : x.params.sources.any (sourceMatch f.env.src) = true) (hsound : diagHeaderBad f = none) :
    runDiag f s = runAnswer f s := by
  unfold runDiag
  rw [if_neg (by simp [houter]), if_neg (by simp only [hinst, Option.any_some, h]; nofun), hsound]

theorem runAnswer_data (hlo : 1 ≤ f.op.toNat) (hhi : f.op.toNat ≤ 5) :
    runAnswer f s = diagReply f diagOk (diagData s 0xFFFF f) s := if_pos (by simp [hlo, hhi])

theorem runAnswer_release (h : f.op.toNat = 6) : runAnswer f s = diagReply f diagNotPermitted [] s := by
  simp [runAnswer, h]

theorem runAnswer_echo (h : f.op.toNat = 7) : runAnswer f s = diagReply f diagOk (diagBytes f) s := by
  simp [runAnswer, h]

theorem runAnswer_linkStatus (h : f.op.toNat = 8) : runAnswer f s = diagReply f diagOk
    (leBytes 4 (s.eth.up + s.eth.wentDown * 2 ^ 16) ++ (drawBytes 16 s).1) (drawBytes 16 s).2 := by
  simp [runAnswer, h]

theorem drawBytes_length (n : Nat) (s : State) : (drawBytes n s).1.length = n := by simp [drawBytes]

end Sys2Proof.Proofs
end

section
/-! The statements of 03_startup: the fuses, and the DIAG requests. -/

namespace Sys2Proof.Proofs

open Sys2Proof Sys2Proof.Machine Sys2Proof.Laws Sys2Proof.Safety

/-- Settles O9: a command by `exec_fusesLe`, a tick of Quartz by what it keeps. -/
theorem fusesNeverGoBack : Obligations.FusesNeverGoBack := by
  unfold Obligations.FusesNeverGoBack
  intro s t hstep
  rcases step_next hstep with ⟨c, rest, -, hexec⟩ | ⟨-, hidle⟩
  · exact exec_fusesLe (s := { s with pending := rest }) hexec
  · exact (idleTick_keeps s t hidle).fuses

/-- Settles O36: the request is counted, and each responder answers by its case lemmas; a reply leaves by `diagReply_sent`. -/
theorem diagRequestsAreAnswered : Obligations.DiagRequestsAreAnswered := by
  unfold Obligations.DiagRequestsAreAnswered
  refine ⟨fun p f s r q hp hop hboot hawake hlink hr => ?_, fun p f s r x hp hop hboot hawake hlink houter hinst hr => ?_,
    releaseBinding_cases⟩
  · have hrec : Recorded s r := hr ▸ countIn_recorded ..
    have hsys := sys_of_recorded hrec
    have hwire := wire_of_recorded hrec
    have hpause := linkPaused_of_recorded hrec f.env.link.val
    have htakes := lodestoneTakes_of_recorded hrec f
    have hlive : r.sys.boot ≠ .halt := by rw [hsys, hboot]; nofun
    rw [exec_diag_lodestone hp hboot hawake hlink, ← hr]
    refine ⟨fun hdrop => ?_, fun htake hfull => ?_, fun htake hroom hq => ?_⟩
    · rw [lodestoneDiag_dropped (htakes.trans hdrop)]
    · rw [lodestoneDiag_full (htakes.trans htake) (hsys ▸ hfull)]
    · obtain rfl : q = queued f r := hq
      replace htake := htakes.trans htake
      replace hroom := hsys ▸ hroom
      refine ⟨fun n hbad => by rw [lodestoneDiag_refused htake hroom hbad], fun hsound hdata => ?_,
        fun hsound hrelease => ?_, fun hsound hunknown => ?_⟩
      · rw [lodestoneDiag_answered htake hroom hsound, lodestoneAnswer_data (hop ▸ one_le_diagOp hp) (hop ▸ hdata)]
        refine ⟨rfl, fun hfree => ?_⟩
        obtain ⟨d, hsent, hon, hto, hbody⟩ := diagReply_sent (u := queued f r) hop diagOk (diagData (queued f r) 0xFFFE f)
          hwire hlive (hpause.trans hfree)
        exact ⟨_, d, rfl, hsent, hon, hto, hbody, diagReply_transported ..⟩
      · have hop6 : f.op.toNat = 6 := hop.trans hrelease
        rw [lodestoneDiag_answered htake hroom hsound, lodestoneAnswer_release hop6]
        refine ⟨rfl, fun hfree => ?_⟩
        obtain ⟨d, hsent, hbody⟩ := releaseReply_sent (u := queued f r) hop6 hwire hlive (hpause.trans hfree)
        exact ⟨_, d, rfl, hsent, hbody, (proj_of_transported State.fuses (diagReply_transported ..) :)⟩
      · rw [lodestoneDiag_answered htake hroom hsound, lodestoneAnswer_unknown (hop ▸ hunknown)]
        rfl
  · have hrec : Recorded s r := hr ▸ countIn_recorded ..
    have hwire := wire_of_recorded hrec
    have hpause := linkPaused_of_recorded hrec f.env.link.val
    have hlive : r.sys.boot ≠ .halt := by rw [sys_of_recorded hrec, hboot]; nofun
    replace houter := (outerOk_of_recorded hrec f.env).trans houter
    replace hinst := (inst?_of_recorded hrec 0).trans hinst
    rw [exec_diag_run hp hboot hawake hlink, ← hr]
    refine ⟨fun hunbound => by rw [runDiag_unbound houter hinst hunbound], fun hbound hsound => ?_⟩
    rw [runDiag_bound houter hinst hbound hsound]
    refine ⟨fun hdata => ?_, fun hrelease => ?_, fun hecho => ?_, fun hstatus => ?_⟩
    · rw [runAnswer_data (hop ▸ one_le_diagOp hp) (hop ▸ hdata)]
    · rw [runAnswer_release (hop.trans hrelease)]
    · have hop7 : f.op.toNat = 7 := hop.trans hecho
      rw [runAnswer_echo hop7]
      refine ⟨rfl, fun hfree => ?_⟩
      obtain ⟨d, hsent, hon, hto, hbody⟩ := diagReply_sent hop7 diagOk (diagBytes f) hwire hlive (hpause.trans hfree)
      exact ⟨_, d, rfl, hsent, hon, hto, hbody, Transported.trans (Recorded.transported hrec) (diagReply_transported ..)⟩
    · have hop8 : f.op.toNat = 8 := hop.trans hstatus
      have heth : r.eth = s.eth := (proj_of_recorded State.eth hrec :)
      have hcount : r.free = s.free := (proj_of_recorded State.free hrec :)
      rw [← heth, ← hcount, runAnswer_linkStatus hop8, drawBytes_snd]
      refine ⟨(drawBytes 16 r).1, drawBytes_length .., rfl, fun hfree => ?_⟩
      obtain ⟨d, hsent, hon, hto, hbody⟩ := diagReply_sent (u := { r with free := r.free + 1 }) hop8 diagOk
        (leBytes 4 (r.eth.up + r.eth.wentDown * 2 ^ 16) ++ (drawBytes 16 r).1) hwire hlive (hpause.trans hfree)
      exact ⟨_, d, rfl, hsent, hon, hto, hbody⟩

end Sys2Proof.Proofs
end

section
/-! SUPPORT. Links and ports by case (R87, R111, Table AR-9), the frames of priority flow control (R88), frames that are dropped
silently, and address resolution (R89, R91). -/

namespace Sys2Proof.Proofs

open Sys2Proof Sys2Proof.Machine Sys2Proof.Laws Sys2Proof.Safety

variable {s t : State} {l : Nat}

/-! ### Links (R87, R111) -/

/-- The state of a link that has gone down, before anyone is told (R87). -/
def linkLost (l : Nat) (s : State) : State :=
  { s with eth := { s.eth with up := setBit s.eth.up l false, wentDown := setBit s.eth.wentDown l true } }

/-- The state of a link that has come up, before anyone is told: its port's clock runs (R87; log entry 31). -/
def linkBack (l : Nat) (s : State) : State :=
  { s with eth := { s.eth with up := setBit s.eth.up l true }
           pins := { s.pins with portClk := setNth s.pins.portClk (l / 8) true } }

theorem linkUp_linkLost (l n : Nat) (s : State) : linkUp (linkLost l s) n = if n = l then false else linkUp s n :=
  setBit_testBit s.eth.up l n false

theorem loseLink_silent (hup : linkUp s l = true) (hengine : s.sys.transport = false) : loseLink l s = linkLost l s := by
  unfold loseLink
  rw [if_neg (by simp [hup])]
  exact if_pos (by simp [hengine])

theorem linkDown_absent (h : linkUp s l = false) : linkDown l s = s := if_pos (by simp [h])

theorem linkUp_loseLink (hup : linkUp s l = true) (n : Nat) :
    linkUp (loseLink l s) n = if n = l then false else linkUp s n :=
  (proj_of_transported (fun u => linkUp u n) (loseLink_shape l s hup) :).trans (linkUp_linkLost l n s)

theorem boot_loseLink (hup : linkUp s l = true) : (loseLink l s).sys.boot = s.sys.boot :=
  (proj_of_transported (fun u => u.sys.boot) (loseLink_shape l s hup) :)

theorem unrestored_loseLink (hup : linkUp s l = true) : (loseLink l s).fcl.unrestored = s.fcl.unrestored :=
  (proj_of_transported (fun u => u.fcl.unrestored) (loseLink_shape l s hup) :)

theorem portDark_loseLink (hup : linkUp s l = true) :
    portDark (loseLink l s) (l / 8) = true ↔ ∀ n ∈ portLinks (l / 8), n ≠ l → linkUp s n = false := by
  simp only [portDark, List.all_eq_true, linkUp_loseLink hup]
  refine forall₂_congr fun n _ => ?_
  by_cases h : n = l <;> simp [h]

/-- The link goes down and its port does not fail with it. -/
theorem linkDown_alone (hup : linkUp s l = true) (h : s.sys.boot ≠ .run ∨ portDark (loseLink l s) (l / 8) = false) :
    linkDown l s = loseLink l s := by
  unfold linkDown
  rw [if_neg (by simp [hup])]
  exact if_neg (by rcases h with h | h <;> simp [boot_loseLink hup, h])

/-- The last link of a port goes down in RUN: the port fails as a host port (Table AR-9; log entry 31). -/
theorem linkDown_last (hup : linkUp s l = true) (hboot : s.sys.boot = .run) (hdark : portDark (loseLink l s) (l / 8) = true)
    (hclock : portSource (l / 8) true ∉ s.fcl.unrestored) :
    linkDown l s = unrestore (0x12C + l / 8)
      (raise (0x12C + l / 8) (lineFault (0x12C + l / 8) 10 0x13 l) (loseLink l s)) := by
  unfold linkDown
  rw [if_neg (by simp [hup])]
  exact if_pos (by simp [boot_loseLink hup, unrestored_loseLink hup, hboot, hdark, hclock])

theorem linkReturns_not (h : linkUp s l = true ∨ linkExists s l = false) : linkReturns l s = s :=
  if_pos (by rcases h with h | h <;> simp [h])

/-- No part of a port waits for its restoration. -/
theorem portReturns_whole (p : Nat) (h : s.fcl.unrestored = []) : portReturns p s = s := by
  simp [portReturns, h]

theorem linkReturns_silent (hdown : linkUp s l = false) (hexists : linkExists s l = true) (hboot : s.sys.boot ≠ .halt)
    (hwhole : s.fcl.unrestored = []) (hengine : s.sys.transport = false) : linkReturns l s = linkBack l s := by
  unfold linkReturns
  rw [if_neg (by simp [hdown, hexists, hboot])]
  exact (congrArg (portReturns (l / 8)) (if_neg (by simp [hengine]))).trans (portReturns_whole _ hwhole)

theorem linkReturns_told (hdown : linkUp s l = false) (hexists : linkExists s l = true) (hboot : s.sys.boot ≠ .halt)
    (hwhole : s.fcl.unrestored = []) (hengine : s.sys.transport = true) :
    linkReturns l s = notifyLink 0x0002 l (linkBack l s) := by
  unfold linkReturns
  rw [if_neg (by simp [hdown, hexists, hboot])]
  refine (congrArg (portReturns (l / 8)) (if_pos hengine)).trans (portReturns_whole _ ?_)
  exact (proj_of_transported (fun u => u.fcl.unrestored) (notifyLink_transported ..) :).trans hwhole

/-! ### The port's clock (Table PK-7) -/

theorem exec_portRefclkLoss_absent {p : Fin 2} (h : s.pins.portClk.getD p.val true = false) :
    exec (.portRefclkLoss p) s = .next s := congrArg Host.Outcome.next (if_neg (by rw [h]; nofun))

theorem exec_portRefclkLoss_present {p : Fin 2} (h : s.pins.portClk.getD p.val true = true) :
    exec (.portRefclkLoss p) s = .next (unrestore (0x172 + p.val) (darkenPort p.val
      (raise (0x172 + p.val) (lineFault (0x172 + p.val) 10 0xFF p.val)
        { s with pins := { s.pins with portClk := setNth s.pins.portClk p.val false } }))) :=
  congrArg Host.Outcome.next (if_pos h)

/-- The MAC of a port and its reference clock fault with DEGRADE (Table FE-2). -/
theorem defaultSev_port {p : Nat} (h : p < 2) :
    defaultSev (0x12C + p) = sevDegrade ∧ defaultSev (0x172 + p) = sevDegrade := by
  obtain rfl | rfl : p = 0 ∨ p = 1 := by omega
  all_goals decide

/-! ### Priority flow control (R88) -/

theorem transmit_wire (d : Down) (s : State) : (transmit d s).wire = s.wire ++ [{ d with out := some (outHdr s d) }] :=
  (proj_of_recorded State.wire (countOut_recorded ..) :)

/-- The pause frame of a link (R88). -/
def pauseDown (xoff : Bool) (s : State) (l : Nat) : Down :=
  { link := l, flags := 0, inst := 0, slot := 0, seq := 0, ack := 0, block := 0, time := now32 s, echo := 0
    incarn := s.sys.incarn, body := .pause (pauseQuanta xoff) (pfcPriority s), trailer := none, dst := none, buf := none
    out := none }

/-- Pause frames leave on some links. -/
def pauseLinks (xoff : Bool) (ls : List Nat) (s : State) : State :=
  ls.foldl (fun s l => transmit (pauseDown xoff s l) s) s

theorem pauseLinks_transported (xoff : Bool) (ls : List Nat) (s : State) : Transported s (pauseLinks xoff ls s) :=
  Transported.foldl rfl fun _ _ h => Transported.app (transmit_transported ..) h

/-- Each of the links has its pause frame, and no frame sent before is taken back. -/
theorem pauseLinks_wire (xoff : Bool) (ls : List Nat) (s : State) : (∀ d ∈ s.wire, d ∈ (pauseLinks xoff ls s).wire) ∧
    ∀ n ∈ ls, ∃ d ∈ (pauseLinks xoff ls s).wire, d.link = n ∧ d.body = .pause (pauseQuanta xoff) (pfcPriority s) := by
  induction ls generalizing s with
  | nil => exact ⟨fun _ h => h, fun _ h => nomatch h⟩
  | cons l ls ih =>
    obtain ⟨hkept, hsent⟩ := ih (transmit (pauseDown xoff s l) s)
    rw [transmit_wire] at hkept
    refine ⟨fun d hd => hkept d (List.mem_append_left _ hd), fun n hn => ?_⟩
    rcases List.mem_cons.mp hn with rfl | hn
    · exact ⟨_, hkept _ (List.mem_append_right _ (List.mem_singleton_self _)), rfl, rfl⟩
    · obtain ⟨d, hd, hlink, hbody⟩ := hsent n hn
      have hprio := (proj_of_transported pfcPriority (transmit_transported (pauseDown xoff s l) s) :)
      exact ⟨d, hd, hlink, hbody.trans (congrArg _ hprio)⟩

theorem sendPause_eq (p : Nat) (xoff : Bool) (s : State) :
    sendPause p xoff s = pauseLinks xoff ((portLinks p).filter (linkUp s)) s := rfl

theorem exec_xoffRefresh_sends {port : Fin 2} (hpfc : pfcOn s = true) (hboot : s.sys.boot ≠ .halt)
    (hxoff : s.pins.xoff.getD port.val false = true) (hshort : landingShort s port.val = true) :
    exec (.xoffRefresh port) s = .next (pauseLinks true ((portLinks port.val).filter (linkUp s)) s) :=
  congrArg Host.Outcome.next ((if_pos (by simp only [hpfc, hxoff, hshort, bne_iff_ne.mpr hboot, Bool.and_self])).trans
    (sendPause_eq ..))

theorem exec_xoffRefresh_idle {port : Fin 2} (h : s.pins.xoff.getD port.val false = false ∨ landingShort s port.val = false) :
    exec (.xoffRefresh port) s = .next s :=
  congrArg Host.Outcome.next (if_neg (by rcases h with h | h <;> simp only [h, Bool.and_false, Bool.false_and] <;> nofun))

theorem pfcOn_counted (l bytes : Nat) (s : State) : pfcOn (countIn l bytes s) = pfcOn s :=
  (proj_of_recorded pfcOn (countIn_recorded ..) :)

theorem pfcPriority_counted (l bytes : Nat) (s : State) : pfcPriority (countIn l bytes s) = pfcPriority s :=
  (proj_of_recorded pfcPriority (countIn_recorded ..) :)

/-- A pause frame is counted on its link and judged behind that (R88, R89). -/
theorem pauseFrame_up {priority quanta : Nat} (hup : linkUp s l = true) : pauseFrame l priority quanta s =
    if pfcOn s = false then silentDrop l (countIn l 64 s)
    else if priority ≠ pfcPriority s then countIn l 64 s
    else if quanta = 0 then flushPaused l (countIn l 64 s)
    else { countIn l 64 s with pins := { (countIn l 64 s).pins with
      paused := amSet (countIn l 64 s).pins.paused l ((countIn l 64 s).quartz + pauseNs (countIn l 64 s) l quanta) } } := by
  unfold pauseFrame
  rw [if_neg (by simp [hup])]
  simp only [pfcOn_counted, pfcPriority_counted, Bool.not_eq_true', bne_iff_ne]

/-- The link stops for the quanta of a pause frame (R88; the quantum is log entry 64's). -/
theorem pauseFrame_stops {priority quanta : Nat} (hup : linkUp s l = true) (hpfc : pfcOn s = true)
    (hprio : priority = pfcPriority s) (hquanta : quanta ≠ 0) :
    amGet? (pauseFrame l priority quanta s).pins.paused l = some (s.quartz + pauseNs s l quanta) ∧
    Recorded { s with pins := { s.pins with paused := (pauseFrame l priority quanta s).pins.paused } }
      (pauseFrame l priority quanta s) := by
  have hrec := countIn_recorded l 64 s
  have htime : (countIn l 64 s).quartz + pauseNs (countIn l 64 s) l quanta = s.quartz + pauseNs s l quanta :=
    (proj_of_recorded (fun u => u.quartz + pauseNs u l quanta) hrec :)
  rw [pauseFrame_up hup, if_neg (by simp [hpfc]), if_neg (by simp [hprio]), if_neg hquanta, htime]
  generalize countIn l 64 s = u at hrec
  refine ⟨amGet?_amSet_self .., ?_⟩
  exact congrArg (fun z : State => { z with pins := { z.pins with
    paused := amSet u.pins.paused l (s.quartz + pauseNs s l quanta) } }) hrec

/-! ### Frames that the device drops silently (R89, R115, R390) -/

/-- Records on either side of a change of the Ethernet block. -/
theorem withEth_recorded {f : Eth → Eth} (h : Recorded s t) : Recorded { s with eth := f s.eth } { t with eth := f t.eth } :=
  (congrArg (fun z : State => { z with eth := f z.eth }) h :)

/-- A frame that is counted and then dropped silently moves the counts of silent drops, and records. -/
theorem silentDrop_shape (l : Nat) {u : State} (hrec : Recorded s u) : ∃ n ovf,
    Recorded { s with eth := { s.eth with silent := n, ovfSilent := ovf } } (silentDrop l u) := by
  unfold silentDrop
  dsimp only
  generalize (u.eth.silent + 1) % 2 ^ 32 = n
  generalize (u.eth.ovfSilent || decide (u.eth.silent = 0xFFFFFFFF)) = ovf
  have hcounted := withEth_recorded (f := fun e => { e with silent := n, ovfSilent := ovf }) hrec
  refine ⟨n, ovf, Recorded.app (tally_recorded ..) ?_⟩
  split
  · exact Recorded.app (notice_recorded ..) hcounted
  · exact hcounted

theorem exec_silentlyDroppedFrame_up {l : Fin 16} (f : Dropped) (hup : linkUp s l.val = true) : ∃ t,
    exec (.silentlyDroppedFrame l f) s = .next t ∧
      Recorded { s with eth := { s.eth with silent := t.eth.silent, ovfSilent := t.eth.ovfSilent } } t := by
  obtain ⟨n, ovf, hrec⟩ := silentDrop_shape l.val (Recorded.app
    (tally_recorded noInst 0x0100 (8 * l.val + 6) f.badCodewords _) (countIn_recorded l.val f.bytes.toNat s))
  refine ⟨_, congrArg Host.Outcome.next (if_pos hup), ?_⟩
  have heth := (proj_of_recorded State.eth hrec :)
  rw [heth]
  exact hrec

/-! ### Address resolution (R89, R91) -/

/-- A frame without an ETP header is counted on its link and handed on, while the device is awake. -/
theorem arriveBare_awake (c : Instr) (l bytes : Nat) (k : State → State) (hup : linkUp s l = true)
    (hboot : s.sys.boot ≠ .halt) (hawake : s.pwr.state < 2) : arriveBare c l bytes k s = k (countIn l bytes s) := by
  have hdeep : deep (countIn l bytes s) = false :=
    (proj_of_recorded deep (countIn_recorded ..)).trans (decide_eq_false (Nat.not_le_of_lt hawake))
  unfold arriveBare
  rw [if_neg (by simp [hup, hboot])]
  exact if_pos (by rw [hdeep]; rfl)

theorem exec_arpRequest (l : Fin 16) (a : BitVec 32) (vlan : Option U16) (src : Source) (hup : linkUp s l.val = true)
    (hboot : s.sys.boot = .run) (hawake : s.pwr.state < 2) :
    exec (.arpRequest l a vlan src) s = .next (arpRequest l.val a vlan src (countIn l.val 64 s)) :=
  congrArg Host.Outcome.next (arriveBare_awake _ _ _ _ hup (by rw [hboot]; nofun) hawake)

theorem exec_neighborSolicitation (l : Fin 16) (b : BitVec 128) (vlan : Option U16) (src : Source)
    (hup : linkUp s l.val = true) (hboot : s.sys.boot = .run) (hawake : s.pwr.state < 2) :
    exec (.neighborSolicitation l b vlan src) s = .next (neighborSolicitation l.val b vlan src (countIn l.val 90 s)) :=
  congrArg Host.Outcome.next (arriveBare_awake _ _ _ _ hup (by rw [hboot]; nofun) hawake)

/-- In RUN an ARP request for the link's own address under the VLAN rule is answered, any other is dropped silently; an
address of 0 is none (R89, R91; log entry 34). -/
theorem arpRequest_run {u : State} (hrec : Recorded s u) (hboot : s.sys.boot = .run) (l : Nat) (a : BitVec 32)
    (vlan : Option U16) (src : Source) : arpRequest l a vlan src u =
      if vlanOk s vlan = true ∧ linkIp4 s l = some a ∧ a ≠ 0 then answer l (.arp a) src u else silentDrop l u := by
  have hvlan : vlanOk u vlan = vlanOk s vlan := (proj_of_recorded (fun v => vlanOk v vlan) hrec :)
  have hip : linkIp4 u l = linkIp4 s l := (proj_of_recorded (fun v => linkIp4 v l) hrec :)
  simp [arpRequest, sys_of_recorded hrec, hboot, hvlan, hip, and_assoc]

/-- The same of a neighbor solicitation (R91; log entry 34). -/
theorem neighborSolicitation_run {u : State} (hrec : Recorded s u) (hboot : s.sys.boot = .run) (l : Nat)
    (b : BitVec 128) (vlan : Option U16) (src : Source) : neighborSolicitation l b vlan src u =
      if vlanOk s vlan = true ∧ linkIp6 s l = some b ∧ b ≠ 0 then answer l (.neighbor b) src u else silentDrop l u := by
  have hvlan : vlanOk u vlan = vlanOk s vlan := (proj_of_recorded (fun v => vlanOk v vlan) hrec :)
  have hip : linkIp6 u l = linkIp6 s l := (proj_of_recorded (fun v => linkIp6 v l) hrec :)
  simp [neighborSolicitation, sys_of_recorded hrec, hboot, hvlan, hip, and_assoc]

/-- The frame of an answer outside the sequence spaces. -/
def answerDown (l : Nat) (body : Body) (dst : Source) (s : State) : Down :=
  { link := l, flags := 0, inst := 0, slot := 0, seq := 0, ack := 0, block := 0, time := now32 s, echo := 0
    incarn := s.sys.incarn, body := body, trailer := none, dst := some dst, buf := none, out := none }

/-- An answer leaves on the link of its request, to the sender it came from (R91). -/
theorem answer_sent {u : State} (hrec : Recorded s u) (hboot : s.sys.boot = .run) {l : Nat}
    (hfree : linkPaused s l = false) (body : Body) (src : Source) : ∃ d, (answer l body src u).wire = s.wire ++ [d] ∧
      d.body = body ∧ d.link = l ∧ d.dst = some src ∧ Transported s (answer l body src u) := by
  have hlive : u.sys.boot ≠ .halt := by rw [sys_of_recorded hrec, hboot]; nofun
  have hwire := emit_wire (d := answerDown l body src u) hlive ((linkPaused_of_recorded hrec l).trans hfree)
  rw [wire_of_recorded hrec] at hwire
  exact ⟨_, hwire, rfl, rfl, rfl, Transported.app (emit_transported ..) (Recorded.transported hrec)⟩

end Sys2Proof.Proofs
end

section
/-! SUPPORT. What the release of buffers, the frames that leave, a resend and a REJECT do to their `Inst` (R91, R103, R106, R115,
R353), and the timers of the transport by case (R103, R104, R106). -/

namespace Sys2Proof.Proofs

open Sys2Proof Sys2Proof.Machine Sys2Proof.Laws Sys2Proof.Safety

variable {s t : State} {i l : Nat} {x : Inst}

/-- A command that ends with `settle`, by what it does before. -/
theorem settled_congr {u v : State} (h : u = v) :
    (Host.Outcome.next (settle u) : Host.Outcome State Fault Refusal) = .next (settle v) := by rw [h]

/-! ### Buffers that are let go (R353) -/

/-- What buffers that are let go may change between two states: the pools, and the faults on their way to the collector. -/
def Released (s t : State) : Prop :=
  t = { s with bpm := t.bpm, fcl := { s.fcl with window := t.fcl.window, windowAt := t.fcl.windowAt } }

theorem Released.trans {r s t : State} (h : Released r s) (k : Released s t) : Released r t := by
  unfold Released at h k ⊢
  rw [h] at k
  exact k

/-- A field of the state after buffers are let go, by what that may change. -/
theorem proj_of_released {β : Type} (f : State → β) (h : Released s t) : f t = f { s with
    bpm := t.bpm, fcl := { s.fcl with window := t.fcl.window, windowAt := t.fcl.windowAt } } := congrArg f h

theorem inst?_of_released (h : Released s t) (i : Nat) : inst? t i = inst? s i :=
  (proj_of_released (fun u => inst? u i) h :)

theorem decRef_released (p b port : Nat) (s : State) : Released s (decRef p b port s) := by
  rcases decRef_cases p b port s with ⟨-, h⟩ | ⟨d, -, -, h⟩ | ⟨d, -, -, h⟩
  all_goals rw [h]; rfl

theorem freeBufs_released (port : Nat) (bufs : List (Nat × Nat)) (s : State) : Released s (freeBufs port bufs s) := by
  unfold freeBufs
  induction bufs generalizing s with
  | nil => rfl
  | cons b bufs ih => exact (decRef_released b.1 b.2 port s).trans (ih _)

theorem freeLanding_released (frames : List (U32 × Up × Land)) (s : State) : Released s (freeLanding frames s) := by
  unfold freeLanding
  induction frames generalizing s with
  | nil => rfl
  | cons p frames ih => exact (freeBufs_released ..).trans (ih _)

theorem dropLanding_released (u : Up) (b : Nat) (s : State) : Released s (dropLanding u b s) := decRef_released ..

/-- The release of a buffer and a change of an `Inst` do not touch each other. -/
theorem decRef_setInst (p b port i : Nat) (x : Inst) (s : State) :
    decRef p b port (setInst i x s) = setInst i x (decRef p b port s) := by
  unfold decRef
  rw [show poolAt (setInst i x s) p = poolAt s p from rfl]
  split
  · rfl
  · split <;> rfl

theorem freeBufs_setInst (port i : Nat) (bufs : List (Nat × Nat)) (x : Inst) (s : State) :
    freeBufs port bufs (setInst i x s) = setInst i x (freeBufs port bufs s) := by
  unfold freeBufs
  induction bufs generalizing s with
  | nil => rfl
  | cons b bufs ih => rw [List.foldl_cons, decRef_setInst, ih, List.foldl_cons]

theorem freeLanding_setInst (i : Nat) (frames : List (U32 × Up × Land)) (x : Inst) (s : State) :
    freeLanding frames (setInst i x s) = setInst i x (freeLanding frames s) := by
  unfold freeLanding
  induction frames generalizing s with
  | nil => rfl
  | cons p frames ih => rw [List.foldl_cons, freeBufs_setInst, ih, List.foldl_cons]

/-! ### Frames that leave, and their `Inst` -/

/-- A frame that leaves, or waits for its link, changes no `Inst`. -/
@[simp] theorem inst?_emit (d : Down) (s : State) (i : Nat) : inst? (emit d s) i = inst? s i := by
  unfold emit
  split
  · rfl
  · split
    · rfl
    · exact (proj_of_recorded (fun u => inst? u i) (countOut_recorded ..) :)

/-- A frame that leaves takes back none that was sent before. -/
theorem mem_wire_emit {d : Down} (e : Down) (h : d ∈ s.wire) : d ∈ (emit e s).wire := by
  unfold emit
  split
  · exact h
  · split
    · exact h
    · rw [transmit_wire]
      exact List.mem_append_left _ h

/-- A frame leaves on a link that is up and on which its `Inst` has been heard (R91, R110). -/
theorem outLink_here (hup : linkUp s l = true) (hsource : (amGet? x.lastValid l).isSome = true) :
    outLink s x l = some l := by
  obtain ⟨src, hsrc⟩ := Option.isSome_iff_exists.mp hsource
  simp [outLink, pickLink, hup, dstOf, hsrc]

/-- An unsequenced frame leaves, and carries E. -/
theorem sendUnseq_eq (hx : inst? s i = some x) {pref : Nat} (hlink : outLink s x pref = some l) (flags slot : Nat)
    (body : Body) : sendUnseq i pref flags slot body s =
      emit (downFrame s i x l (flags ||| 4) slot 0 0 body none) (setInst i { x with ackOut := x.e } s) := by
  simp [sendUnseq, hx, hlink]

theorem sendUnseq_inst (hx : inst? s i = some x) (pref flags slot : Nat) (body : Body) :
    ∃ a, inst? (sendUnseq i pref flags slot body s) i = some { x with ackOut := a } := by
  cases hlink : outLink s x pref with
  | none => exact ⟨x.ackOut, by simp [sendUnseq, hx, hlink]⟩
  | some l => exact ⟨x.e, by rw [sendUnseq_eq hx hlink]; simp⟩

/-- An unsequenced frame goes out at once with the E of its `Inst`. -/
theorem sendUnseq_sent (hx : inst? s i = some x) {pref : Nat} (hlink : outLink s x pref = some l) (flags slot : Nat)
    (body : Body) (hboot : s.sys.boot ≠ .halt) (hfree : linkPaused s l = false) :
    inst? (sendUnseq i pref flags slot body s) i = some { x with ackOut := x.e } ∧
    ∃ d, (sendUnseq i pref flags slot body s).wire = s.wire ++ [d] ∧ d.link = l ∧ d.inst = i ∧ d.ack = x.e ∧
      d.body = body := by
  rw [sendUnseq_eq hx hlink]
  exact ⟨by simp, _, emit_wire (s := setInst i _ s) hboot hfree, rfl, rfl, rfl, rfl⟩

/-- The body of an ACK frame: SACK, and the gap where frames are held beyond one (Table TP-9). -/
def ackBody (x : Inst) : Body := match firstHeld x with
  | none => .ack (sackOf x) 0 0
  | some d => .ack (sackOf x) x.e d

theorem ackBody_sack (x : Inst) : ∃ g k, ackBody x = .ack (sackOf x) g k := by
  unfold ackBody
  split <;> exact ⟨_, _, rfl⟩

theorem sendAck_eq (hx : inst? s i = some x) :
    sendAck i s = sendUnseq i (x.lastLink.getD 0) 0 0 (ackBody x) s := by
  cases hheld : firstHeld x <;> simp [sendAck, ackBody, hx, hheld]

theorem sendAck_inst (hx : inst? s i = some x) : ∃ a, inst? (sendAck i s) i = some { x with ackOut := a } := by
  rw [sendAck_eq hx]
  exact sendUnseq_inst hx ..

/-- An ACK goes out on the link of the last valid frame, with E, SACK and the gap (R103). -/
theorem sendAck_sent (hx : inst? s i = some x) (hlast : x.lastLink = some l)
    (hsource : (amGet? x.lastValid l).isSome = true) (hup : linkUp s l = true) (hfree : linkPaused s l = false)
    (hboot : s.sys.boot ≠ .halt) : inst? (sendAck i s) i = some { x with ackOut := x.e } ∧
    ∃ d, (sendAck i s).wire = s.wire ++ [d] ∧ d.link = l ∧ d.inst = i ∧ d.ack = x.e ∧ d.body = ackBody x := by
  have hlink : outLink s x (x.lastLink.getD 0) = some l := by
    rw [hlast]
    exact outLink_here hup hsource
  rw [sendAck_eq hx]
  exact sendUnseq_sent hx hlink 0 0 _ hboot hfree

theorem sendProbeReply_eq (hx : inst? s i = some x) (l : Nat) :
    sendProbeReply i l s = sendUnseq i l 0 0 (.ack (sackOf x) x.down 0) s := by
  simp [sendProbeReply, hx]

/-- The lowest held frame is known while one is held. -/
theorem firstHeld_isSome (h : x.heldUp ≠ []) : ∃ k, firstHeld x = some k := by
  suffices hfold : ∀ (held : List (U32 × Up × Land)) (a : Nat), ∃ k, held.foldl (fun a p =>
      let d := (seqDiff p.1 x.e).toNat
      some (match a with
        | none => d
        | some m => min m d)) (some a) = some k by
    unfold firstHeld
    cases hheld : x.heldUp with
    | nil => exact absurd hheld h
    | cons p held => exact hfold held _
  intro held
  induction held with
  | nil => exact fun a => ⟨a, rfl⟩
  | cons p held ih => exact fun a => ih _

/-! ### Frames sent again (R106) -/

theorem resendDown_inst (hx : inst? s i = some x) (d : Down) :
    ∃ a q, inst? (resendDown i d s) i = some { x with ackOut := a, unacked := q } := by
  unfold resendDown
  rw [hx]
  dsimp only
  split
  · exact ⟨x.ackOut, x.unacked, hx⟩
  · rw [inst?_of_recorded (Recorded.app (tally_recorded ..) (tally_recorded ..)), inst?_emit, inst?_modInst_self, hx]
    exact ⟨_, _, rfl⟩

theorem mem_wire_resendDown {d : Down} (i : Nat) (e : Down) (h : d ∈ s.wire) : d ∈ (resendDown i e s).wire := by
  unfold resendDown
  split
  · exact h
  · split
    · exact h
    · rw [wire_of_recorded (Recorded.app (tally_recorded ..) (tally_recorded ..))]
      exact mem_wire_emit _ h

/-- Of the `Inst`, frames sent again change the ACK value sent and the links of what is unacknowledged. -/
theorem resendWhere_inst (hx : inst? s i = some x) (p : Down → Bool) :
    ∃ a q, inst? (resendWhere i p s) i = some { x with ackOut := a, unacked := q } := by
  unfold resendWhere
  rw [hx]
  dsimp only
  suffices hfold : ∀ (frames : List Down) (y : Inst) (u : State), inst? u i = some y →
      ∃ a q, inst? (frames.foldl (fun s d => resendDown i d s) u) i = some { y with ackOut := a, unacked := q } from
    hfold _ x s hx
  intro frames
  induction frames with
  | nil => exact fun y u hy => ⟨y.ackOut, y.unacked, hy⟩
  | cons d frames ih =>
    intro y u hy
    obtain ⟨a, q, hone⟩ := resendDown_inst hy d
    obtain ⟨b, r, hrest⟩ := ih _ _ hone
    exact ⟨b, r, hrest⟩

theorem mem_wire_resendWhere {d : Down} (i : Nat) (p : Down → Bool) (h : d ∈ s.wire) :
    d ∈ (resendWhere i p s).wire := by
  unfold resendWhere
  split
  · exact h
  · exact List.foldlRecOn _ _ (motive := fun u : State => d ∈ u.wire) h fun u hu e _ => mem_wire_resendDown i e hu

/-! ### REJECT (R115, R116) -/

theorem emitReject_inst (i : Nat) (x : Inst) (e : Env) (own : Bool) (r : Reject) (hx : inst? s i = some x) :
    ∃ a, inst? (emitReject i x e own r s) i = some { x with ackOut := a } := by
  unfold emitReject
  dsimp only
  split
  · exact ⟨x.e, by simp⟩
  · split
    · exact ⟨x.ackOut, by simpa using hx⟩
    · exact ⟨x.ackOut, hx⟩

/-- Of the `Inst`, a REJECT changes the ACK value sent and the count of its window. -/
theorem sendReject_inst (hx : inst? s i = some x) (e : Env) (own : Bool) (r : Reject) :
    ∃ a w n, inst? (sendReject i e own r s) i = some { x with ackOut := a, rejWindow := w, rejCount := n } := by
  unfold sendReject
  rw [hx]
  dsimp only
  generalize (if x.rejWindow = s.quartz / 1000000 then x.rejCount else 0) = n
  split
  · refine ⟨x.ackOut, x.rejWindow, x.rejCount, ?_⟩
    rw [inst?_of_recorded (tally_recorded ..)]
    split
    · exact (inst?_of_recorded (notice_recorded ..) i).trans hx
    · exact hx
  · generalize hcounts : (if (!r.ordered && r.reason != 0x0C) = true then
      { x with rejWindow := s.quartz / 1000000, rejCount := n + 1 } else x) = z
    have hz : z = { x with rejWindow := z.rejWindow, rejCount := z.rejCount } := by
      rw [← hcounts]
      split <;> rfl
    have hstored : inst? (if own = true then tally i 0x0002 (r.reason - 1) 1 (setInst i z s) else setInst i z s) i =
        some z := by
      rw [apply_ite (inst? · i), inst?_of_recorded (tally_recorded ..), ite_self, inst?_setInst_self]
    obtain ⟨a, hout⟩ := emitReject_inst i z e own r hstored
    exact ⟨a, z.rejWindow, z.rejCount, hout.trans (congrArg (fun y : Inst => some { y with ackOut := a }) hz)⟩

/-! ### The timers of the transport (R103, R104, R106) -/

theorem ackDelay_due (hx : inst? s i = some x) (hengine : s.sys.transport = true) (hbehind : x.ackOut ≠ x.e) :
    ackDelay i s = sendAck i s := by
  simp [ackDelay, hx, hengine, hbehind]

theorem ackDelay_idle (hx : inst? s i = some x) (hsent : x.ackOut = x.e) : ackDelay i s = s := by
  simp [ackDelay, hx, hsent]

theorem gapRepeat_due (hx : inst? s i = some x) (hengine : s.sys.transport = true) (hgap : x.gapAt.isSome = true)
    (hheld : x.heldUp ≠ []) : gapRepeat i s = sendAck i s := by
  simp [gapRepeat, hx, hengine, hgap, hheld]

theorem gapRepeat_idle (hx : inst? s i = some x) (hgap : x.gapAt = none) : gapRepeat i s = s := by
  simp [gapRepeat, hx, hgap]

/-- The held frames are released with one REJECT, and their landing buffers are let go (R104). -/
theorem gapExpire_due (hx : inst? s i = some x) (hgap : x.gapAt.isSome = true) (hheld : x.heldUp ≠ []) : ∃ e r,
    gapExpire i s = sendReject i e true r
      (freeLanding x.heldUp (setInst i { x with heldUp := [], gapAt := none } s)) := by
  unfold gapExpire
  rw [hx]
  dsimp only
  split
  · exact ⟨_, _, rfl⟩
  next hno =>
    obtain ⟨since, hsince⟩ := Option.isSome_iff_exists.mp hgap
    obtain ⟨⟨q, u, b⟩, rest, hfirst⟩ := List.exists_cons_of_ne_nil hheld
    exact absurd (List.getLast?_eq_getLast_of_ne_nil hheld) (hno since q u b rest _ _ _ hsince hfirst)

theorem rtoExpire_again (hx : inst? s i = some x) (hengine : s.sys.transport = true) (hopen : x.unacked ≠ [])
    (hgoing : x.stalled = false) (hfew : x.expiries < 15) : rtoExpire i s =
      resendWhere i (fun _ => true) (setInst i { x with expiries := x.expiries + 1 } s) := by
  unfold rtoExpire
  rw [hx]
  dsimp only
  rw [if_neg (by simp [hengine, hopen, hgoing]), if_neg (by omega)]

theorem rtoExpire_stalls (hx : inst? s i = some x) (hengine : s.sys.transport = true) (hopen : x.unacked ≠ [])
    (hgoing : x.stalled = false) (hmany : 15 ≤ x.expiries) : rtoExpire i s =
      event kTransport sevNotice noSource i [] (setInst i { x with expiries := x.expiries + 1, stalled := true } s) := by
  unfold rtoExpire
  rw [hx]
  dsimp only
  rw [if_neg (by simp [hengine, hopen, hgoing]), if_pos (by omega)]

end Sys2Proof.Proofs
end

section
/-! SUPPORT. The receipt of a valid frame: the ACK field by case (R105), the sender (R91), and what ACK frames ask for (R106,
R107). -/

namespace Sys2Proof.Proofs

open Sys2Proof Sys2Proof.Machine Sys2Proof.Laws Sys2Proof.Safety

variable {s t : State} {i l : Nat} {x : Inst} {e : Env}

@[simp] theorem refuse_transported (i : Nat) (e : Env) (type reason detail : Nat) (s : State) :
    Transported s (refuse i e type reason detail s) :=
  Transported.ite (Transported.app (violate_transported ..) (sendReject_transported ..)) (sendReject_transported ..)

/-! ### The ACK field (R105) -/

/-- An `Inst` whose ACK value has moved forward: what it passes is let go, its DONE slots are FREE (R105). -/
def ackPassed (ack : U32) (x : Inst) : Inst :=
  { x with
    ackIn := ack, expiries := 0
    unacked := x.unacked.filter fun d => decide (0 ≤ seqDiff d.seq ack)
    backlog := x.backlog.filter fun d => decide (0 ≤ seqDiff d.seq ack)
    slots := x.slots.filter fun p => !ackedSlot ack p }

theorem advanceAck_eq (i : Nat) (ack : U32) (s : State) :
    ∃ bufs, advanceAck i ack s = drainBacklog i (freeBufs 1 bufs (modInst i (ackPassed ack) s)) := ⟨_, rfl⟩

/-- As the window opens, the oldest of the frames that wait are unacknowledged with the others (R106). -/
theorem drainBacklog_inst (hx : inst? s i = some x) : ∃ a n, inst? (drainBacklog i s) i =
    some { x with ackOut := a, unacked := x.unacked ++ x.backlog.take n, backlog := x.backlog.drop n } := by
  unfold drainBacklog
  rw [hx]
  dsimp only
  refine ⟨_, _, List.foldlRecOn _ _ (motive := fun u : State => inst? u i = some _) (inst?_setInst_self ..)
    fun u hu d _ => ?_⟩
  split
  · exact hu
  · rw [inst?_emit]
    exact hu

/-- The `Inst` behind an ACK value that has moved forward. -/
theorem advanceAck_inst (hx : inst? s i = some x) (ack : U32) : ∃ a q b, inst? (advanceAck i ack s) i =
    some { ackPassed ack x with ackOut := a, unacked := q, backlog := b } ∧ ∀ d ∈ q, 0 ≤ seqDiff d.seq ack := by
  obtain ⟨bufs, hadvance⟩ := advanceAck_eq i ack s
  have hpassed : inst? (freeBufs 1 bufs (modInst i (ackPassed ack) s)) i = some (ackPassed ack x) :=
    (inst?_of_released (freeBufs_released ..) i).trans ((inst?_modInst_self ..).trans (congrArg _ hx))
  obtain ⟨a, n, hdrained⟩ := drainBacklog_inst hpassed
  rw [hadvance]
  refine ⟨_, _, _, hdrained, fun d hd => ?_⟩
  rcases List.mem_append.mp hd with hd | hd
  · exact of_decide_eq_true (List.mem_filter.mp hd).2
  · exact of_decide_eq_true (List.mem_filter.mp (List.mem_of_mem_take hd)).2

theorem takeAck_beyond (hx : inst? s i = some x) (h : 0 < seqDiff e.hdr.ack x.down) (type : Nat) :
    takeAck i e type s = refuse i e type rjBadAck x.down.toNat s := by
  simp [takeAck, hx, h]

theorem takeAck_behind (hx : inst? s i = some x) (hsent : seqDiff e.hdr.ack x.down ≤ 0)
    (h : seqDiff e.hdr.ack x.ackIn ≤ 0) (type : Nat) : takeAck i e type s = s := by
  simp [takeAck, hx, h, Int.not_lt.mpr hsent]

theorem takeAck_ahead (hx : inst? s i = some x) (hsent : seqDiff e.hdr.ack x.down ≤ 0)
    (h : 0 < seqDiff e.hdr.ack x.ackIn) (type : Nat) : takeAck i e type s = advanceAck i e.hdr.ack s := by
  simp [takeAck, hx, Int.not_le.mpr h, Int.not_lt.mpr hsent]

/-- What the receipt of a frame may change between two states: what frames that leave and buffers that are let go change. -/
def Received (s t : State) : Prop :=
  t = { s with
    insts := t.insts, wire := t.wire, obs := t.obs, pins := { s.pins with pauseQ := t.pins.pauseQ }
    eth := { s.eth with silent := t.eth.silent, ovfSilent := t.eth.ovfSilent, rejsupp := t.eth.rejsupp
                        ovfRej := t.eth.ovfRej, unknownSrc := t.eth.unknownSrc }
    tal := { s.tal with ctrs := t.tal.ctrs, rxUnits := t.tal.rxUnits, txUnits := t.tal.txUnits }
    fcl := { s.fcl with contained := t.fcl.contained, window := t.fcl.window, windowAt := t.fcl.windowAt }
    bpm := t.bpm }

theorem Received.of_transported (h : Transported s t) : Received s t := by
  unfold Transported at h
  unfold Received
  rw [h]

theorem Received.of_released (h : Released s t) : Received s t := by
  unfold Released at h
  unfold Received
  rw [h]

theorem Received.trans {r s t : State} (h : Received r s) (k : Received s t) : Received r t := by
  unfold Received at h k ⊢
  rw [h] at k
  exact k

theorem takeAck_received (i : Nat) (e : Env) (type : Nat) (s : State) : Received s (takeAck i e type s) := by
  unfold takeAck
  split
  · rfl
  · split
    · exact .of_transported (refuse_transported ..)
    · split
      · rfl
      · obtain ⟨bufs, hadvance⟩ := advanceAck_eq i e.hdr.ack s
        rw [hadvance]
        exact .trans (.of_transported (modInst_transported ..))
          (.trans (.of_released (freeBufs_released ..)) (.of_transported (drainBacklog_transported ..)))

/-! ### A valid frame's sender (R91, R106) -/

/-- An `Inst` whose valid frame has come: its source and link are kept, and a stalled one resumes. -/
def heard (e : Env) (x : Inst) : Inst :=
  { x with
    lastValid := amSet x.lastValid e.link.val e.src, lastLink := some e.link.val
    stalled := false, expiries := if x.stalled then 0 else x.expiries }

theorem markValid_inst (hx : inst? s i = some x) (e : Env) : inst? (markValid i e s) i = some (heard e x) :=
  (inst?_modInst_self ..).trans (congrArg _ hx)

/-- A valid frame that is counted, its sender kept and its ACK field taken. -/
theorem valid_received {r : State} (hrec : Recorded s r) (i : Nat) (e : Env) (type : Nat) :
    Received s (takeAck i e type (markValid i e r)) :=
  .trans (.of_transported (Recorded.transported hrec))
    (.trans (.of_transported (modInst_transported ..)) (takeAck_received ..))

theorem linkUp_of_received (h : Received s t) (l : Nat) : linkUp t l = linkUp s l := (congrArg (fun u => linkUp u l) h :)

theorem linkPaused_of_received (h : Received s t) (l : Nat) : linkPaused t l = linkPaused s l :=
  (congrArg (fun u => linkPaused u l) h :)

theorem sys_of_received (h : Received s t) : t.sys = s.sys := (congrArg State.sys h :)

theorem quartz_of_received (h : Received s t) : t.quartz = s.quartz := (congrArg State.quartz h :)

/-! ### ACK frames (R105–R107) -/

theorem exec_ackFrame {f : AckFrame} {c : Instr} (hc : c ∈ [Instr.ackFrame f, .probe f, .resend f]) (s : State) :
    exec c s = .next (settle (arrive c f.env (ackFrame f) s)) := by
  simp only [List.mem_cons, List.not_mem_nil, or_false] at hc
  rcases hc with rfl | rfl | rfl
  all_goals rfl

/-- A sound ACK frame of a valid sender: its ACK field is taken, then it is answered. -/
theorem ackFrame_valid {f : AckFrame} (hboot : s.sys.boot = .run) (hengine : s.sys.transport = true)
    (houter : outerOk s f.env = true) (hsound : ackHeaderBad f = none) (hx : inst? s f.env.hdr.inst.toNat = some x)
    (hsource : sourceOk f.env.hdr.inst.toNat x 4 f.env = true) : ackFrame f s =
      answerAck f.env.hdr.inst.toNat f (takeAck f.env.hdr.inst.toNat f.env 4
        (markValid f.env.hdr.inst.toNat f.env s)) := by
  simp [ackFrame, hboot, hengine, houter, hsound, namedInst, hx, hsource]

/-- What of the unacknowledged frames an ACK frame asks for (R106, R107). -/
def resendAsked (i : Nat) (f : AckFrame) (s : State) : State :=
  if f.env.hdr.flags.getLsbD 7 then resendWhere i (fun _ => true) s
  else resendWhere i (fun d => decide (0 ≤ seqDiff d.seq f.gapFirst) &&
    decide (seqDiff d.seq f.gapFirst < (f.gapCount.toNat : Int))) s

theorem answerAck_eq (i : Nat) (f : AckFrame) (s : State) : answerAck i f s =
    resendAsked i f (if f.env.hdr.flags.getLsbD 6 then sendProbeReply i f.env.link.val s else s) := rfl

theorem resendAsked_inst (hx : inst? s i = some x) (f : AckFrame) :
    ∃ a q, inst? (resendAsked i f s) i = some { x with ackOut := a, unacked := q } := by
  unfold resendAsked
  split
  · exact resendWhere_inst hx _
  · exact resendWhere_inst hx _

theorem mem_wire_resendAsked {d : Down} (i : Nat) (f : AckFrame) (h : d ∈ s.wire) : d ∈ (resendAsked i f s).wire := by
  unfold resendAsked
  split
  · exact mem_wire_resendWhere _ _ h
  · exact mem_wire_resendWhere _ _ h

/-- Of the `Inst`, the answers to an ACK frame change the ACK value sent and the links of what is unacknowledged. -/
theorem answerAck_inst (hx : inst? s i = some x) (f : AckFrame) :
    ∃ a q, inst? (answerAck i f s) i = some { x with ackOut := a, unacked := q } := by
  rw [answerAck_eq]
  split
  · obtain ⟨a, hprobe⟩ := sendUnseq_inst hx f.env.link.val 0 0 (.ack (sackOf x) x.down 0)
    rw [sendProbeReply_eq hx]
    obtain ⟨b, q, hresent⟩ := resendAsked_inst hprobe f
    exact ⟨b, q, hresent⟩
  · exact resendAsked_inst hx f

/-- A probe is answered on its link with E, SACK and the next down number (R107). -/
theorem answerAck_probe {f : AckFrame} (hx : inst? s i = some x) (hprobe : f.env.hdr.flags.getLsbD 6 = true)
    (hsource : (amGet? x.lastValid f.env.link.val).isSome = true) (hup : linkUp s f.env.link.val = true)
    (hfree : linkPaused s f.env.link.val = false) (hboot : s.sys.boot ≠ .halt) : ∃ d ∈ (answerAck i f s).wire,
      d.link = f.env.link.val ∧ d.inst = i ∧ d.ack = x.e ∧ d.body = .ack (sackOf x) x.down 0 := by
  obtain ⟨-, d, hwire, hsent⟩ := sendUnseq_sent hx (outLink_here hup hsource) 0 0 (.ack (sackOf x) x.down 0) hboot hfree
  refine ⟨d, ?_, hsent⟩
  rw [answerAck_eq, if_pos hprobe, sendProbeReply_eq hx]
  exact mem_wire_resendAsked _ _ (by rw [hwire]; simp)

/-- The `Inst` behind a valid frame whose ACK value is within the numbers sent. -/
theorem received_inst (hx : inst? s i = some x) (hsent : seqDiff e.hdr.ack x.down ≤ 0) (type : Nat) :
    ∃ y, inst? (takeAck i e type (markValid i e s)) i = some y ∧ y.e = x.e ∧ y.down = x.down ∧ y.heldUp = x.heldUp ∧
      y.lastValid = amSet x.lastValid e.link.val e.src ∧ y.lastLink = some e.link.val ∧
      (0 < seqDiff e.hdr.ack x.ackIn → y.ackIn = e.hdr.ack ∧
        y.slots = x.slots.filter fun p => !ackedSlot e.hdr.ack p) ∧
      (seqDiff e.hdr.ack x.ackIn ≤ 0 → y.ackIn = x.ackIn ∧ y.slots = x.slots) := by
  have hheard := markValid_inst hx e
  by_cases h : 0 < seqDiff e.hdr.ack x.ackIn
  · obtain ⟨a, q, b, hpassed, -⟩ := advanceAck_inst hheard e.hdr.ack
    rw [takeAck_ahead hheard hsent h]
    exact ⟨_, hpassed, rfl, rfl, rfl, rfl, rfl, fun _ => ⟨rfl, rfl⟩, fun hbehind => absurd h (Int.not_lt.mpr hbehind)⟩
  · rw [takeAck_behind hheard hsent (Int.not_lt.mp h)]
    exact ⟨_, hheard, rfl, rfl, rfl, rfl, rfl, fun hahead => absurd hahead h, fun _ => ⟨rfl, rfl⟩⟩

end Sys2Proof.Proofs
end

section
/-! SUPPORT. A valid sequenced frame: its landing buffer (R88), and its distance from E by case (R101, R103). -/

namespace Sys2Proof.Proofs

open Sys2Proof Sys2Proof.Machine Sys2Proof.Laws Sys2Proof.Safety

variable {s r : State} {i b : Nat} {x y : Inst} {u : Up} {c : Instr} {f : TaskFrame} {d : DataFrame} {m : MgmtFrame}

/-! ### A sequenced frame arrives -/

theorem exec_taskType (f : TaskFrame) (s : State) : ∀ p ∈ taskTypes,
    exec (p.2 f) s = .next (settle (arrive (p.2 f) f.env (upFrame (.task f)) s)) := by
  simp only [taskTypes, List.forall_mem_cons, List.not_mem_nil, false_implies, implies_true, and_true]
  and_intros
  all_goals rfl

/-- Every command of a sequenced frame hands the frame on alike. -/
theorem exec_upCommand (hc : (c, u) ∈ upCommands f d m) (s : State) :
    exec c s = .next (settle (arrive c (upEnv u) (upFrame u) s)) := by
  rcases List.mem_append.mp hc with htask | hother
  · obtain ⟨p, hp, heq⟩ := List.mem_map.mp htask
    cases heq
    exact exec_taskType f s p hp
  · simp only [List.mem_cons, List.not_mem_nil, or_false, Prod.mk.injEq] at hother
    obtain ⟨rfl, rfl⟩ | ⟨rfl, rfl⟩ | ⟨rfl, rfl⟩ := hother
    all_goals rfl

/-- REG_READ and REG_WRITE bring their request alike: its OP decides (R98). -/
theorem exec_mgmtCommand (hc : c ∈ [Instr.regRead m, .regWrite m]) (s : State) :
    exec c s = .next (settle (arrive c m.env (upFrame (.mgmt m)) s)) := by
  simp only [List.mem_cons, List.not_mem_nil, or_false] at hc
  rcases hc with rfl | rfl
  all_goals rfl

/-- A valid frame that reaches the device is counted and takes its way by `validFrame`. -/
theorem exec_valid (hexec : exec c s = .next (settle (arrive c (upEnv u) (upFrame u) s))) (hreach : Reaches u s)
    (hvalid : ValidFor u x s) : exec c s = .next (settle (validFrame (upEnv u).hdr.inst.toNat u (counted u s))) := by
  obtain ⟨hup, hboot, hawake, houter⟩ := hreach
  obtain ⟨hopen, hsound, hinst, hsource⟩ := hvalid
  have hrec : Recorded s (counted u s) := countIn_recorded ..
  rw [hexec, arrive_awake _ _ _ hup (by rw [hboot]; nofun) hawake]
  have hsys := sys_of_recorded hrec
  have hframe : upFrame u (counted u s) = validFrame (upEnv u).hdr.inst.toNat u (counted u s) := by
    simp [upFrame, hsys, hboot, hopen, outerOk_of_recorded hrec, houter, hsound, namedInst, inst?_of_recorded hrec, hinst,
      hsource]
  exact settled_congr hframe

/-! ### The landing buffer (R88) -/

theorem alloc_released {p port : Nat} {reserved : Bool} (h : allocBuf p port reserved s = (some b, r)) :
    Released s r := by
  rcases allocBuf_cases p port reserved s with ⟨-, hnone⟩ | ⟨-, hsome⟩
  · rw [hnone] at h
    cases h
  · rw [hsome] at h
    cases h
    rfl

/-- No time passes until a frame has its landing buffer. -/
theorem quartz_landed (h : allocBuf (landingPool u) (landingPool u) false (received u s) = (some b, r)) :
    r.quartz = s.quartz :=
  quartz_of_received ((valid_received (countIn_recorded ..) _ _ _).trans (.of_released (alloc_released h)))

theorem validFrame_noBuffer (h : allocBuf (landingPool u) (landingPool u) false (received u s) = (none, r)) :
    validFrame (upEnv u).hdr.inst.toNat u (counted u s) =
      refuse (upEnv u).hdr.inst.toNat (upEnv u) (upType u) rjNoBuffer 0 r := by
  unfold received at h
  unfold validFrame
  dsimp only
  rw [h]

theorem validFrame_refused {k : Nat} (h : allocBuf (landingPool u) (landingPool u) false (received u s) = (some b, r))
    (hy : inst? r (upEnv u).hdr.inst.toNat = some y) (hstate : stateRefusal y = some k) :
    validFrame (upEnv u).hdr.inst.toNat u (counted u s) =
      refuse (upEnv u).hdr.inst.toNat (upEnv u) (upType u) k 0 (dropLanding u b r) := by
  unfold received at h
  unfold validFrame
  dsimp only
  rw [h]
  simp only [hy, Option.bind_some, hstate]

theorem validFrame_ordered (h : allocBuf (landingPool u) (landingPool u) false (received u s) = (some b, r))
    (hy : inst? r (upEnv u).hdr.inst.toNat = some y) (hstate : stateRefusal y = none) :
    validFrame (upEnv u).hdr.inst.toNat u (counted u s) = orderFrame (upEnv u).hdr.inst.toNat u b r := by
  unfold received at h
  unfold validFrame
  dsimp only
  rw [h]
  simp only [hy, Option.bind_some, hstate]

/-! ### The order by distance (R101) -/

theorem orderFrame_copy (hx : inst? s i = some x) (h : seqDiff (upEnv u).hdr.seq x.e < 0) :
    orderFrame i u b s = copyFrame i u (dropLanding u b s) := by
  simp [orderFrame, hx, h]

theorem orderFrame_place (hx : inst? s i = some x) (h : seqDiff (upEnv u).hdr.seq x.e = 0) :
    orderFrame i u b s = placeFrame i u b s := by
  simp [orderFrame, hx, h]

theorem orderFrame_hold (hx : inst? s i = some x) (hbeyond : 0 < seqDiff (upEnv u).hdr.seq x.e)
    (hnear : seqDiff (upEnv u).hdr.seq x.e ≤ 64) : orderFrame i u b s = holdFrame i u b s := by
  unfold orderFrame
  rw [hx]
  dsimp only
  rw [if_neg (by omega), if_neg (by omega), if_neg (by omega)]

theorem orderFrame_overrun (hx : inst? s i = some x) (h : 64 < seqDiff (upEnv u).hdr.seq x.e) :
    orderFrame i u b s = refuse i (upEnv u) (upType u) rjOverrun x.e.toNat (dropLanding u b s) := by
  unfold orderFrame
  rw [hx]
  dsimp only
  rw [if_neg (by omega), if_pos h]

/-- The `Inst` of a frame that has taken its position with none held behind it. -/
def placedAt (now : Nat) (u : Up) (b : Nat) (x : Inst) : Inst :=
  { place u { at' := now, buf := some b } x with gapAt := none }

/-- With none held behind it, a frame at E stands last in the order, and the order is judged (R101). -/
theorem placeFrame_clear (hx : inst? s i = some x) (hclear : x.heldUp = []) :
    placeFrame i u b s = drive i (setInst i (placedAt s.quartz u b x) s) := by
  have hplaced : placeHeld s.quartz 64 (place u { at' := s.quartz, buf := some b } x) =
      place u { at' := s.quartz, buf := some b } x := by
    unfold placeHeld
    rw [show (place u { at' := s.quartz, buf := some b } x).heldUp = [] from hclear]
    rfl
  have hgap : (place u { at' := s.quartz, buf := some b } x).heldUp.isEmpty = true := List.isEmpty_iff.mpr hclear
  unfold placeFrame
  rw [hx]
  dsimp only
  rw [hplaced, hgap]
  rfl

/-- A valid frame at E with none held behind it. -/
theorem validFrame_clear (h : allocBuf (landingPool u) (landingPool u) false (received u s) = (some b, r))
    (hy : inst? r (upEnv u).hdr.inst.toNat = some y) (hstate : stateRefusal y = none)
    (hat : seqDiff (upEnv u).hdr.seq y.e = 0) (hclear : y.heldUp = []) :
    validFrame (upEnv u).hdr.inst.toNat u (counted u s) = drive (upEnv u).hdr.inst.toNat
      (setInst (upEnv u).hdr.inst.toNat (placedAt r.quartz u b y) r) := by
  rw [validFrame_ordered h hy hstate, orderFrame_place hy hat, placeFrame_clear hy hclear]

/-- The `Inst` of a frame that is held beyond a gap, whose timer runs from the first one on. -/
def heldAt (now : Nat) (u : Up) (b : Nat) (x : Inst) : Inst :=
  { x with heldUp := insertHeld x.e ((upEnv u).hdr.seq, u, { at' := now, buf := some b }) x.heldUp
           gapAt := if x.heldUp = [] then some now else x.gapAt }

theorem holdFrame_again (hx : inst? s i = some x) (h : (x.heldUp.any fun p => p.1 = (upEnv u).hdr.seq) = true) :
    holdFrame i u b s = sendAck i (dropLanding u b s) := by
  unfold holdFrame
  rw [hx]
  exact if_pos h

/-- A frame beyond E is held, and the first one beyond a gap sends the gap request (R103). -/
theorem holdFrame_first (hx : inst? s i = some x) (h : (x.heldUp.any fun p => p.1 = (upEnv u).hdr.seq) = false) :
    holdFrame i u b s = if x.heldUp = [] then sendAck i (setInst i (heldAt s.quartz u b x) s)
      else setInst i (heldAt s.quartz u b x) s := by
  unfold holdFrame
  rw [hx]
  dsimp only
  rw [if_neg (by rw [h]; nofun)]
  simp only [List.isEmpty_iff, heldAt]

theorem holdFrame_first_inst (hx : inst? s i = some x)
    (h : (x.heldUp.any fun p => p.1 = (upEnv u).hdr.seq) = false) :
    (∃ a, inst? (holdFrame i u b s) i = some { heldAt s.quartz u b x with ackOut := a }) ∧
    Transported s (holdFrame i u b s) := by
  rw [holdFrame_first hx h]
  split
  · exact ⟨sendAck_inst (inst?_setInst_self ..), Transported.app (sendAck_transported ..) (setInst_transported ..)⟩
  · exact ⟨⟨x.ackOut, inst?_setInst_self ..⟩, setInst_transported ..⟩

end Sys2Proof.Proofs
end

section
/-! SUPPORT. MGMT requests (R98): their words, what an accepted request finds and leaves, and the reply. -/

namespace Sys2Proof.Proofs

open Sys2Proof Sys2Proof.Machine Sys2Proof.Laws Sys2Proof.Safety

variable {s r : State} {i b : Nat} {x y : Inst} {f : MgmtFrame}

/-! ### The words of a request (R98) -/

theorem readWords_succ (n a : Nat) (s : State) : readWords (n + 1) a s =
    (BitVec.ofNat 32 (regRead (a % 2 ^ 32) s).1 :: (readWords n (a + 4) (regRead (a % 2 ^ 32) s).2).1,
      (readWords n (a + 4) (regRead (a % 2 ^ 32) s).2).2) := rfl

theorem readWords_length (n a : Nat) (s : State) : (readWords n a s).1.length = n := by
  induction n generalizing a s with
  | zero => rfl
  | succ n ih => rw [readWords_succ, List.length_cons, ih]

/-- A word is the read of its address, on the state that the reads before it left. -/
theorem readWords_getElem? {n a k : Nat} (s : State) (hspace : a + 4 * n ≤ 2 ^ 32) (hk : k < n) :
    (readWords n a s).1[k]? = some (BitVec.ofNat 32 (regRead (a + 4 * k) (readWords k a s).2).1) := by
  induction n generalizing a s k with
  | zero => omega
  | succ n ih =>
    have haddr : a % 2 ^ 32 = a := Nat.mod_eq_of_lt (by omega)
    cases k with
    | zero =>
      rw [readWords_succ, List.getElem?_cons_zero, haddr]
      rfl
    | succ k =>
      rw [readWords_succ, List.getElem?_cons_succ, ih _ (by omega) (by omega), readWords_succ,
        show a + 4 + 4 * k = a + 4 * (k + 1) by omega]

/-- The words of a REG_WRITE with the address behind the last one. -/
def writeFrom (a : Nat) (words : List U32) (s : State) : Nat × State :=
  words.foldl (fun p v => (p.1 + 4, regWrite (p.1 % 2 ^ 32) v.toNat p.2)) (a, s)

theorem writeFrom_fst (a : Nat) (words : List U32) (s : State) : (writeFrom a words s).1 = a + 4 * words.length := by
  unfold writeFrom
  induction words generalizing a s with
  | nil => rfl
  | cons v words ih => rw [List.foldl_cons, ih, List.length_cons]; omega

theorem writeWords_append {a : Nat} {words : List U32} (v : U32) (s : State) (h : a + 4 * words.length < 2 ^ 32) :
    writeWords a (words ++ [v]) s = regWrite (a + 4 * words.length) v.toNat (writeWords a words s) := by
  have hstep : writeWords a (words ++ [v]) s =
      regWrite ((writeFrom a words s).1 % 2 ^ 32) v.toNat (writeFrom a words s).2 := by
    simp [writeWords, writeFrom, List.foldl_append]
  rw [hstep, writeFrom_fst, Nat.mod_eq_of_lt h]
  rfl

/-! ### The request is accepted (R98, R130, R300) -/

theorem keccakMsg_recorded (bulk : Bool) (s : State) : Recorded s (keccakMsg bulk s) := by
  have hcounted := tally_recorded noInst 0x0106 (if bulk then 5 else 4) 1 s
  unfold keccakMsg
  generalize tally noInst 0x0106 (if bulk then 5 else 4) 1 s = u at hcounted
  dsimp only
  split
  · exact Recorded.app (tally_recorded ..) hcounted
  · exact hcounted

theorem inst?_keccakMsg (bulk : Bool) (s : State) (i : Nat) : inst? (keccakMsg bulk s) i = inst? s i :=
  inst?_of_recorded (keccakMsg_recorded ..) i

theorem countTag_recorded (i : Nat) (u : Up) (data : List Byte) (s : State) : Recorded s (countTag i u data s) := by
  unfold countTag
  split
  · split
    · exact keccakMsg_recorded ..
    · rfl
  · rfl

theorem rekey_transported (i kind : Nat) (s : State) : Transported s (rekey i kind s) := by
  unfold rekey
  split
  · rfl
  · split
    · rfl
    · exact Transported.ite rfl (Transported.app (notify_transported ..) (setInst_transported ..))

theorem rekeyPrev_transported (i kind : Nat) (s : State) : Transported s (rekeyPrev i kind s) := by
  unfold rekeyPrev
  split
  · rfl
  · split
    · rfl
    · exact Transported.ite rfl (Transported.app (notify_transported ..) (setInst_transported ..))

/-- The warnings of a counter that nears its maximum, and of one that has reached it (R301). -/
theorem warnings_transported {warn : Nat → State → State} (hwarn : ∀ kind v, Transported v (warn kind v)) {u : State}
    (hu : Transported s u) (near last : Prop) [Decidable near] [Decidable last] :
    Transported s (if last then warn 2 (if near then warn 1 u else u) else if near then warn 1 u else u) := by
  have hnear : Transported s (if near then warn 1 u else u) := Transported.ite (Transported.trans hu (hwarn 1 u)) hu
  exact Transported.ite (Transported.trans hnear (hwarn ..)) hnear

/-- A counter that is accepted sends at most its REKEY (R300, R301). -/
theorem acceptCounter_transported (i gen counter : Nat) (s : State) :
    Transported s (acceptCounter i gen counter s) := by
  unfold acceptCounter
  split
  · rfl
  · split
    · exact warnings_transported (rekey_transported i) (setInst_transported ..) ..
    · split
      · exact warnings_transported (rekeyPrev_transported i) (setInst_transported ..) ..
      · rfl

/-- The request leaves the order, its landing buffer is let go and its counter is taken; no access has erred yet. -/
def mgmtTaken (i : Nat) (f : MgmtFrame) (s : State) : State :=
  let s := countTag i (.mgmt f) [] s
  let s := freeLanding (((inst? s i).map (·.placed.take 1)).getD []) s
  let s := modInst i (fun x => { x with placed := x.placed.drop 1, waiting := .no, waited := .other
                                        waitedSpent := [], lastOrphan := none }) s
  let s := if hasTrailer f.env.hdr then acceptCounter i f.trailer.keyGen.toNat f.trailer.counter.toNat s else s
  { s with mgmt := { s.mgmt with err := false } }

theorem acceptMgmt_read (h : f.op = 1) : acceptMgmt i f s = mgmtReply f
    (readWords f.count.toNat f.addr.toNat (mgmtTaken i f s)).1
    (readWords f.count.toNat f.addr.toNat (mgmtTaken i f s)).2 := if_pos h

theorem acceptMgmt_write (h : f.op ≠ 1) : acceptMgmt i f s =
    mgmtReply f [] (writeWords f.addr.toNat f.data (mgmtTaken i f s)) := if_neg h

theorem mgmtTaken_received (i : Nat) (f : MgmtFrame) (s : State) : ∃ u, Received s u ∧
    mgmtTaken i f s = { u with mgmt := { u.mgmt with err := false } } := by
  unfold mgmtTaken
  dsimp only
  refine ⟨_, ?_, rfl⟩
  have htag := Received.of_transported (Recorded.transported (countTag_recorded i (.mgmt f) [] s))
  have hleft : ∀ g frames, Received s (modInst i g (freeLanding frames (countTag i (.mgmt f) [] s))) := fun g frames =>
    (htag.trans (.of_released (freeLanding_released ..))).trans (.of_transported (modInst_transported ..))
  split
  · exact (hleft _ _).trans (.of_transported (acceptCounter_transported ..))
  · exact hleft _ _

/-- What an accepted request finds as it was, before its first access. -/
theorem mgmtTaken_frame (i : Nat) (f : MgmtFrame) (s : State) : (mgmtTaken i f s).mgmt.err = false ∧
    (mgmtTaken i f s).med = s.med ∧ (mgmtTaken i f s).dmc = s.dmc ∧ (mgmtTaken i f s).cfl = s.cfl ∧
    (mgmtTaken i f s).slt = s.slt ∧ (mgmtTaken i f s).pwr = s.pwr := by
  obtain ⟨u, hu, htaken⟩ := mgmtTaken_received i f s
  rw [htaken]
  exact ⟨rfl, (congrArg State.med hu :), (congrArg State.dmc hu :), (congrArg State.cfl hu :),
    (congrArg State.slt hu :), (congrArg State.pwr hu :)⟩

/-- A request alone in an open order, whose rows pass, is accepted (R98, R102). -/
theorem drive_mgmt {q : U32} {k : Land} (hx : inst? s i = some x) (hopen : s.sys.open' = true)
    (hplaced : x.placed = [(q, .mgmt f, k)]) (hrows : mgmtRows s i x f = .pass) : drive i s = acceptMgmt i f s := by
  have hjudged : judgeFront i s = acceptMgmt i f s := by
    simp [judgeFront, hx, hplaced, judgeMgmt, hrows]
  have hcount : placedCount i s = 1 := by simp [placedCount, hx, hplaced]
  unfold drive
  rw [if_pos hopen, hcount]
  unfold driveN
  simp only [hjudged]
  split <;> rfl

/-- A valid MGMT request at E of an empty order, whose rows pass, is accepted by the command that brings it. -/
theorem exec_mgmt_alone {c : Instr} (hc : c ∈ [Instr.regRead f, .regWrite f]) (hreach : Reaches (.mgmt f) s)
    (hvalid : ValidFor (.mgmt f) x s) (hzero : f.env.hdr.inst.toNat = 0)
    (hsome : allocBuf (landingPool (.mgmt f)) (landingPool (.mgmt f)) false (received (.mgmt f) s) = (some b, r))
    (hy : inst? r 0 = some y) (hstate : stateRefusal y = none) (hopen : r.sys.open' = true) (hat : f.env.hdr.seq = y.e)
    (hplaced : y.placed = []) (hclear : y.heldUp = [])
    (hrows : mgmtRows (setInst 0 (placedAt r.quartz (.mgmt f) b y) r) 0 (placedAt r.quartz (.mgmt f) b y) f = .pass) :
    exec c s = .next (settle (acceptMgmt 0 f (setInst 0 (placedAt r.quartz (.mgmt f) b y) r))) := by
  have hinst : inst? r (upEnv (.mgmt f)).hdr.inst.toNat = some y := (congrArg (inst? r) hzero).trans hy
  have hframe := validFrame_clear hsome hinst hstate (by simp [seqDiff, upEnv, hat]) hclear
  have hfront : (placedAt r.quartz (.mgmt f) b y).placed =
      [(f.env.hdr.seq, .mgmt f, { at' := r.quartz, buf := some b })] := by
    simp [placedAt, place, hplaced, upEnv]
  rw [show (upEnv (.mgmt f)).hdr.inst.toNat = 0 from hzero] at hframe
  rw [exec_valid (u := .mgmt f) (exec_mgmtCommand hc s) hreach hvalid,
    show (upEnv (.mgmt f)).hdr.inst.toNat = 0 from hzero, hframe, drive_mgmt (inst?_setInst_self ..) hopen hfront hrows]

/-! ### The reply (R98, R299) -/

/-- A sequenced frame takes the next down number, and stays with its `Inst` until it is acknowledged (R100, R106). -/
theorem sendOwned_inst (hx : inst? s i = some x) (pref flags slot block : Nat) (body : Body) (trailer : Option Trailer)
    (buf : Option (Nat × Nat)) : ∃ y d, inst? (sendOwned i pref flags slot block body trailer buf s) i = some y ∧
      y.down = x.down + 1 ∧ y.e = x.e ∧ y.slots = x.slots ∧ d ∈ y.unacked ++ y.backlog ∧ d.seq = x.down ∧
      d.body = body ∧ d.flags = flags := by
  unfold sendOwned
  rw [hx]
  dsimp only
  split
  · split
    · exact ⟨_, _, (inst?_emit ..).trans (inst?_setInst_self ..), rfl, rfl, rfl,
        List.mem_append_left _ (List.mem_append_right _ (List.mem_singleton_self _)), rfl, rfl, rfl⟩
    · exact ⟨_, _, inst?_setInst_self .., rfl, rfl, rfl,
        List.mem_append_left _ (List.mem_append_right _ (List.mem_singleton_self _)), rfl, rfl, rfl⟩
  · exact ⟨_, _, inst?_setInst_self .., rfl, rfl, rfl,
      List.mem_append_right _ (List.mem_append_right _ (List.mem_singleton_self _)), rfl, rfl, rfl⟩

theorem mgmtReply_eq (hx : inst? s 0 = some x) (f : MgmtFrame) (words : List U32) : ∃ u trl, inst? u 0 = some x ∧
    mgmtReply f words s = sendOwned 0 f.env.link.val (flag (hasTrailer f.env.hdr) 0 + flag s.mgmt.err 8) 0 0
      (.mgmt f.op.toNat f.count.toNat f.addr words) trl none u := by
  unfold mgmtReply
  rw [hx]
  refine ⟨_, _, ?_, rfl⟩
  rw [apply_ite (inst? · 0), inst?_keccakMsg, ite_self]
  exact hx

end Sys2Proof.Proofs
end

section
/-! The statements of 04_transport: links and ports, frames outside the order, the order of sequenced frames, the ACK field, the
timers, and the MGMT requests. -/

namespace Sys2Proof.Proofs

open Sys2Proof Sys2Proof.Machine Sys2Proof.Laws Sys2Proof.Safety

/-- Settles O21: the loss and the return of a link by `linkDown_last` and `linkReturns_told` and their other cases, the loss of
a port's clock by `exec_portRefclkLoss_present`. -/
theorem linkAndPortLoss : Obligations.LinkAndPortLoss := by
  unfold Obligations.LinkAndPortLoss
  refine ⟨fun l s => ⟨fun hdown => ?_, fun hnot => ?_, fun hup hengine hboot => ?_,
      fun hdown hexists hboot hengine hwhole => ?_, fun hdown hexists hboot hengine hwhole => ?_⟩,
    fun l s hup hboot => ⟨fun ⟨n, hn, hne, hother⟩ => ?_, fun hlast hclock => ?_, loseLink_shape l.val s hup⟩,
    fun p s => ⟨exec_portRefclkLoss_absent, fun hpresent => ?_⟩⟩
  · exact congrArg Host.Outcome.next (linkDown_absent hdown)
  · exact congrArg Host.Outcome.next (linkReturns_not hnot)
  · exact congrArg Host.Outcome.next ((linkDown_alone hup (.inl hboot)).trans (loseLink_silent hup hengine))
  · exact congrArg Host.Outcome.next (linkReturns_silent hdown hexists hboot hwhole hengine)
  · exact ⟨_, congrArg Host.Outcome.next (linkReturns_told hdown hexists hboot hwhole hengine), notifyLink_transported ..⟩
  · have hlit : portDark (loseLink l.val s) (l.val / 8) = false := by
      rw [Bool.eq_false_iff, Ne, portDark_loseLink hup]
      exact fun hdark => by simp [hdark n hn hne] at hother
    exact congrArg Host.Outcome.next (linkDown_alone hup (.inr hlit))
  · exact ⟨_, rfl, (defaultSev_port (by omega)).1,
      congrArg Host.Outcome.next (linkDown_last hup hboot ((portDark_loseLink hup).mpr hlast) hclock)⟩
  · exact ⟨_, rfl, (defaultSev_port p.isLt).2, exec_portRefclkLoss_present hpresent⟩

/-- Settles O22: pause frames by `pauseFrame_up` and `pauseLinks_wire`, silent drops by `silentDrop_shape`, the answers by
`arpRequest_run` and `neighborSolicitation_run`. -/
theorem pauseDropAndAddressFrames : Obligations.PauseDropAndAddressFrames := by
  unfold Obligations.PauseDropAndAddressFrames
  refine ⟨fun l p q port s hpfc => ⟨fun hup => ⟨fun hprio => ?_, fun hprio hq => ?_, fun hprio hq => ?_⟩,
      fun hboot hxoff hshort => ?_, exec_xoffRefresh_idle⟩,
    fun l p q s hpfc hup => ?_, fun l f s => ⟨fun hdown => ?_, exec_silentlyDroppedFrame_up f⟩,
    fun l a b vlan src s hup hboot hawake => ?_⟩
  · refine congrArg Host.Outcome.next ((pauseFrame_up hup).trans ?_)
    rw [if_neg (by simp [hpfc]), if_pos hprio]
  · refine congrArg Host.Outcome.next ((pauseFrame_up hup).trans ?_)
    rw [if_neg (by simp [hpfc]), if_neg (by simp [hprio]), if_pos (by simp [hq])]
  · exact ⟨_, rfl, pauseFrame_stops hup hpfc hprio (by simpa [← BitVec.toNat_inj] using hq)⟩
  · refine ⟨_, exec_xoffRefresh_sends hpfc hboot hxoff hshort, pauseLinks_transported .., fun n hn hup => ?_⟩
    exact (pauseLinks_wire true _ s).2 n (List.mem_filter.mpr ⟨hn, hup⟩)
  · refine congrArg Host.Outcome.next ((pauseFrame_up hup).trans ?_)
    rw [if_pos hpfc]
  · exact congrArg Host.Outcome.next (if_neg (by simp [hdown]))
  · have harp := arpRequest_run (countIn_recorded l.val 64 s) hboot l.val a vlan src
    have hsol := neighborSolicitation_run (countIn_recorded l.val 90 s) hboot l.val b vlan src
    rw [exec_arpRequest l a vlan src hup hboot hawake, exec_neighborSolicitation l b vlan src hup hboot hawake, harp, hsol]
    refine ⟨fun hvlan hip hne => ?_, fun hnot => ?_, fun hvlan hip hne => ?_, fun hnot => ?_,
      fun hfree hvlan => ⟨fun hip hne => ?_, fun hip hne => ?_⟩⟩
    · rw [if_pos ⟨hvlan, hip, hne⟩]
    · rw [if_neg (by rcases hnot with h | h | h <;> simp [h])]
    · rw [if_pos ⟨hvlan, hip, hne⟩]
    · rw [if_neg (by rcases hnot with h | h | h <;> simp [h])]
    · rw [if_pos ⟨hvlan, hip, hne⟩]
      obtain ⟨d, hsent⟩ := answer_sent (countIn_recorded l.val 64 s) hboot hfree (.arp a) src
      exact ⟨_, d, rfl, hsent⟩
    · rw [if_pos ⟨hvlan, hip, hne⟩]
      obtain ⟨d, hsent⟩ := answer_sent (countIn_recorded l.val 90 s) hboot hfree (.neighbor b) src
      exact ⟨_, d, rfl, hsent⟩

/-- Settles O28: a valid frame by `exec_valid`, its landing buffer by the cases of `validFrame`, its distance by those
of `orderFrame`; a frame at E by `placeFrame_clear`, one beyond it by `holdFrame_first_inst`. -/
theorem upFramesActOnTheOrderByDistance : Obligations.UpFramesActOnTheOrderByDistance := by
  unfold Obligations.UpFramesActOnTheOrderByDistance
  refine ⟨fun f d m c u s r x y i q b hc hreach hvalid hi hy hq => ?_, fun i u b s x hx => ?_⟩
  · subst hi hq
    rw [exec_valid (exec_upCommand hc s) hreach hvalid]
    refine ⟨fun hnone => settled_congr (validFrame_noBuffer hnone), fun hsome => ?_⟩
    replace hy := (inst?_of_released (alloc_released hsome) _).trans hy
    refine ⟨fun k hstate => settled_congr (validFrame_refused hsome hy hstate), fun hstate => ?_⟩
    rw [validFrame_ordered hsome hy hstate, ← quartz_landed hsome]
    refine ⟨fun hcopy => settled_congr (orderFrame_copy hy hcopy), fun hat => settled_congr (orderFrame_place hy hat),
      fun hat hclear => ?_, fun hbeyond hnear => settled_congr (orderFrame_hold hy hbeyond hnear),
      fun hbeyond hnear hnew => ?_, fun hfar => settled_congr (orderFrame_overrun hy hfar)⟩
    · exact ⟨_, _, settled_congr ((orderFrame_place hy hat).trans (placeFrame_clear hy hclear)), inst?_setInst_self ..,
        rfl, rfl, rfl, rfl, rfl, rfl, rfl⟩
    · obtain ⟨⟨a, hheld⟩, hsent⟩ := holdFrame_first_inst (b := b) hy hnew
      exact ⟨_, _, settled_congr (orderFrame_hold hy hbeyond hnear), hheld, rfl, rfl, rfl, rfl, rfl,
        (proj_of_transported State.med hsent :)⟩
  · refine ⟨?_, fun hnew => (holdFrame_first_inst hx hnew).2, fun hcopy => ?_⟩
    · by_cases hcopy : (x.heldUp.any fun p => p.1 = (upEnv u).hdr.seq) = true
      · obtain ⟨a, hacked⟩ := sendAck_inst ((inst?_of_released (dropLanding_released u b s) i).trans hx)
        rw [holdFrame_again hx hcopy]
        exact ⟨_, hacked, rfl, rfl, rfl, fun _ => ⟨rfl, rfl⟩, fun hnew => absurd (hcopy.symm.trans hnew) Bool.noConfusion⟩
      · rw [Bool.not_eq_true] at hcopy
        obtain ⟨⟨a, hheld⟩, -⟩ := holdFrame_first_inst (b := b) hx hcopy
        exact ⟨_, hheld, rfl, rfl, rfl, fun hagain => absurd (hcopy.symm.trans hagain) Bool.noConfusion, fun _ => ⟨rfl, rfl⟩⟩
    · rw [holdFrame_again hx hcopy]
      exact sendAck_transported ..

/-- Settles O30: the field by `takeAck_behind`, `takeAck_ahead` and `takeAck_beyond`; an ACK frame is taken by `received_inst`
and answered by `answerAck_inst` and `answerAck_probe`. -/
theorem ackFramesReleaseWhatTheyPass : Obligations.AckFramesReleaseWhatTheyPass := by
  unfold Obligations.AckFramesReleaseWhatTheyPass
  refine ⟨fun i e type s x hx => ⟨fun hsent hbehind => takeAck_behind hx hsent hbehind type, fun hsent hahead => ?_,
      fun hbeyond => takeAck_beyond hx hbeyond type⟩,
    fun i f c e s x hx hc he hi hup hboot hawake hengine houter hsound hsource => ?_⟩
  · obtain ⟨a, q, b, hpassed, hopen⟩ := advanceAck_inst hx e.hdr.ack
    rw [takeAck_ahead hx hsent hahead]
    exact ⟨_, hpassed, rfl, rfl, rfl, rfl, hopen⟩
  · subst he hi
    have hrec := countIn_recorded f.env.link.val (upBytes s f.env) s
    have hexec := exec_ackFrame hc s
    rw [arrive_awake _ _ _ hup (by rw [hboot]; nofun) hawake] at hexec
    generalize countIn f.env.link.val (upBytes s f.env) s = r at hrec hexec ⊢
    have hsys := sys_of_recorded hrec
    replace hx := (inst?_of_recorded hrec f.env.hdr.inst.toNat).trans hx
    rw [ackFrame_valid (hsys ▸ hboot) (hsys ▸ hengine) ((outerOk_of_recorded hrec f.env).trans houter) hsound hx
      hsource] at hexec
    refine ⟨hexec, fun hsent => ?_⟩
    obtain ⟨y, hy, hye, hydown, hyheld, hyvalid, hylast, hyahead, hybehind⟩ := received_inst hx hsent 4
    obtain ⟨a, q, hanswered⟩ := answerAck_inst hy f
    have hkept : amGet? y.lastValid f.env.link.val = some f.env.src := by rw [hyvalid, amGet?_amSet_self]
    refine ⟨_, _, hexec, hanswered, hye, hydown, hkept, hylast, hyahead, hybehind, fun hprobe hfree => ?_⟩
    have hreceived := valid_received hrec f.env.hdr.inst.toNat f.env 4
    have hsack : sackOf y = sackOf x := by rw [sackOf, sackOf, hye, hyheld]
    rw [← hye, ← hydown, ← hsack]
    exact answerAck_probe hy hprobe (by rw [hkept]; rfl) ((linkUp_of_received hreceived _).trans hup)
      ((linkPaused_of_received hreceived _).trans hfree) (by rw [sys_of_received hreceived, hboot]; nofun)

/-- Settles O31: each timer by its case; the ACK goes out by `sendAck_sent`, the `Inst` behind a resend and behind the
REJECT of the held frames by `resendWhere_inst` and `sendReject_inst`. -/
theorem transportTimersActOnTheirInstance : Obligations.TransportTimersActOnTheirInstance := by
  unfold Obligations.TransportTimersActOnTheirInstance
  refine fun i s x hx hengine => ⟨fun hbehind => settled_congr (ackDelay_due hx hengine hbehind),
    fun l hbehind hlast hsource hup hfree hboot => ?_, fun hsent => settled_congr (ackDelay_idle hx hsent),
    fun hgap hheld => settled_congr (gapRepeat_due hx hengine hgap hheld),
    fun l hgap hheld hlast hsource hup hfree hboot => ?_, fun hgap => settled_congr (gapRepeat_idle hx hgap),
    fun hgap hheld => ?_, fun hopen hgoing hfew => ?_,
    fun hopen hgoing hmany => settled_congr (rtoExpire_stalls hx hengine hopen hgoing hmany)⟩
  · obtain ⟨hinst, d, hwire, hlink, hname, hack, hbody⟩ := sendAck_sent hx hlast hsource hup hfree hboot
    obtain ⟨g, k, hsack⟩ := ackBody_sack x
    exact ⟨_, _, d, settled_congr (ackDelay_due hx hengine hbehind), hinst, rfl, rfl, rfl, hwire, hlink, hname, hack,
      ⟨g, k, hbody.trans hsack⟩, sendAck_transported ..⟩
  · obtain ⟨hinst, d, hwire, hlink, hname, -, hbody⟩ := sendAck_sent hx hlast hsource hup hfree hboot
    obtain ⟨k, hfirst⟩ := firstHeld_isSome hheld
    exact ⟨_, _, d, k, settled_congr (gapRepeat_due hx hengine hgap hheld), hinst, rfl, rfl, rfl, hwire, hlink, hname,
      hfirst, hbody.trans (by simp [ackBody, hfirst]), sendAck_transported ..⟩
  · obtain ⟨e, r, hreject⟩ := gapExpire_due hx hgap hheld
    rw [freeLanding_setInst] at hreject
    obtain ⟨a, w, n, hinst⟩ := sendReject_inst (inst?_setInst_self i.val { x with heldUp := [], gapAt := none }
      (freeLanding x.heldUp s)) e true r
    exact ⟨_, _, settled_congr hreject, Transported.app (sendReject_transported ..) (setInst_transported ..), hinst,
      rfl, rfl, rfl, rfl⟩
  · have hagain := settled_congr (rtoExpire_again hx hengine hopen hgoing hfew)
    obtain ⟨a, q, hinst⟩ := resendWhere_inst
      (inst?_setInst_self i.val { x with expiries := x.expiries + 1 } s) (fun _ => true)
    exact ⟨hagain, _, _, hagain, hinst, rfl, hgoing, rfl, rfl,
      Transported.app (resendWhere_transported ..) (setInst_transported ..)⟩

/-- Settles O35: the words by `readWords_getElem?` and `writeWords_append`, the accepted request by `mgmtTaken_frame`, its way
through the order by `drive_mgmt`, the reply by `sendOwned_inst`. -/
theorem mgmtRequestsAccessInAscendingOrder : Obligations.MgmtRequestsAccessInAscendingOrder := by
  unfold Obligations.MgmtRequestsAccessInAscendingOrder
  refine ⟨fun n a s hspace => ⟨readWords_length n a s, fun k hk => readWords_getElem? s hspace hk⟩,
    fun a v l s hspace => ⟨rfl, writeWords_append v s hspace⟩,
    fun i f s => ⟨mgmtTaken i f s, acceptMgmt_read, acceptMgmt_write, mgmtTaken_frame i f s⟩,
    fun f c s r t x y z b hc hreach hvalid hzero hy hsome hstate hopen hat hplaced hclear hz ht hrows => ?_,
    fun f words s x hx => ?_⟩
  · replace hy := (inst?_of_released (alloc_released hsome) 0).trans hy
    have hz' : z = placedAt r.quartz (.mgmt f) b y := by
      rw [hz, quartz_landed hsome, placedAt, place, hplaced]
      rfl
    subst ht hz'
    have hexec := exec_mgmt_alone hc hreach hvalid (congrArg BitVec.toNat hzero) hsome hy hstate hopen hat hplaced hclear
      hrows
    obtain ⟨herr, hmed, hdmc, hcfl, hslt, hpwr⟩ := mgmtTaken_frame 0 f (setInst 0 (placedAt r.quartz (.mgmt f) b y) r)
    exact ⟨hexec, _, herr, hmed, hdmc, hcfl, hslt, hpwr,
      fun hread => hexec.trans (settled_congr (acceptMgmt_read hread)),
      fun hwrite => hexec.trans (settled_congr (acceptMgmt_write hwrite))⟩
  · obtain ⟨u, trl, hu, hreply⟩ := mgmtReply_eq hx f words
    rw [hreply]
    exact sendOwned_inst hu ..

end Sys2Proof.Proofs
end

section
/-! SUPPORT. The HELD task of a slot: what a read of it gives after a change of it. What the answers of an instance change of
it, and how a completed task ends (R118, R155, R207). -/

namespace Sys2Proof.Proofs

open Sys2Proof Sys2Proof.Machine Sys2Proof.Laws Sys2Proof.Safety

variable {s t u : State} {i j slot : Nat} {x y : Inst} {k : Task}

/-! ### The HELD task of a slot -/

@[simp] theorem slotOf_setSlot_self (n : Nat) (sl : Slot) (x : Inst) : slotOf (setSlot n sl x) n = some sl :=
  amGet?_amSet_self ..

theorem heldTask_of_slot (hx : inst? s i = some x) (hslot : slotOf x slot = some (.held k)) :
    heldTask s i slot = some k := by
  simp [heldTask, hx, hslot]

theorem slot_of_heldTask (hx : inst? s i = some x) (hheld : heldTask s i slot = some k) :
    slotOf x slot = some (.held k) := by
  simp only [heldTask, hx] at hheld
  split at hheld
  next hslot => exact hslot.trans (congrArg (fun k => some (Slot.held k)) (Option.some.inj hheld))
  next => nomatch hheld

theorem modTask_eq (hheld : heldTask s i slot = some k) (f : Task → Task) :
    modTask i slot f s = modInst i (setSlot slot (.held (f k))) s := by
  simp [modTask, hheld]

theorem inst?_modTask_self (hx : inst? s i = some x) (hheld : heldTask s i slot = some k) (f : Task → Task) :
    inst? (modTask i slot f s) i = some (setSlot slot (.held (f k)) x) := by
  rw [modTask_eq hheld, inst?_modInst_self, hx]
  rfl

theorem inst?_modTask_ne (h : j ≠ i) (slot : Nat) (f : Task → Task) (s : State) :
    inst? (modTask i slot f s) j = inst? s j := by
  unfold modTask
  split
  · rfl
  · exact inst?_modInst_ne _ _ _ _ h

/-! ### What answers change -/

/-- What the answers of an `Inst` may change of it: the sequenced frames that leave (R100, R103, R106) and the account of its
missed deadlines (R209, R228). -/
def Answered (x y : Inst) : Prop :=
  y = { x with down := y.down, unacked := y.unacked, backlog := y.backlog, ackOut := y.ackOut, misses := y.misses
               escalated := y.escalated, restartLate := y.restartLate }

theorem Answered.trans {x y z : Inst} (h : Answered x y) (k : Answered y z) : Answered x z := by
  unfold Answered at h k ⊢
  rw [h] at k
  exact k

/-- What answers leave between two states: the cipher lanes' registers, and of an instance all but what `Answered` names. -/
structure Answers (i : Nat) (s t : State) : Prop where
  cph : t.cph = s.cph
  inst : ∀ x, inst? s i = some x → ∃ y, inst? t i = some y ∧ Answered x y

theorem Answers.of_same (hcph : t.cph = s.cph) (hinsts : t.insts = s.insts) : Answers i s t :=
  ⟨hcph, fun x hx => ⟨x, (congrArg (amGet? · i) hinsts).trans hx, rfl⟩⟩

theorem Answers.refl (i : Nat) (s : State) : Answers i s s := .of_same rfl rfl

theorem Answers.trans (h : Answers i s t) (k : Answers i t u) : Answers i s u :=
  ⟨k.cph.trans h.cph, fun x hx => by
    obtain ⟨y, hy, hxy⟩ := h.inst x hx
    obtain ⟨z, hz, hyz⟩ := k.inst y hy
    exact ⟨z, hz, hxy.trans hyz⟩⟩

theorem Answers.ite {p : Prop} [Decidable p] (h : Answers i s t) (k : Answers i s u) :
    Answers i s (if p then t else u) := by
  split
  · exact h
  · exact k

theorem Answers.of_recorded (h : Recorded s t) : Answers i s t :=
  .of_same (proj_of_recorded State.cph h :) (proj_of_recorded State.insts h :)

theorem Answers.of_released (h : Released s t) : Answers i s t :=
  .of_same (proj_of_released State.cph h :) (proj_of_released State.insts h :)

theorem Answers.of_raise (part : Nat) (f : Fault') (s : State) : Answers i s (raise part f s) := .of_same rfl rfl

theorem Answers.of_setInst (hx : inst? s i = some x) (h : Answered x y) : Answers i s (setInst i y s) :=
  ⟨rfl, fun z hz => by
    obtain rfl := Option.some.inj (hx.symm.trans hz)
    exact ⟨y, inst?_setInst_self .., h⟩⟩

theorem Answers.of_modInst {f : Inst → Inst} (h : ∀ x, Answered x (f x)) (s : State) : Answers i s (modInst i f s) :=
  ⟨rfl, fun x hx => ⟨f x, (inst?_modInst_self ..).trans (congrArg _ hx), h x⟩⟩

theorem sendOwned_answers (i pref flags slot block : Nat) (body : Body) (trailer : Option Trailer)
    (buf : Option (Nat × Nat)) (s : State) : Answers i s (sendOwned i pref flags slot block body trailer buf s) := by
  refine ⟨(proj_of_transported State.cph (sendOwned_transported ..) :), fun x hx => ?_⟩
  unfold sendOwned
  rw [hx]
  dsimp only
  split
  · split
    · exact ⟨_, (inst?_emit ..).trans (inst?_setInst_self ..), rfl⟩
    · exact ⟨_, inst?_setInst_self .., rfl⟩
  · exact ⟨_, inst?_setInst_self .., rfl⟩

theorem notify_answers (i ev a0 a1 a2 : Nat) (s : State) : Answers i s (notify i ev a0 a1 a2 s) := by
  unfold notify
  split
  · exact .refl ..
  · exact sendOwned_answers ..

theorem letGo_released (b : ReadBlock) (s : State) : Released s (letGo b s) := by
  have htwin : Released s (match b.twin with
      | some t => if b.ref then freeTwin t s else s
      | none => s) := by
    split
    · split
      · exact (decRef_released ..).trans (decRef_released ..)
      · rfl
    · rfl
  exact htwin.trans (freeBufs_released ..)

theorem letGoAll_released (blocks : List ReadBlock) (s : State) :
    Released s (blocks.foldl (fun s b => letGo b s) s) := by
  induction blocks generalizing s with
  | nil => rfl
  | cons b blocks ih => exact (letGo_released b s).trans (ih _)

/-! ### Missed deadlines (R209, R227, R228) -/

theorem escalate_answers (i : Nat) (s : State) : Answers i s (escalate i s) := by
  unfold escalate
  split
  · exact .refl ..
  next x hx =>
    have hflagged : Answers i s (setInst i { x with escalated := true } s) := .of_setInst hx (by rfl)
    refine .ite ?_ (.refl ..)
    exact (hflagged.trans (.of_raise ..)).trans ((Answers.of_recorded (tally_recorded ..)).trans (notify_answers ..))

theorem missRestart_answers (i : Nat) (s : State) : Answers i s (missRestart i s) := by
  have hmarked : Answers i s (modInst i (fun x => { x with restartLate := true }) s) := .of_modInst (fun _ => by rfl) s
  unfold missRestart
  generalize modInst i _ s = u at hmarked ⊢
  have hcounted : Answers i u { u with qtz := { u.qtz with restartLate := satInc u.qtz.restartLate } } := .of_same rfl rfl
  exact (hmarked.trans hcounted).trans (.of_recorded (Recorded.app (tally_recorded ..) (tally_recorded ..)))

theorem missLate_answers (i slot : Nat) (t : Task) (s : State) : Answers i s (missLate i slot t s) := by
  unfold missLate
  dsimp only
  have htallied : Answers i s (tally noInst 0x0101 0 1 (tally i 0x0004 (20 + namedCause
      (tally i 0x0004 (t.op - 1) 1 s).quartz t - 1) 1 (tally i 0x0004 (t.op - 1) 1 s))) :=
    .of_recorded (Recorded.app (tally_recorded ..) (Recorded.app (tally_recorded ..) (tally_recorded ..)))
  generalize tally noInst 0x0101 0 1 _ = u at htallied ⊢
  refine .trans ?_ (escalate_answers ..)
  refine .trans ?_ (.of_modInst (fun _ => by rfl) _)
  refine .trans ?_ (.of_recorded (eventAt_recorded ..))
  refine htallied.trans (.ite (.trans ?_ (.of_recorded (notice_recorded ..))) ?_)
  · exact .of_same rfl rfl
  · exact .of_same rfl rfl

theorem missTask_answers (i slot : Nat) (t : Task) (s : State) : Answers i s (missTask i slot t s) :=
  .ite (missRestart_answers ..) (missLate_answers ..)

/-! ### Completion (R118, R155, R207) -/

/-- The COMPLETION of a task that ends with a status (R124, R155, R207). -/
def completionOf (s : State) (t : Task) (st result : Nat) (dropped : Bool) : Completion :=
  let st := if isLate s t && canBeLate st then stLate else st
  { status := st, op := t.op, dropped := dropped, taskSeq := t.seq, result := resultFor t.op st result,
    acceptTime := t.acceptTime, serviceNs := min (s.quartz - t.acceptTime) 0xFFFFFFFF }

/-- A COMPLETION leaves and is counted, with the outcome of its task's deadline (R207, R389). -/
def completionSent (i slot : Nat) (t : Task) (c : Completion) (trl : Option Trailer) (late : Bool) (s : State) : State :=
  let s := sendSeq i t.link (flag t.trailer.isSome 0) slot 0 (.completion c) trl s
  let s := if trl.isSome then keccakMsg false s else s
  let s := tally i 0x0001 (20 + statusIdx c.status) 1 s
  let s := tally i 0x0003 (latencyBase t.op + latencyBin (s.quartz - t.ready)) 1 s
  let s := if t.op = 0x12 then tally i 0x0008 3 1 s else if t.op = 0x13 then tally i 0x0008 4 1 s
    else if t.op = 0x14 then tally i 0x0008 5 1 s else s
  if late then missTask i slot t s else s

theorem completionSent_answers (i slot : Nat) (t : Task) (c : Completion) (trl : Option Trailer) (late : Bool)
    (s : State) : Answers i s (completionSent i slot t c trl late s) := by
  have htally : ∀ target group field v, Answers i v (tally target group field 1 v) := fun _ _ _ _ =>
    .of_recorded (tally_recorded ..)
  have hkind : ∀ v, Answers i v (if t.op = 0x12 then tally i 0x0008 3 1 v else if t.op = 0x13 then tally i 0x0008 4 1 v
      else if t.op = 0x14 then tally i 0x0008 5 1 v else v) := fun v =>
    .ite (htally ..) (.ite (htally ..) (.ite (htally ..) (.refl ..)))
  have hmiss : ∀ v, Answers i v (if late then missTask i slot t v else v) := fun v => .ite (missTask_answers ..) (.refl ..)
  unfold completionSent
  dsimp only
  refine .trans (.trans (.trans (.trans ?_ (htally ..)) (htally ..)) (hkind _)) (hmiss _)
  exact (sendOwned_answers ..).trans (.ite (.of_recorded (keccakMsg_recorded ..)) (.refl ..))

/-- A completed task lets go what its blocks hold; its slot is DONE before the COMPLETION leaves (R118). -/
theorem completeTask_eq (hx : inst? s i = some x) (hslot : slotOf x slot = some (.held k)) (st result : Nat)
    (dropped : Bool) : ∃ trl, completeTask i slot st result dropped s =
      completionSent i slot k (completionOf s k st result dropped) trl (isLate s k) (k.blocks.foldl (fun s b => letGo b s)
        (modInst i (setSlot slot (.done (completionOf s k st result dropped) x.down trl
          { k with blocks := [], reply := [] })) s)) := by
  unfold completeTask
  rw [heldTask_of_slot hx hslot, hx]
  exact ⟨_, rfl⟩

/-- A HELD task that completes: its slot is DONE with its COMPLETION and the next down number; the rest of its `Inst` is as
it was but for its answers. -/
theorem completeTask_inst (hx : inst? s i = some x) (hslot : slotOf x slot = some (.held k)) (st result : Nat)
    (dropped : Bool) : ∃ y trl, inst? (completeTask i slot st result dropped s) i = some y ∧
      Answered (setSlot slot (.done (completionOf s k st result dropped) x.down trl { k with blocks := [], reply := [] }) x) y ∧
      (completeTask i slot st result dropped s).cph = s.cph := by
  obtain ⟨trl, hcomplete⟩ := completeTask_eq hx hslot st result dropped
  rw [hcomplete]
  generalize completionOf s k st result dropped = c
  have hdone : inst? (modInst i (setSlot slot (.done c x.down trl { k with blocks := [], reply := [] })) s) i =
      some (setSlot slot (.done c x.down trl { k with blocks := [], reply := [] }) x) :=
    (inst?_modInst_self ..).trans (congrArg _ hx)
  have hsent := (Answers.of_released (i := i) (letGoAll_released k.blocks (modInst i (setSlot slot (.done c x.down trl
    { k with blocks := [], reply := [] })) s))).trans (completionSent_answers i slot k c trl (isLate s k) _)
  obtain ⟨y, hy, hanswered⟩ := hsent.inst _ hdone
  exact ⟨y, trl, hy, hanswered, hsent.cph⟩

end Sys2Proof.Proofs
end

section
/-! SUPPORT. The acceptance instant (R130): the update of the slot and the order, the counter that it records (R300), and what
the map cache and the landing buffers leave of the instances. -/

namespace Sys2Proof.Proofs

open Sys2Proof Sys2Proof.Machine Sys2Proof.Laws Sys2Proof.Safety

variable {s : State} {i : Nat} {x : Inst}

/-! ### The counter (R300, R301) -/

/-- What a recorded counter and its REKEY may change of an `Inst`: its command keys, and what answers change. -/
def Counted (x y : Inst) : Prop :=
  y = { x with cmd := y.cmd, prev := y.prev, graceEnd := y.graceEnd, down := y.down, unacked := y.unacked
               backlog := y.backlog, ackOut := y.ackOut, misses := y.misses, escalated := y.escalated
               restartLate := y.restartLate }

theorem Counted.trans {x y z : Inst} (h : Counted x y) (k : Counted y z) : Counted x z := by
  unfold Counted at h k ⊢
  rw [h] at k
  exact k

/-- A REKEY leaves the last accepted counter as it is. -/
def Rekeyed (x y : Inst) : Prop := Counted x y ∧ y.cmd.map CmdKey.lac = x.cmd.map CmdKey.lac

theorem Rekeyed.refl (x : Inst) : Rekeyed x x := ⟨rfl, rfl⟩

theorem Rekeyed.trans {x y z : Inst} (h : Rekeyed x y) (k : Rekeyed y z) : Rekeyed x z :=
  ⟨h.1.trans k.1, k.2.trans h.2⟩

theorem Rekeyed.of_answered {x y : Inst} (h : Answered x y) : Rekeyed x y := by
  unfold Answered at h
  rw [h]
  exact ⟨rfl, rfl⟩

theorem rekey_inst (hx : inst? s i = some x) (kind : Nat) : ∃ y, inst? (rekey i kind s) i = some y ∧ Rekeyed x y := by
  unfold rekey
  rw [hx]
  dsimp only
  split
  · exact ⟨x, hx, .refl x⟩
  next c hcmd =>
    split
    · exact ⟨x, hx, .refl x⟩
    · obtain ⟨y, hy, hanswered⟩ := (notify_answers ..).inst _ (inst?_setInst_self i
        { x with cmd := some { c with rekeySent := c.rekeySent ||| 2 ^ (kind - 1) } } s)
      have hmarked : Rekeyed x { x with cmd := some { c with rekeySent := c.rekeySent ||| 2 ^ (kind - 1) } } :=
        ⟨rfl, by rw [hcmd]; rfl⟩
      exact ⟨y, hy, hmarked.trans (.of_answered hanswered)⟩

theorem rekeyPrev_inst (hx : inst? s i = some x) (kind : Nat) :
    ∃ y, inst? (rekeyPrev i kind s) i = some y ∧ Rekeyed x y := by
  unfold rekeyPrev
  rw [hx]
  dsimp only
  split
  · exact ⟨x, hx, .refl x⟩
  next c _ =>
    split
    · exact ⟨x, hx, .refl x⟩
    · obtain ⟨y, hy, hanswered⟩ := (notify_answers ..).inst _ (inst?_setInst_self i
        { x with prev := some { c with rekeySent := c.rekeySent ||| 2 ^ (kind - 1) } } s)
      have hmarked : Rekeyed x { x with prev := some { c with rekeySent := c.rekeySent ||| 2 ^ (kind - 1) } } :=
        ⟨rfl, rfl⟩
      exact ⟨y, hy, hmarked.trans (.of_answered hanswered)⟩

/-- The warnings of a counter that nears its maximum, and of one that has reached it (R301). -/
theorem warnings_inst {warn : Nat → State → State}
    (hwarn : ∀ {u : State} {z : Inst}, inst? u i = some z → ∀ kind, ∃ y, inst? (warn kind u) i = some y ∧ Rekeyed z y)
    (hx : inst? s i = some x) (near last : Prop) [Decidable near] [Decidable last] :
    ∃ y, inst? (if last then warn 2 (if near then warn 1 s else s) else if near then warn 1 s else s) i = some y ∧
      Rekeyed x y := by
  have hnear : ∃ z, inst? (if near then warn 1 s else s) i = some z ∧ Rekeyed x z := by
    split
    · exact hwarn hx 1
    · exact ⟨x, hx, .refl x⟩
  obtain ⟨z, hz, hxz⟩ := hnear
  split
  · obtain ⟨y, hy, hzy⟩ := hwarn hz 2
    exact ⟨y, hy, hxz.trans hzy⟩
  · exact ⟨z, hz, hxz⟩

/-- The `Inst` whose counter has been recorded; of the current generation it is the last accepted one (R300). -/
theorem acceptCounter_inst (hx : inst? s i = some x) (gen counter : Nat) :
    ∃ y, inst? (acceptCounter i gen counter s) i = some y ∧ Counted x y ∧
      ∀ k, x.cmd = some k → k.gen = gen → y.cmd.map CmdKey.lac = some counter := by
  unfold acceptCounter
  rw [hx]
  dsimp only
  split
  · obtain ⟨y, hy, hcounted, hlac⟩ := warnings_inst (warn := rekey i) rekey_inst (inst?_setInst_self i
      { x with cmd := x.cmd.map fun k => { k with lac := counter }, graceEnd := none } s) (2 ^ 64 - 2 ^ 32 ≤ counter)
      (counter = 2 ^ 64 - 1)
    have htaken : Counted x { x with cmd := x.cmd.map fun k => { k with lac := counter }, graceEnd := none } := rfl
    exact ⟨y, hy, htaken.trans hcounted, fun k hk _ => hlac.trans (by rw [hk]; rfl)⟩
  next hother =>
    have hnot : ∀ k, x.cmd = some k → k.gen ≠ gen := fun k hk hgen => hother (by simp [hk, hgen])
    split
    · obtain ⟨y, hy, hcounted, -⟩ := warnings_inst (warn := rekeyPrev i) rekeyPrev_inst (inst?_setInst_self i
        { x with prev := x.prev.map fun k => { k with lac := counter } } s) (2 ^ 64 - 2 ^ 32 ≤ counter)
        (counter = 2 ^ 64 - 1)
      have htaken : Counted x { x with prev := x.prev.map fun k => { k with lac := counter } } := rfl
      exact ⟨y, hy, htaken.trans hcounted, fun k hk hgen => absurd hgen (hnot k hk)⟩
    · exact ⟨x, hx, rfl, fun k hk hgen => absurd hgen (hnot k hk)⟩

/-! ### The map cache (R344–R349) -/

theorem insts_of_recorded {t : State} (h : Recorded s t) : t.insts = s.insts := (proj_of_recorded State.insts h :)

theorem insts_installLine (line : Nat) (l : Line) (s : State) : (installLine line l s).insts = s.insts := by
  have hevict : ∀ v e, (evictLine v e s).insts = s.insts := fun v e => by
    unfold evictLine
    split <;> rfl
  unfold installLine
  split
  · rfl
  · split
    · rfl
    · split
      · rfl
      · split
        · rfl
        · split
          · rfl
          · exact hevict ..

theorem insts_demandAccess (part line : Nat) (s : State) : (demandAccess part line s).insts = s.insts := by
  have htally : ∀ field u, (tally noInst 0x0104 field 1 u).insts = u.insts := fun _ _ =>
    insts_of_recorded (tally_recorded ..)
  unfold demandAccess
  split
  · exact htally ..
  · split
    · exact (htally ..).trans (insts_installLine ..)
    · split
      · exact htally ..
      · exact htally ..

theorem insts_prefetch (part n : Nat) (s : State) : (prefetch part n s).insts = s.insts := by
  have hline : ∀ line u, (prefetchLine part line u).insts = u.insts := fun line u => by
    unfold prefetchLine
    split
    · rfl
    · exact (insts_of_recorded (tally_recorded ..)).trans rfl
  unfold prefetch
  split
  · exact List.foldlRecOn _ _ (motive := fun u : State => u.insts = s.insts) rfl fun u hu line _ => (hline _ u).trans hu
  · rfl

/-- An access to the map changes no instance. -/
theorem insts_mapAccess (part line : Nat) (s : State) : (mapAccess part line s).insts = s.insts := by
  unfold mapAccess
  split
  · rfl
  · unfold track
    dsimp only
    split
    · exact (insts_prefetch ..).trans (insts_demandAccess ..)
    · exact insts_demandAccess ..

theorem insts_mapAccesses (part : Nat) (lines : List Nat) (s : State) :
    (lines.foldl (fun s line => mapAccess part line s) s).insts = s.insts :=
  List.foldlRecOn _ _ (motive := fun u : State => u.insts = s.insts) rfl fun u hu line _ =>
    (insts_mapAccess part line u).trans hu

/-! ### The update -/

/-- What a task's one DATA frame carries into its slot. -/
def payloadOf (f : TaskFrame) (l : List DataFrame) : Block := match l with
  | d :: _ => if opOneData (recOp f.record) then d.data else 0
  | [] => 0

/-- The `Inst` of a task that is accepted: HELD in its slot, out of the order, its cost taken from the reservation. -/
def acceptedInst (s : State) (x : Inst) (f : TaskFrame) (l : List DataFrame) (ready : Nat) : Inst :=
  let x := credited s x
  { setSlot f.env.hdr.slot.toNat (.held (newTask s x f (payloadOf f l) ready)) x with
    bw := consume (taskCost f.record).2 x.bw, ops := consume (taskCost f.record).1 x.ops, pos := x.pos + 1
    recent := x.recent ++ [(f.env.hdr.seq, l.length, x.pos)]
    placed := x.placed.drop (1 + l.length), waiting := .no, waited := .other, waitedSpent := [], lastOrphan := none }

/-- A miss cause that the front brings is turned; the rest of the record is its frame and the instant (R118, R130). -/
theorem newTask_fields (s : State) (x : Inst) (f : TaskFrame) (payload : Block) (ready : Nat) :
    (newTask s x f payload ready).op = recOp f.record ∧ (newTask s x f payload ready).record = f.record ∧
    (newTask s x f payload ready).seq = f.env.hdr.seq ∧ (newTask s x f payload ready).ready = ready ∧
    (newTask s x f payload ready).acceptTime = s.quartz ∧ (newTask s x f payload ready).pos = x.pos := by
  unfold newTask turn
  dsimp only
  split
  · exact ⟨rfl, rfl, rfl, rfl, rfl, rfl⟩
  · exact ⟨rfl, rfl, rfl, rfl, rfl, rfl⟩

/-- The update stores the `Inst`, then its counter; the accesses to the map and the landing buffers that are let go change
no instance. Only then does the type's effect follow. -/
theorem acceptTask_eq (hx : inst? s i = some x) (f : TaskFrame) (l : List DataFrame) (ready : Nat) : ∃ u,
    acceptTask i f l ready s = taskEffect (recOp f.record) i f.env.hdr.slot.toNat l u ∧
    inst? u i = inst? (if hasTrailer f.env.hdr then
      acceptCounter i f.trailer.keyGen.toNat f.trailer.counter.toNat (setInst i (acceptedInst s x f l ready) s)
      else setInst i (acceptedInst s x f l ready) s) i := by
  unfold acceptTask
  rw [hx]
  refine ⟨_, rfl, ?_⟩
  rw [inst?_of_released (freeLanding_released ..)]
  exact (congrArg (amGet? · i) (insts_mapAccesses ..)).trans (inst?_of_recorded (tally_recorded ..) i)

/-- The `Inst` that the type's effect finds. -/
theorem acceptTask_inst (hx : inst? s i = some x) (f : TaskFrame) (l : List DataFrame) (ready : Nat) : ∃ u y,
    acceptTask i f l ready s = taskEffect (recOp f.record) i f.env.hdr.slot.toNat l u ∧ inst? u i = some y ∧
    Counted (acceptedInst s x f l ready) y ∧
    (hasTrailer f.env.hdr = true → ∀ k, x.cmd = some k → k.gen = f.trailer.keyGen.toNat →
      y.cmd.map CmdKey.lac = some f.trailer.counter.toNat) ∧
    (hasTrailer f.env.hdr = false → y.cmd = x.cmd) := by
  obtain ⟨u, heffect, hu⟩ := acceptTask_eq hx f l ready
  have hstored := inst?_setInst_self i (acceptedInst s x f l ready) s
  cases htrailer : hasTrailer f.env.hdr with
  | true =>
    rw [if_pos htrailer] at hu
    obtain ⟨y, hy, hcounted, hlac⟩ := acceptCounter_inst hstored f.trailer.keyGen.toNat f.trailer.counter.toNat
    exact ⟨u, y, heffect, hu.trans hy, hcounted, fun _ => hlac, nofun⟩
  | false =>
    rw [if_neg (by rw [htrailer]; nofun)] at hu
    exact ⟨u, _, heffect, hu.trans hstored, rfl, nofun, fun _ => rfl⟩

/-- The task stands HELD in its slot. -/
theorem slotOf_accepted {y : Inst} {f : TaskFrame} {l : List DataFrame} {ready : Nat}
    (h : Counted (acceptedInst s x f l ready) y) : slotOf y f.env.hdr.slot.toNat =
      some (.held (newTask s (credited s x) f (payloadOf f l) ready)) :=
  (congrArg (fun z : Inst => amGet? z.slots f.env.hdr.slot.toNat) h).trans (amGet?_amSet_self ..)

end Sys2Proof.Proofs
end

section
/-! SUPPORT. The front of an order by case (R102, R127–R130): what the rows find of it, rows 12 and 13, its acceptance instant,
and what a refusal leaves of its `Inst`. -/

namespace Sys2Proof.Proofs

open Sys2Proof Sys2Proof.Machine Sys2Proof.Laws Sys2Proof.Safety

variable {s : State} {i : Nat} {x : Inst} {f : TaskFrame} {l : List Up} {ready : Nat}

/-! ### The front is judged -/

section
variable {n : U32} {t : Land} {rest : List (U32 × Up × Land)}

/-- A front whose DATA positions are not filled waits for their frames (R102). -/
theorem judgeFront_incomplete (hx : inst? s i = some x) (hplaced : x.placed = (n, .task f, t) :: rest)
    (hcount : noCount f.record = false) (hshort : rest.length < upData f.record) : judgeFront i s = s := by
  simp [judgeFront, hx, hplaced, hcount, hshort]

/-- A front whose DATA positions are filled is ready with the last of them, and the rows judge it (R129, R206). -/
theorem judgeFront_complete (hx : inst? s i = some x) (hplaced : x.placed = (n, .task f, t) :: rest)
    (hcount : noCount f.record = false) (hwaiting : x.waiting = .no) (hfull : upData f.record ≤ rest.length) :
    judgeFront i s = judgeTask i x f ((rest.take (upData f.record)).map fun p => p.2.1)
      (((rest.take (upData f.record)).getLast?.map fun p => p.2.2.at').getD t.at') s := by
  simp [judgeFront, hx, hplaced, hcount, hwaiting, Nat.not_lt.mpr hfull]

/-- An order of one frame is judged once (R102). -/
theorem drive_single {p : U32 × Up × Land} (hx : inst? s i = some x) (hopen : s.sys.open' = true)
    (hplaced : x.placed = [p]) : drive i s = judgeFront i s := by
  have hcount : placedCount i s = 1 := by simp [placedCount, hx, hplaced]
  unfold drive
  rw [if_pos hopen, hcount]
  unfold driveN driveN
  exact ite_self _

end

theorem judgeTask_refused {reason detail : Nat} (h : taskRows s i x f l = .refuse reason detail) :
    judgeTask i x f l ready s =
      refuseTask i f l.length reason detail 0 (taggedData f.record l) (releaseTokens i f.record s) := by
  simp only [judgeTask, h]

theorem judgeTask_waits {w : Waiting} (h : taskRows s i x f l = .wait w) :
    judgeTask i x f l ready s = waitFront i w (releaseTokens i f.record s) := by
  simp only [judgeTask, h]

theorem judgeTask_passed (h : taskRows s i x f l = .pass) : judgeTask i x f l ready s = admitFront i f l ready s := by
  simp only [judgeTask, h]

/-! ### Rows 12 and 13 (R173, R215) -/

/-- A front that its buckets do not cover is throttled. -/
theorem admitFront_short (hx : inst? s i = some x) (hwaiting : x.waiting = .no)
    (hshort : 0 < tokensShort s (credited s x) f.record) : admitFront i f l ready s =
      refuseTask i f l.length rjThrottled 0 (tokensShort s (credited s x) f.record) (taggedData f.record l)
        (tally i 0x0005 12 1 (setInst i (credited s x) s)) := by
  have hcredited : (credited s x).waiting = .no := hwaiting
  simp only [admitFront, hx, hwaiting, holdsTokens, hshort, hcredited, Bool.false_eq_true, if_false, if_true]

/-- A front that its buckets cover reserves its tokens; a WRITE or APPEND goes on to row 13, another type is accepted. -/
theorem admitFront_covered (hx : inst? s i = some x) (hwaiting : x.waiting = .no)
    (hcovered : tokensShort s (credited s x) f.record = 0) : admitFront i f l ready s =
      if twinType (recOp f.record) then
        rowTwin i f.record s.quartz (setInst i (reserveTask f.record (credited s x)) s)
      else acceptTask i f (dataFrames l) ready (countTag i (.task f) (taggedData f.record l)
        (setInst i (reserveTask f.record (credited s x)) s)) := by
  have hcredited : (credited s x).waiting = .no := hwaiting
  simp only [admitFront, hx, hwaiting, holdsTokens, hcovered, hcredited, Bool.false_eq_true, if_false, Nat.lt_irrefl]

theorem rowTwin_fits {r : BitVec 512} (hx : inst? s i = some x) (hfits : twinFits s x (recNblk r) = true) (since : Nat) :
    rowTwin i r since s =
      setInst i { x with waiting := .staged, stagedBufs := (takeTwins (recNblk r) s).1 } (takeTwins (recNblk r) s).2 := by
  simp [rowTwin, hx, hfits]

/-! ### The acceptance instant (R129, R130, R203) -/

theorem acceptFront_notStaged (hx : inst? s i = some x) (h : x.waiting ≠ .staged) : acceptFront i s = s := by
  simp [acceptFront, hx, h]

/-- While an HWT holds a line that it reads, the staged front waits (R203). -/
theorem acceptFront_locked (hx : inst? s i = some x) (hopen : s.sys.open' = true) (hstaged : x.waiting = .staged)
    (hfront : frontTask x = some (f, l, ready)) (hlocked : (taskLines i f.record).any (hwtLocked s) = true) :
    acceptFront i s = s := by
  unfold acceptFront
  simp only [hx, hopen, hstaged, hfront, hlocked, bne_self_eq_false, Bool.not_true, Bool.or_self, Bool.false_eq_true,
    if_false, if_true]

/-! A staged front is judged again by rows 1–11 (R129). -/

section
variable (hx : inst? s i = some x) (hopen : s.sys.open' = true) (hstaged : x.waiting = .staged)
    (hfront : frontTask x = some (f, l, ready)) (hfree : (taskLines i f.record).any (hwtLocked s) = false)

include hx hopen hstaged hfront hfree

theorem acceptFront_passed (hrows : taskRows s i x f l = .pass) : acceptFront i s =
    acceptTask i f (dataFrames l) ready (countTag i (.task f) (taggedData f.record l) s) := by
  unfold acceptFront
  simp only [hx, hopen, hstaged, hfront, hfree, hrows, bne_self_eq_false, Bool.not_true, Bool.or_self, Bool.false_eq_true,
    if_false]

theorem acceptFront_refused {reason detail : Nat} (hrows : taskRows s i x f l = .refuse reason detail) : acceptFront i s =
    refuseTask i f l.length reason detail 0 (taggedData f.record l) (releaseTokens i f.record s) := by
  unfold acceptFront
  simp only [hx, hopen, hstaged, hfront, hfree, hrows, bne_self_eq_false, Bool.not_true, Bool.or_self, Bool.false_eq_true,
    if_false]

theorem acceptFront_waits {w : Waiting} (hrows : taskRows s i x f l = .wait w) :
    acceptFront i s = waitFront i w (releaseTokens i f.record s) := by
  unfold acceptFront
  simp only [hx, hopen, hstaged, hfront, hfree, hrows, bne_self_eq_false, Bool.not_true, Bool.or_self, Bool.false_eq_true,
    if_false]

end

/-! ### The wait for twin space (R173) -/

theorem twinTimeout_waiting {since : Nat} (hx : inst? s i = some x) (hopen : s.sys.open' = true)
    (hwaiting : x.waiting = .twin since) (hfront : frontTask x = some (f, l, ready)) : twinTimeout i s =
      refuseTask i f l.length rjTaskRefused stNoBuffer 0 (taggedData f.record l) (releaseTokens i f.record s) := by
  simp only [twinTimeout, hx, hopen, hwaiting, hfront, if_true]

theorem twinTimeout_idle (hx : inst? s i = some x) (hwaiting : x.waiting = .no) : twinTimeout i s = s := by
  simp only [twinTimeout, hx, hwaiting]

/-! ### What a refusal leaves (R102, R115) -/

/-- A front gives back its reservation and its twin space; its place and its `Inst`'s slots stay (R173). -/
theorem releaseTokens_inst (hx : inst? s i = some x) (r : BitVec 512) : ∃ y, inst? (releaseTokens i r s) i = some y ∧
    y = { x with bw := y.bw, ops := y.ops, waiting := y.waiting, stagedBufs := y.stagedBufs } := by
  have htwins : ∀ (twins : List (Nat × Nat)) u, Released u (twins.foldl (fun s t => freeTwin t s) u) := fun twins => by
    induction twins with
    | nil => exact fun u => rfl
    | cons t twins ih => exact fun u => ((decRef_released ..).trans (decRef_released ..)).trans (ih _)
  unfold releaseTokens
  rw [inst?_of_released (htwins ..), inst?_modInst_self, hx, Option.map_some]
  split
  · exact ⟨_, rfl, rfl⟩
  · exact ⟨x, rfl, rfl⟩

theorem insts_countAuth (i reason : Nat) (s : State) : (countAuth i reason s).insts = s.insts := by
  have hfail : (countAuthFail s).insts = s.insts := by
    unfold countAuthFail
    dsimp only
    split
    · exact (insts_of_recorded (notice_recorded ..)).trans rfl
    · rfl
  unfold countAuth
  split
  · exact (insts_of_recorded (tally_recorded ..)).trans hfail
  · split
    · exact insts_of_recorded (tally_recorded ..)
    · split
      · exact insts_of_recorded (tally_recorded ..)
      · rfl

/-- A front that is refused without a violation leaves the order with its positions, and takes no slot. -/
theorem refuseFront_inst (hx : inst? s i = some x) (n : Nat) (u : Up) (reason detail retry : Nat) (data : List Byte)
    (orphan : Option (U32 × U16)) : ∃ y, inst? (refuseFront i n u reason detail retry data false orphan s) i = some y ∧
      y.placed = x.placed.drop n ∧ y.waiting = .no ∧ y.slots = x.slots ∧ y.e = x.e := by
  unfold refuseFront
  rw [hx]
  dsimp only
  generalize { rejectOf u reason detail true with count := n, retryUs := retry, data := data } = r
  have hleft : ∀ z, inst? (countAuth i reason (freeLanding (x.placed.take n) (setInst i z s))) i = some z := fun z =>
    (congrArg (amGet? · i) (insts_countAuth ..)).trans
      ((inst?_of_released (freeLanding_released ..) i).trans (inst?_setInst_self ..))
  obtain ⟨a, w, k, hsent⟩ := sendReject_inst (hleft { x with
    placed := x.placed.drop n, waiting := .no, waited := .other, waitedSpent := [], lastOrphan := orphan
    rejects := keepRejects r x }) (upEnv u) true r
  exact ⟨_, hsent, rfl, rfl, rfl, rfl⟩

theorem refuseTask_inst (hx : inst? s i = some x) (f : TaskFrame) (n : Nat) {reason : Nat}
    (hkind : isViolation reason = false) (detail retry : Nat) (data : List Byte) :
    ∃ y, inst? (refuseTask i f n reason detail retry data s) i = some y ∧
      y.placed = x.placed.drop (n + 1) ∧ y.waiting = .no ∧ y.slots = x.slots ∧ y.e = x.e := by
  have hcounted : inst? (if behindTag reason then countTag i (.task f) data s else s) i = some x := by
    rw [apply_ite (inst? · i), inst?_of_recorded (countTag_recorded ..), ite_self, hx]
  unfold refuseTask
  rw [hkind]
  exact refuseFront_inst hcounted ..

end Sys2Proof.Proofs
end

section
/-! SUPPORT. A task without DATA frames that comes to an empty order (R127, R129, R130), and the rows that a record fails for want
of a trailer or for its ZONE (R125, R145). -/

namespace Sys2Proof.Proofs

open Sys2Proof Sys2Proof.Machine Sys2Proof.Laws Sys2Proof.Safety

variable {s r t : State} {i b : Nat} {x y z : Inst} {f : TaskFrame}

/-- A task without DATA frames that stands alone in an open order, whose rows pass and whose buckets cover it, is accepted. -/
theorem drive_task {q : U32} {k : Land} (hx : inst? s i = some x) (hopen : s.sys.open' = true)
    (hplaced : x.placed = [(q, .task f, k)]) (hdata : upData f.record = 0) (hcount : noCount f.record = false)
    (htype : twinType (recOp f.record) = false) (hwaiting : x.waiting = .no) (hrows : taskRows s i x f [] = .pass)
    (hcovered : tokensShort s (credited s x) f.record = 0) : drive i s =
      acceptTask i f [] k.at' (countTag i (.task f) (taggedData f.record [])
        (setInst i (reserveTask f.record (credited s x)) s)) := by
  have hjudged := judgeFront_complete hx hplaced hcount hwaiting (by simp [hdata])
  rw [hdata] at hjudged
  rw [drive_single hx hopen hplaced, hjudged]
  exact (judgeTask_passed hrows).trans ((admitFront_covered hx hwaiting hcovered).trans (if_neg (by simp [htype])))

/-- The task is accepted by the command that brings it. -/
theorem exec_task_alone {p : Nat × (TaskFrame → Instr)} (hp : p ∈ taskTypes) (hreach : Reaches (.task f) s)
    (hvalid : ValidFor (.task f) x s)
    (hsome : allocBuf (landingPool (.task f)) (landingPool (.task f)) false (received (.task f) s) = (some b, r))
    (hy : inst? r f.env.hdr.inst.toNat = some y) (hstate : stateRefusal y = none) (hopen : r.sys.open' = true)
    (hat : f.env.hdr.seq = y.e) (hplaced : y.placed = []) (hclear : y.heldUp = []) (hwaiting : y.waiting = .no)
    (hdata : upData f.record = 0) (hcount : noCount f.record = false) (htype : twinType (recOp f.record) = false)
    (hi : i = f.env.hdr.inst.toNat) (hz : z = placedAt r.quartz (.task f) b y) (ht : t = setInst i z r)
    (hrows : taskRows t i z f [] = .pass) (hcovered : tokensShort t (credited t z) f.record = 0) :
    exec (p.2 f) s = .next (settle (acceptTask i f [] r.quartz (countTag i (.task f) (taggedData f.record [])
      (setInst i (reserveTask f.record (credited t z)) t)))) := by
  have hexec := exec_valid (u := .task f) (exec_taskType f s p hp) hreach hvalid
  have hframe := validFrame_clear hsome hy hstate (by simp [seqDiff, upEnv, hat]) hclear
  have hfront : z.placed = [(f.env.hdr.seq, .task f, { at' := r.quartz, buf := some b })] := by
    simp [hz, placedAt, place, hplaced, upEnv]
  have hstays : z.waiting = .no := by rw [hz]; exact hwaiting
  have hinst : inst? t i = some z := by rw [ht]; exact inst?_setInst_self ..
  have hkept : t.sys.open' = true := by rw [ht]; exact hopen
  rw [show upEnv (.task f) = f.env from rfl, ← hi] at hexec hframe
  rw [← hz, ← ht] at hframe
  rw [hexec, hframe, drive_task hinst hkept hfront hdata hcount htype hstays hrows hcovered]

/-! ### Rows that refuse -/

/-- A critical record without a trailer fails the keyed check (R97, R125). -/
theorem authRows_missing (s : State) (i : Nat) (x : Inst) (data : List Byte) (hcritical : opCritical (recOp f.record) = true)
    (htrailer : hasTrailer f.env.hdr = false) :
    authRows s i x (.task f) (mustAuth i x (recOp f.record)) data = .refuse rjAuthRequired 0 := by
  simp [authRows, upTrailer, htrailer, mustAuth, hcritical, row]

/-- Rows 1–4 pass, so that the keyed check of rows 5–8 decides. -/
theorem taskRows_keyed {l : List Up} {reason detail : Nat} (hdata : dataOk f l.length 0 l = true)
    (hrecord : recordBad x f = none) (hmask : x.params.typeMask.testBit (recOp f.record) = true)
    (hslot : f.env.hdr.slot.toNat < slotsNow s i x)
    (hkeyed : authRows s i x (.task f) (mustAuth i x (recOp f.record)) (taggedData f.record l) = .refuse reason detail) :
    taskRows s i x f l = .refuse reason detail := by
  simp [taskRows, row, Rows.andThen, hdata, hrecord, hmask, Nat.not_le.mpr hslot, hkeyed]

/-- Row 11 of a FLUSH judges its ZONE alone (R145). -/
theorem judgeContent_flush {r : BitVec 512} (s : State) (i : Nat) (x : Inst) (hop : recOp r = 0x0D) :
    judgeContent s i x r =
      if recZoneIdx r ≠ 0xFFFFFFFF ∧ x.params.zoneCount ≤ recZoneIdx r then .refuse stZoneBoundary else .pass := by
  simp [judgeContent, hop, firstCond]

end Sys2Proof.Proofs
end

section
/-! SUPPORT. Writes to a zone (R136, R157, R161, R172, R178): the blocks as they are stored, and what the binding of the zone and
the placing of its blocks leave of its instance. -/

namespace Sys2Proof.Proofs

open Sys2Proof Sys2Proof.Machine Sys2Proof.Laws Sys2Proof.Safety

variable {s : State} {i z : Nat} {x y : Inst}

/-! ### Zones of an `Inst` -/

@[simp] theorem zoneOf_putZone_self (z : Nat) (zn : Zone) (x : Inst) : zoneOf (putZone z zn x) z = zn :=
  congrArg (Option.getD · freshZone) (amGet?_amSet_self ..)

theorem zoneOf_putZone_ne {w : Nat} (h : w ≠ z) (zn : Zone) (x : Inst) : zoneOf (putZone z zn x) w = zoneOf x w :=
  congrArg (Option.getD · freshZone) (amGet?_amSet_ne _ _ _ _ h)

/-- A change of one block's entry, as its zone sees it; an unlisted zone holds none. -/
theorem zoneOf_modBlocks (z n : Nat) (g : Stored → Stored) (x : Inst) :
    zoneOf { x with zones := amModify x.zones z fun zn => { zn with blocks := amModify zn.blocks n g } } z =
      { zoneOf x z with blocks := amModify (zoneOf x z).blocks n g } := by
  unfold zoneOf amGetD
  rw [amGet?_amModify_self]
  cases amGet? x.zones z with
  | none => rfl
  | some zn => rfl

theorem zoneOf_modBlocks_ne {w : Nat} (h : w ≠ z) (n : Nat) (g : Stored → Stored) (x : Inst) :
    zoneOf { x with zones := amModify x.zones z fun zn => { zn with blocks := amModify zn.blocks n g } } w =
      zoneOf x w := by
  unfold zoneOf amGetD
  rw [amGet?_amModify_ne _ _ _ _ h]

/-- The zone takes a state; the time of a change goes with it (Table ZN-6). -/
theorem toState_eq (now : Nat) (st : ZState) (zn : Zone) :
    ∃ changed, toState now st zn = { zn with state := st, changed := changed } := by
  unfold toState
  split
  next h => exact ⟨zn.changed, by rw [← h]⟩
  next => exact ⟨now, rfl⟩

/-! ### Blocks and their indexes -/

theorem indexed_cons (n : Nat) (d : DataFrame) (l : List DataFrame) : indexed n (d :: l) = (n, d) :: indexed (n + 1) l := by
  unfold indexed
  rw [List.length_cons, List.range_succ_eq_map, List.map_cons, List.map_map, List.zip_cons_cons]
  refine congrArg₂ (fun a b => a :: List.zip b l) rfl (List.map_congr_left fun k _ => ?_)
  exact Nat.add_right_comm n k 1

section
variable {α : Type} (g : Nat × DataFrame → α)

theorem amGet?_indexed_lt {k n : Nat} (h : k < n) (l : List DataFrame) (m : List (Nat × α)) :
    amGet? ((indexed n l).foldl (fun m p => amSet m p.1 (g p)) m) k = amGet? m k := by
  induction l generalizing n m with
  | nil => rfl
  | cons d l ih => rw [indexed_cons, List.foldl_cons, ih (Nat.lt_succ_of_lt h), amGet?_amSet_ne _ _ _ _ (Nat.ne_of_lt h)]

/-- Each block of a write stands at its index. -/
theorem amGet?_indexed {j : Nat} {d : DataFrame} (n : Nat) {l : List DataFrame} (h : l[j]? = some d)
    (m : List (Nat × α)) : amGet? ((indexed n l).foldl (fun m p => amSet m p.1 (g p)) m) (n + j) = some (g (n + j, d)) := by
  induction l generalizing n m j with
  | nil => nomatch h
  | cons e l ih =>
    rw [indexed_cons, List.foldl_cons]
    cases j with
    | zero =>
      obtain rfl := Option.some.inj h
      exact (amGet?_indexed_lt g (Nat.lt_add_one n) l _).trans (amGet?_amSet_self ..)
    | succ j =>
      rw [show n + (j + 1) = n + 1 + j by omega]
      exact ih (n + 1) h _

end

/-! ### The placing of a zone's blocks (R166, R245) -/

theorem insts_of_tallied (c : Prop) [Decidable c] (target group field n : Nat) (s : State) :
    (if c then tally target group field n s else s).insts = s.insts := by
  split
  · exact insts_of_recorded (tally_recorded ..)
  · rfl

/-- What the placing of a zone's blocks may change of an `Inst`: the zone's superblock, and the places of its blocks. -/
structure PlacedIn (z : Nat) (x y : Inst) : Prop where
  rest : y = { x with zones := y.zones }
  zone : zoneOf y z = { zoneOf x z with sb := (zoneOf y z).sb, blocks := (zoneOf y z).blocks }
  other : ∀ w, w ≠ z → zoneOf y w = zoneOf x w
  block : ∀ n b, amGet? (zoneOf x z).blocks n = some b →
    ∃ c, amGet? (zoneOf y z).blocks n = some c ∧ c = { b with place := c.place, slcPage := c.slcPage }

theorem PlacedIn.refl (z : Nat) (x : Inst) : PlacedIn z x x := ⟨rfl, rfl, fun _ _ => rfl, fun _ b h => ⟨b, h, rfl⟩⟩

theorem PlacedIn.trans {x y w : Inst} (h : PlacedIn z x y) (k : PlacedIn z y w) : PlacedIn z x w where
  rest := by
    have hrest := k.rest
    rw [h.rest] at hrest
    exact hrest
  zone := by
    have hzone := k.zone
    rw [h.zone] at hzone
    exact hzone
  other v hv := (k.other v hv).trans (h.other v hv)
  block n b hb := by
    obtain ⟨c, hc, hbc⟩ := h.block n b hb
    obtain ⟨d, hd, hcd⟩ := k.block n c hc
    rw [hbc] at hcd
    exact ⟨d, hd, hcd⟩

theorem insts_takeSb (worn : Bool) (inst : Nat) (ds : DieSet) (slc : Bool) (hint : Byte) (conv : Bool) (s : State) :
    (takeSb worn inst ds slc hint conv s).2.insts = s.insts := by
  unfold takeSb
  refine List.foldlRecOn _ _ (motive := fun a : List (Nat × Nat) × State => a.2.insts = s.insts) rfl fun a ha d _ => ?_
  split
  · exact ha
  · exact ha

theorem insts_kickDie (d : Nat) (s : State) : (kickDie d s).insts = s.insts := by
  unfold kickDie
  repeat' split
  all_goals rfl

theorem insts_issueProg (n : Nat) (s : State) : (issueProg n s).insts = s.insts := by
  unfold issueProg
  split
  · rfl
  · exact List.foldlRecOn _ _ (motive := fun u : State => u.insts = s.insts) rfl fun u hu d _ =>
      (insts_kickDie ..).trans hu

theorem insts_issueGroups (kind : ProgKind) (n lo hi groups : Nat) (s : State) :
    (issueGroups kind n lo hi groups s).insts = s.insts := by
  unfold issueGroups
  split
  · rfl
  · dsimp only
    refine (insts_issueProg ..).trans ?_
    split
    · exact (insts_of_recorded (tally_recorded ..) :)
    · rfl

theorem insts_closeSb (n : Nat) (s : State) : (closeSb n s).insts = s.insts := by
  unfold closeSb settleSb
  split
  · rfl
  · split
    · rfl
    · exact List.foldlRecOn _ _ (motive := fun u : State => u.insts = s.insts) rfl fun u hu m _ => hu

theorem insts_afterPlace (n : Nat) (s : State) : (afterPlace n s).insts = s.insts := by
  unfold afterPlace
  split
  · rfl
  · dsimp only
    rw [apply_ite State.insts, insts_closeSb, ite_self]
    split
    · exact insts_issueGroups ..
    · rfl

theorem inst?_afterPlace (n : Nat) (s : State) (i : Nat) : inst? (afterPlace n s) i = inst? s i :=
  congrArg (amGet? · i) (insts_afterPlace n s)

/-- The superblock of a zone's next block may be a new one; of the `Inst` only the zone's `sb` changes. -/
theorem zoneSbFor_inst {k : BlkKey} (hx : inst? s k.inst = some x) (hint : Byte) :
    ∃ y, inst? (zoneSbFor k x hint s).2 k.inst = some y ∧ PlacedIn k.zone x y := by
  have hnew : ∀ (n : Nat) (u : State), u.insts = s.insts → ∃ y, inst? (modInst k.inst (fun x =>
      putZone k.zone { zoneOf x k.zone with sb := some n } x) u) k.inst = some y ∧ PlacedIn k.zone x y := fun n u hu => by
    refine ⟨_, (inst?_modInst_self ..).trans (congrArg _ ((congrArg (amGet? · k.inst) hu).trans hx)), rfl, ?_,
      fun w hw => zoneOf_putZone_ne hw .., fun m b hb => ⟨b, ?_, rfl⟩⟩
    · rw [zoneOf_putZone_self]
    · rw [zoneOf_putZone_self]
      exact hb
  unfold zoneSbFor
  dsimp only
  split
  · exact ⟨x, hx, .refl ..⟩
  · split
    · exact ⟨x, hx, .refl ..⟩
    · split
      · exact hnew _ _ (insts_of_tallied ..)
      · exact hnew _ _ ((insts_takeSb ..).trans (insts_of_tallied ..))

theorem modStored_inst (hx : inst? s i = some x) (n : Nat) {f : Stored → Stored}
    (hf : ∀ b, f b = { b with place := (f b).place, slcPage := (f b).slcPage }) :
    ∃ y, inst? (modStored { inst := i, conv := false, zone := z, offset := n } f s) i = some y ∧ PlacedIn z x y := by
  have hzone := zoneOf_modBlocks z n f x
  refine ⟨{ x with zones := amModify x.zones z fun zn => { zn with blocks := amModify zn.blocks n f } },
    (inst?_modInst_self ..).trans (congrArg _ hx), ?_⟩
  refine ⟨rfl, by rw [hzone], fun w hw => zoneOf_modBlocks_ne hw .., fun m b hb => ?_⟩
  rw [hzone]
  by_cases h : m = n
  · subst h
    exact ⟨f b, (amGet?_amModify_self ..).trans (congrArg _ hb), hf b⟩
  · exact ⟨b, (amGet?_amModify_ne _ _ _ _ h).trans hb, rfl⟩

/-- A block that is placed keeps its content (R172). -/
theorem placeBlock_inst {n : Nat} (hx : inst? s i = some x) :
    ∃ y, inst? (placeBlock { inst := i, conv := false, zone := z, offset := n } s) i = some y ∧ PlacedIn z x y := by
  unfold placeBlock
  split
  · exact ⟨x, hx, .refl ..⟩
  next st _ =>
    obtain ⟨y, hy, hsb⟩ := zoneSbFor_inst (k := { inst := i, conv := false, zone := z, offset := n }) hx st.hint
    have hopen : openSbFor { inst := i, conv := false, zone := z, offset := n } st.hint s =
        zoneSbFor { inst := i, conv := false, zone := z, offset := n } x st.hint s := by
      simp [openSbFor, hx]
    rw [hopen]
    generalize zoneSbFor { inst := i, conv := false, zone := z, offset := n } x st.hint s = r at hy ⊢
    obtain ⟨sb, u⟩ := r
    cases sb with
    | none => exact ⟨y, hy, hsb⟩
    | some m =>
      dsimp only
      split
      · exact ⟨y, hy, hsb⟩
      · rw [inst?_afterPlace]
        refine (modStored_inst (z := z) hy n ?_).imp fun w ⟨hw, hyw⟩ => ⟨hw, hsb.trans hyw⟩
        exact fun _ => rfl

theorem placeBlocks_inst (hx : inst? s i = some x) (blocks : List (Nat × DataFrame)) :
    ∃ y, inst? (blocks.foldl (fun s p => placeBlock { inst := i, conv := false, zone := z, offset := p.1 } s) s) i = some y ∧
      PlacedIn z x y := by
  refine List.foldlRecOn _ _ (motive := fun u : State => ∃ y, inst? u i = some y ∧ PlacedIn z x y) ⟨x, hx, .refl ..⟩
    fun u ⟨y, hy, hxy⟩ p _ => ?_
  obtain ⟨w, hw, hyw⟩ := placeBlock_inst (z := z) (n := p.1) hy
  exact ⟨w, hw, hxy.trans hyw⟩

/-! ### The binding of an EMPTY zone (R136, R165, R166) -/

/-- What the binding of a zone may change of an `Inst`: the zone's key, hint and die set, and the set chosen last. -/
structure BoundIn (z : Nat) (x y : Inst) : Prop where
  rest : y = { x with zones := y.zones, lastSet := y.lastSet }
  zone : zoneOf y z = { zoneOf x z with
    key := (zoneOf y z).key, hint := (zoneOf y z).hint, set := (zoneOf y z).set, slcTarget := (zoneOf y z).slcTarget
    bound := (zoneOf y z).bound }
  other : ∀ w, w ≠ z → zoneOf y w = zoneOf x w

theorem BoundIn.refl (z : Nat) (x : Inst) : BoundIn z x x := ⟨rfl, rfl, fun _ _ => rfl⟩

theorem BoundIn.of_putZone {zn : Zone} (h : zn = { zoneOf x z with
    key := zn.key, hint := zn.hint, set := zn.set, slcTarget := zn.slcTarget, bound := zn.bound }) (n : Nat) :
    BoundIn z x { putZone z zn x with lastSet := n } := by
  have hzone : zoneOf { putZone z zn x with lastSet := n } z = zn := zoneOf_putZone_self ..
  refine ⟨rfl, ?_, fun w hw => zoneOf_putZone_ne hw ..⟩
  rw [hzone]
  exact h

theorem bindZone_inst (hx : inst? s i = some x) (z key : Nat) (hint : Byte) :
    ∃ y, inst? (bindZone i z key hint s) i = some y ∧ BoundIn z x y := by
  unfold bindZone
  rw [hx]
  dsimp only
  split
  · exact ⟨x, hx, .refl ..⟩
  · refine ⟨_, (inst?_modInst_self ..).trans (congrArg _ (?_ : _ = some x)), .of_putZone (by rfl) _⟩
    exact (congrArg (amGet? · i) (insts_of_tallied ..)).trans hx

/-! ### The blocks are stored (R136, R157, R161) -/

/-- A zone whose write pointer has moved past the blocks of a write. -/
def advanced (i z pos wp : Nat) (desc : Option Nat) (l : List DataFrame) (x : Inst) : Zone :=
  { zoneOf x z with
    wp := wp + l.length
    pending := if desc.isSome then (zoneOf x z).pending + l.length else (zoneOf x z).pending
    txn := if desc.isSome then desc else (zoneOf x z).txn
    blocks := (indexed wp l).foldl (fun m p =>
      amSet m p.1 (zoneBlock i z p.1 pos x (zoneOf x z) desc p.2 (stagedAt x (p.1 - wp)))) (zoneOf x z).blocks }

/-- The state of a zone that is written (R157). -/
def writtenState (x : Inst) (zn : Zone) : ZState :=
  if x.params.zoneCap ≤ zn.wp then .full else if zn.state = .explicitOpen then .explicitOpen else .implicitOpen

/-- The `Inst` of a write whose blocks stand in their twin buffers. -/
def writtenInst (i z pos wp now : Nat) (desc : Option Nat) (l : List DataFrame) (x : Inst) : Inst :=
  { putZone z (toState now (writtenState x (advanced i z pos wp desc l x)) (advanced i z pos wp desc l x)) x with
    stagedBufs := [] }

/-- A write binds an EMPTY zone, stores its blocks and places them. -/
theorem storeZone_eq (hx : inst? s i = some x) (z key pos : Nat) (hint : Byte) (desc : Option Nat) (l : List DataFrame) :
    ∃ u v y, inst? u i = some y ∧ BoundIn z x y ∧
      inst? v i = some (writtenInst i z pos (zoneOf x z).wp u.quartz desc l y) ∧
      storeZone i z key pos hint desc l s = (indexed (zoneOf x z).wp l).foldl (fun s p =>
        placeBlock { inst := i, conv := false, zone := z, offset := p.1 } s) v := by
  have hbound : ∃ y, inst? (if (zoneOf x z).state = .empty then bindZone i z key hint s else s) i = some y ∧
      BoundIn z x y := by
    split
    · exact bindZone_inst hx ..
    · exact ⟨x, hx, .refl ..⟩
  obtain ⟨y, hy, hxy⟩ := hbound
  unfold storeZone
  rw [hx]
  exact ⟨_, _, y, hy, hxy, (inst?_modInst_self ..).trans (congrArg _ hy), rfl⟩

/-- What a write does to its zone, its blocks, and the rest of its `Inst`. -/
theorem storeZone_inst (hx : inst? s i = some x) (z key pos : Nat) (hint : Byte) (desc : Option Nat)
    (l : List DataFrame) : ∃ v y changed, inst? (storeZone i z key pos hint desc l s) i = some y ∧ BoundIn z x v ∧
      PlacedIn z (writtenInst i z pos (zoneOf x z).wp changed desc l v) y := by
  obtain ⟨u, w, v, -, hbound, hw, hstore⟩ := storeZone_eq hx z key pos hint desc l
  obtain ⟨y, hy, hplaced⟩ := placeBlocks_inst (z := z) hw (indexed (zoneOf x z).wp l)
  exact ⟨v, y, u.quartz, (congrArg (inst? · i) hstore).trans hy, hbound, hplaced⟩

/-- The zone of a write behind the update. -/
theorem zoneOf_written (i z pos wp now : Nat) (desc : Option Nat) (l : List DataFrame) (x : Inst) : ∃ changed,
    zoneOf (writtenInst i z pos wp now desc l x) z = { advanced i z pos wp desc l x with
      state := writtenState x (advanced i z pos wp desc l x), changed := changed } := by
  obtain ⟨changed, hstate⟩ := toState_eq now (writtenState x (advanced i z pos wp desc l x)) (advanced i z pos wp desc l x)
  exact ⟨changed, (zoneOf_putZone_self ..).trans hstate⟩

theorem zoneOf_written_ne {w : Nat} (h : w ≠ z) (i pos wp now : Nat) (desc : Option Nat) (l : List DataFrame) (x : Inst) :
    zoneOf (writtenInst i z pos wp now desc l x) w = zoneOf x w := zoneOf_putZone_ne h ..

end Sys2Proof.Proofs
end

section
/-! SUPPORT. ABORT by what it finds (R143), deliveries and mailboxes (R142, R149, R150), and the erasure of a key (R308). -/

namespace Sys2Proof.Proofs

open Sys2Proof Sys2Proof.Machine Sys2Proof.Laws Sys2Proof.Safety

variable {s : State} {i j slot : Nat} {x y : Inst} {k : Task}

/-! ### ABORT (R143) -/

theorem abortOutcome_free {n : Nat} (h : slotOf x n = none) (q : U32) : abortOutcome x n q = (false, 0x40) := by
  simp [abortOutcome, h]

/-- What an ABORT finds in a HELD slot, by the number that it names, the type and the latch of the task. -/
theorem abortOutcome_held {n : Nat} (h : slotOf x n = some (.held k)) (q : U32) : abortOutcome x n q =
    if k.seq ≠ q then (false, 0x40) else if opAbortable k.op = false then (false, 0x20)
    else if k.latch = .running then (true, 1) else (false, 0x10) := by
  simp [abortOutcome, h]

theorem abortOutcome_done {n : Nat} {c : Completion} {d : U32} {r : Option Trailer}
    (h : slotOf x n = some (.done c d r k)) (q : U32) :
    abortOutcome x n q = (false, if c.taskSeq = q then 0x30 else 0x40) := by
  simp [abortOutcome, h]

/-! ### Deliveries (R142, R149) -/

theorem queueDue_held (h : heldTask s i slot = some k) :
    queueDue i slot s = { s with sys := { s.sys with due := s.sys.due ++ [(i, slot, k.seq)] } } := by
  simp [queueDue, h]

/-- A task that an ABORT has caught, or that is past its point of no return, is not delivered (R142). -/
theorem deliverOne_stopped (h : heldTask s i slot = some k) (hlatch : k.latch ≠ .running) :
    deliverOne i slot k.seq s = s := by
  simp [deliverOne, h, hlatch]

theorem deliverOne_send (h : heldTask s i slot = some k) (hlatch : k.latch = .running) (hholds : k.holds = [])
    (hop : k.op = 0x10) : deliverOne i slot k.seq s = deliverMessage i slot s := by
  simp [deliverOne, h, hlatch, hholds, hop, reportLocked]

theorem deliverOne_read (h : heldTask s i slot = some k) (hlatch : k.latch = .running) (hholds : k.holds = [])
    (hop : k.op = 0x11) : deliverOne i slot k.seq s = readMailbox i slot s := by
  simp [deliverOne, h, hlatch, hholds, hop, reportLocked]

/-! ### MAILBOX_SEND (R149) -/

theorem deliverMessage_nobody (h : heldTask s i slot = some k) (hto : inst? s (recField k.record 0x08 2) = none) :
    deliverMessage i slot s = completeTask i slot stInstState 0 false s := by
  simp [deliverMessage, h, hto]

theorem deliverMessage_outOfService (h : heldTask s i slot = some k)
    (hto : inst? s (recField k.record 0x08 2) = some y) (hservice : inService y = false) :
    deliverMessage i slot s = completeTask i slot stInstState 0 false s := by
  simp [deliverMessage, h, hto, hservice]

theorem deliverMessage_full (h : heldTask s i slot = some k) (hto : inst? s (recField k.record 0x08 2) = some y)
    (hservice : inService y = true) (hfull : y.params.mboxDepth ≤ y.mbox.length) :
    deliverMessage i slot s = completeTask i slot stSlotBusy 0 false s := by
  simp [deliverMessage, h, hto, hservice, hfull]

/-- The bytes of a message: the first ones of the task's DATA, as many as the record says (R149). -/
def messageOf (t : Task) : List Byte := (bytesOf 4096 t.payload).take (recField t.record 0x0A 2)

theorem deliverMessage_taken (h : heldTask s i slot = some k) (hto : inst? s (recField k.record 0x08 2) = some y)
    (hservice : inService y = true) (hroom : y.mbox.length < y.params.mboxDepth) : deliverMessage i slot s =
      completeTask i slot stOk (Config.messageNumber (recField k.record 0x08 2) y.mboxCount).toNat false
        (placeMessage i (recField k.record 0x08 2) (messageOf k)
          (modTask i slot (fun t => { t with latch := .committed }) s)) := by
  simp [deliverMessage, h, hto, hservice, Nat.not_le.mpr hroom, messageOf]

/-- A change of a HELD task leaves every mailbox as it is. -/
theorem modTask_mbox (hy : inst? s j = some y) (i slot : Nat) (f : Task → Task) : ∃ z,
    inst? (modTask i slot f s) j = some z ∧ z.mbox = y.mbox ∧ z.mboxCount = y.mboxCount := by
  by_cases hself : j = i
  · subst hself
    unfold modTask
    split
    · exact ⟨y, hy, rfl, rfl⟩
    · exact ⟨_, (inst?_modInst_self ..).trans (congrArg _ hy), rfl, rfl⟩
  · exact ⟨y, (inst?_modTask_ne hself ..).trans hy, rfl, rfl⟩

/-- A message that is placed joins the mailbox last; its recipient is told (R149, R281). -/
theorem placeMessage_inst (hy : inst? s j = some y) (sender : Nat) (bytes : List Byte) : ∃ z,
    inst? (placeMessage sender j bytes s) j = some z ∧
      z.mbox = y.mbox ++ [{ sender := sender, bytes := bytes, num := y.mboxCount, harm := .whole }] := by
  unfold placeMessage
  obtain ⟨z, hz, hanswered⟩ := (notify_answers j ..).inst _ ((inst?_modInst_self ..).trans (congrArg _ hy))
  exact ⟨z, hz, (congrArg Inst.mbox hanswered :)⟩

/-! ### MAILBOX_READ (R150) -/

theorem readMailbox_empty (hx : inst? s i = some x) (h : x.mbox = []) (slot : Nat) :
    readMailbox i slot s = completeTask i slot stOk 0 false s := by
  simp [readMailbox, hx, h]

/-- The oldest message leaves the mailbox and is the task's reply; RESULT tells its sender, its length and how many remain. -/
theorem readMailbox_oldest {m : Msg} {l : List Msg} (hx : inst? s i = some x) (hheld : heldTask s i slot = some k)
    (h : x.mbox = m :: l) : ∃ u z e, readMailbox i slot s = sendReport i slot u ∧ inst? u i = some z ∧ z.mbox = l ∧
      heldTask u i slot = some e ∧ e.reply = [blockOf m.bytes] ∧
      e.result = m.sender + m.bytes.length * 2 ^ 16 + l.length * 2 ^ 32 := by
  have hslot := slot_of_heldTask hx hheld
  have htaken : inst? (modInst i (fun x => { x with mbox := l }) s) i = some { x with mbox := l } :=
    (inst?_modInst_self ..).trans (congrArg _ hx)
  have hstill : heldTask (modInst i (fun x => { x with mbox := l }) s) i slot = some k :=
    heldTask_of_slot htaken hslot
  have hreplied := inst?_modTask_self htaken hstill fun t => { t with
    reply := [blockOf m.bytes], result := m.sender + m.bytes.length * 2 ^ 16 + l.length * 2 ^ 32
    poison := m.harm = .poison, lost := m.harm = .lost }
  unfold readMailbox
  simp only [hx, h]
  exact ⟨_, _, _, rfl, hreplied, rfl, heldTask_of_slot hreplied (slotOf_setSlot_self ..), rfl, rfl⟩

/-! ### KEY_ERASE (R308) -/

theorem acceptKeyErase_held (h : heldTask s i slot = some k) : acceptKeyErase i slot s =
    completeTask i slot stOk 0 false (modInst i (fun x => { x with keys := amErase x.keys (recField k.record 0x08 2) }) s) := by
  simp [acceptKeyErase, h]

end Sys2Proof.Proofs
end

section
/-! SUPPORT. The end of a key task (R152, R303–R305): what its sealed lane finds of the wrapped key, by case, and the COMPLETION
that follows. -/

namespace Sys2Proof.Proofs

open Sys2Proof Sys2Proof.Machine Sys2Proof.Laws Sys2Proof.Safety

variable {s t : State} {i slot : Nat} {x : Inst} {k : Task} {key : BitVec 256}

/-! ### The lane's answer -/

theorem unwrapDone_idle (hx : inst? s i = some x) (h : keyTask x = none) : unwrapDone i s = s := by
  simp [unwrapDone, hx, h]

theorem unwrapDone_load (hx : inst? s i = some x) (h : keyTask x = some (slot, k)) (hop : k.op = 0x12) :
    unwrapDone i s = loadDone i slot k x s := by
  simp [unwrapDone, hx, h, hop]

theorem unwrapDone_rotate (hx : inst? s i = some x) (h : keyTask x = some (slot, k)) (hop : k.op ≠ 0x12) :
    unwrapDone i s = rotateDone i slot k x s := by
  simp [unwrapDone, hx, h, hop]

/-- What a KEY_LOAD's sealed lane finds of its wrapped key (R303, R304). -/
def loadUnwrap (i : Nat) (x : Inst) (k : Task) : Unwrap :=
  unwrapUnder x.cmd 1 0 i (recField k.record 0x08 2) ((bytesOf 4096 k.payload).take (recField k.record 0x0A 2))

/-- Bytes that are not zero follow a KEY_LOAD's wrapped key (R303). -/
def loadTrailing (k : Task) : Bool := ((bytesOf 4096 k.payload).drop (recField k.record 0x0A 2)).any (· != 0)

theorem loadDone_malformed (h : loadUnwrap i x k = .malformed) :
    loadDone i slot k x s = completeTask i slot stBadRecord 0 false (keccakMsg true s) := by
  unfold loadUnwrap at h
  simp only [loadDone, h, reportUnwrap, unwrapStatus]

theorem loadDone_failed (h : loadUnwrap i x k = .failed) :
    loadDone i slot k x s = completeTask i slot stDataAuth 0 false (sealFail 1 i (keccakMsg true s)) := by
  unfold loadUnwrap at h
  simp only [loadDone, h, reportUnwrap, unwrapStatus]

theorem loadDone_trailing (h : loadUnwrap i x k = .ok key) (hbytes : loadTrailing k = true) :
    loadDone i slot k x s = completeTask i slot stBadRecord 0 false (keccakMsg true s) := by
  unfold loadUnwrap at h
  unfold loadTrailing at hbytes
  simp only [loadDone, h, hbytes, reportUnwrap, if_true]

/-- A whole key takes its slot. -/
theorem loadDone_whole (h : loadUnwrap i x k = .ok key) (hbytes : loadTrailing k = false) :
    loadDone i slot k x s = completeTask i slot stOk (recField k.record 0x08 2) false
      (modInst i (fun x => { x with keys := amSet x.keys (recField k.record 0x08 2) key }) (keccakMsg true s)) := by
  unfold loadUnwrap at h
  unfold loadTrailing at hbytes
  simp only [loadDone, h, hbytes, reportUnwrap, Bool.false_eq_true, if_false]

/-- A rotation whose CONF confirms it installs its key (R305). -/
theorem rotateDone_confirmed {gen n : Nat} (hgen : gen = recField k.record 0x08 1) (hn : n = recField k.record 0x0A 2)
    (h : unwrapUnder x.cmd 2 gen i 0 ((bytesOf 4096 k.payload).take n) = .ok key)
    (hbytes : ((bytesOf 4096 k.payload).drop (n + 16)).any (· != 0) = false)
    (hconf : ((bytesOf 4096 k.payload).drop n).take 16 =
      confOf key i gen ((k.trailer.map fun r => r.counter.toNat).getD 0)) :
    rotateDone i slot k x s = completeTask i slot stOk gen false (installKey i key true (keccakMsg true s)) := by
  subst hgen hn
  simp only [rotateDone, h, hbytes, hconf, reportUnwrap, bne_self_eq_false, Bool.false_eq_true, if_false]

/-! ### What it leaves -/

/-- A failed check counts in CPH_SEALFAIL and is recorded (Table TR-7). -/
theorem sealFail_shape (purpose inst : Nat) (s : State) : ∃ cph, cph.sealfail = (s.cph.sealfail + 1) % 2 ^ 32 ∧
    Recorded { s with cph := cph } (sealFail purpose inst s) := by
  unfold sealFail
  dsimp only
  refine ⟨{ s.cph with
      sealfail := (s.cph.sealfail + 1) % 2 ^ 32
      ovfSeal := s.cph.ovfSeal || decide (s.cph.sealfail = 0xFFFFFFFF) }, rfl,
    Recorded.app (tally_recorded ..) (Recorded.app (event_recorded ..) ?_)⟩
  split
  · exact notice_recorded ..
  · rfl

/-- An `Inst` whose rotation has ended: its key is the next generation, and what was in force the previous one, with no grace
period (R302, R305). -/
def rotated (x : Inst) (key : BitVec 256) : Inst :=
  { x with
    cmd := some { gen := nextGen x, key := key, lac := 0, rekeySent := 0, byRotate := true }
    prev := x.cmd, graceEnd := none }

theorem installKey_rotated (hx : inst? s i = some x) (key : BitVec 256) :
    installKey i key true s = setInst i (rotated x key) s := by
  simp [installKey, rotated, hx]

/-! ### The COMPLETION -/

/-- A status that lateness does not change is the COMPLETION's (R124). -/
theorem completionOf_failed {st : Nat} (h : canBeLate st = false) (s : State) (k : Task) :
    (completionOf s k st 0 false).status = st ∧ (completionOf s k st 0 false).result = 0 := by
  simp [completionOf, h, resultFor]

/-- OK turns to OK_LATE by the time of the COMPLETION, and carries its RESULT (R124, R155, R207). -/
theorem completionOf_ok (h : t.quartz = s.quartz) (k : Task) (result : Nat) :
    (completionOf t k stOk result false).status = (if isLate s k = true then stLate else stOk) ∧
    (completionOf t k stOk result false).result = result := by
  have hlate : isLate t k = isLate s k := by
    unfold isLate
    rw [h]
  cases hs : isLate s k
  all_goals simp [completionOf, hlate, hs, canBeLate, resultFor]

/-- A key task that ends: its slot is DONE, and the keys of its `Inst` are as it found them. -/
theorem keyTask_completed (hx : inst? t i = some x) (hslot : slotOf x slot = some (.held k)) (st result : Nat) :
    ∃ y n r e, inst? (completeTask i slot st result false t) i = some y ∧
      slotOf y slot = some (.done (completionOf t k st result false) n r e) ∧
      (y.keys = x.keys ∧ y.cmd = x.cmd ∧ y.prev = x.prev ∧ y.graceEnd = x.graceEnd) ∧
      (completeTask i slot st result false t).cph = t.cph := by
  obtain ⟨y, r, hy, hanswered, hcph⟩ := completeTask_inst hx hslot st result false
  exact ⟨y, _, _, _, hy, (congrArg (fun z : Inst => amGet? z.slots slot) hanswered).trans (amGet?_amSet_self ..),
    ⟨(congrArg Inst.keys hanswered :), (congrArg Inst.cmd hanswered :), (congrArg Inst.prev hanswered :),
      (congrArg Inst.graceEnd hanswered :)⟩, hcph⟩

end Sys2Proof.Proofs
end

section
/-! The statements of 05_commands: the acceptance of a task, its rows, and what the types do from their acceptance on. -/

namespace Sys2Proof.Proofs

open Sys2Proof Sys2Proof.Machine Sys2Proof.Laws Sys2Proof.Safety

/-- Settles O32: the update is `acceptTask_inst`; the record in the slot by `newTask_fields`. -/
theorem acceptanceIsOneUpdate : Obligations.AcceptanceIsOneUpdate := by
  unfold Obligations.AcceptanceIsOneUpdate
  intro i f l ready s x hx
  obtain ⟨u, y, heffect, hy, hcounted, hlac, hcmd⟩ := acceptTask_inst hx f l ready
  obtain ⟨hop, hrecord, hseq, hready, htime, hpos⟩ := newTask_fields s (credited s x) f (payloadOf f l) ready
  exact ⟨u, y, _, heffect, hy, slotOf_accepted hcounted, hop, hrecord, hseq, hready, htime, hpos,
    (congrArg Inst.pos hcounted :), (congrArg Inst.placed hcounted :), (congrArg Inst.ops hcounted :),
    (congrArg Inst.bw hcounted :), hlac, hcmd⟩

/-- Settles O33: the front by `judgeFront_complete` and the cases of `judgeTask` and `admitFront`; a staged one by
`acceptFront_passed` and its like, its slot by `acceptTask_inst`; the wait for twin space ends by `twinTimeout_waiting`,
and what stays of the `Inst` by `refuseTask_inst`. -/
theorem frontTaskIsJudgedByTheRows : Obligations.FrontTaskIsJudgedByTheRows := by
  unfold Obligations.FrontTaskIsJudgedByTheRows
  refine ⟨fun i f n t rest l x z s r hx hplaced hcount hwaiting =>
      ⟨judgeFront_incomplete hx hplaced hcount, fun hfull hl => ?_⟩,
    fun i f l ready since x s hx hopen hfront => ⟨fun hstaged hlocked => ?_, fun hstaged hfree => ?_, fun hnot => ?_,
      fun hwaiting => ?_, fun hwaiting => settled_congr (twinTimeout_idle hx hwaiting)⟩⟩
  · subst hl
    have hjudged := judgeFront_complete hx hplaced hcount hwaiting hfull
    rw [← List.length_map (as := rest.take (upData f.record)) fun p : U32 × Up × Land => p.2.1]
    refine ⟨fun reason detail hrows => hjudged.trans (judgeTask_refused hrows),
      fun w hrows => hjudged.trans (judgeTask_waits hrows), fun k hrows hshort hpos => ?_,
      fun hrows hcovered hz hr => ?_⟩
    · subst hshort
      exact (hjudged.trans (judgeTask_passed hrows)).trans (admitFront_short hx hwaiting hpos)
    · have hadmitted := (hjudged.trans (judgeTask_passed hrows)).trans (admitFront_covered hx hwaiting hcovered)
      rw [← hz, ← hr] at hadmitted
      refine ⟨fun htype => hadmitted.trans (if_neg (by simp [htype])), fun htype hfits => ?_⟩
      rw [hadmitted, if_pos htype, rowTwin_fits (hr ▸ inst?_setInst_self ..) hfits]
  · exact settled_congr (acceptFront_locked hx hopen hstaged hfront hlocked)
  · refine ⟨fun hrows => ?_, fun reason detail hrows =>
      settled_congr (acceptFront_refused hx hopen hstaged hfront hfree hrows), fun w hrows =>
      settled_congr (acceptFront_waits hx hopen hstaged hfront hfree hrows)⟩
    · have hjudged := acceptFront_passed hx hopen hstaged hfront hfree hrows
      obtain ⟨u, y, heffect, hy, hcounted, -, -⟩ := acceptTask_inst
        ((inst?_of_recorded (countTag_recorded i.val (.task f) (taggedData f.record l) s) i.val).trans hx) f
        (dataFrames l) ready
      obtain ⟨-, hrecord, hseq, hready, htime, -⟩ := newTask_fields (countTag i.val (.task f) (taggedData f.record l) s)
        (credited (countTag i.val (.task f) (taggedData f.record l) s) x) f (payloadOf f (dataFrames l)) ready
      exact ⟨settled_congr hjudged, u, y, _, settled_congr (hjudged.trans heffect), hy, slotOf_accepted hcounted, hrecord,
        hseq, hready, htime.trans (proj_of_recorded State.quartz (countTag_recorded ..) :)⟩
  · exact settled_congr (acceptFront_notStaged hx hnot)
  · have hrefused := settled_congr (twinTimeout_waiting hx hopen hwaiting hfront)
    obtain ⟨w, hw, hkept⟩ := releaseTokens_inst hx f.record
    obtain ⟨y, hy, hplaced, hno, hslots, he⟩ := refuseTask_inst hw f l.length (reason := rjTaskRefused) rfl stNoBuffer 0
      (taggedData f.record l)
    exact ⟨hrefused, _, y, hrefused, hy, hplaced.trans (by rw [hkept]), hno, hslots.trans (by rw [hkept]),
      he.trans (by rw [hkept])⟩

/-- Settles O34: the way to the order by `exec_task_alone`, the acceptance by `acceptTask_inst`. -/
theorem taskWithoutDataIsAcceptedAtOnce : Obligations.TaskWithoutDataIsAcceptedAtOnce := by
  unfold Obligations.TaskWithoutDataIsAcceptedAtOnce
  intro p f s r t x y z i b hp hop hdata hcount htype hreach hvalid hi hy hsome hstate hat hplaced hclear hwaiting hopen
    hz ht hrows hcovered
  replace hy := (inst?_of_released (alloc_released hsome) i).trans hy
  have hquartz := quartz_landed hsome
  rw [← hop] at htype
  rw [← hquartz] at hz ⊢
  replace hz : z = placedAt r.quartz (.task f) b y := by
    rw [hz, placedAt, place, hplaced]
    rfl
  subst hi
  have hexec := exec_task_alone hp hreach hvalid hsome hy hstate hopen hat hplaced hclear hwaiting hdata hcount htype rfl
    hz ht hrows hcovered
  generalize htagged : countTag f.env.hdr.inst.toNat (.task f) (taggedData f.record []) _ = w at hexec ⊢
  have hrec := htagged ▸ countTag_recorded f.env.hdr.inst.toNat (.task f) (taggedData f.record [])
    (setInst f.env.hdr.inst.toNat (reserveTask f.record (credited t z)) t)
  have htime : w.quartz = r.quartz := (proj_of_recorded State.quartz hrec).trans (by rw [ht]; rfl)
  obtain ⟨u, v, heffect, hv, hcounted, -, -⟩ := acceptTask_inst
    ((inst?_of_recorded hrec _).trans (inst?_setInst_self ..)) f [] r.quartz
  obtain ⟨hkind, hrecord, hseq, -, hinstant, -⟩ := newTask_fields w
    (credited w (reserveTask f.record (credited t z))) f (payloadOf f []) r.quartz
  refine ⟨hexec, u, v, _, ?_, hv, slotOf_accepted hcounted, hkind.trans hop, hrecord, hseq, hinstant.trans htime,
    (congrArg Inst.placed hcounted).trans ?_, (congrArg Inst.e hcounted).trans ?_⟩
  · rw [hexec, heffect, hop]
  · rw [hz]
    simp [acceptedInst, credited, reserveTask, placedAt, place, hplaced]
  · rw [hz]
    rfl

/-- Settles O40: the keyed check by `authRows_missing`, a FLUSH by `judgeContent_flush`. -/
theorem criticalTypesNeedATrailerAndFlushAZone : Obligations.CriticalTypesNeedATrailerAndFlushAZone := by
  unfold Obligations.CriticalTypesNeedATrailerAndFlushAZone
  refine fun s i x f l => ⟨fun hop htrailer hdata hrecord hmask hslot => ?_, fun hop hsome hbeyond => ?_,
    fun hop hall => ?_⟩
  · exact taskRows_keyed hdata hrecord hmask hslot
      (authRows_missing s i x _ (List.contains_iff_mem.mpr hop) htrailer)
  · rw [judgeContent_flush s i x hop, if_pos ⟨hsome, hbeyond⟩]
  · rw [judgeContent_flush s i x hop, if_neg (by omega)]

/-- Settles O44: the zone and the `Inst` behind the write by `storeZone_inst`, the blocks by `amGet?_indexed`. -/
theorem writesAdvanceTheWritePointer : Obligations.WritesAdvanceTheWritePointer := by
  unfold Obligations.WritesAdvanceTheWritePointer
  rintro i z key pos hint desc l s x zn hx rfl
  obtain ⟨v, y, now, hy, hbound, hplaced⟩ := storeZone_inst hx z key pos hint desc l
  obtain ⟨changed, hwritten⟩ := zoneOf_written i z pos (zoneOf x z).wp now desc l v
  have hzone := hplaced.zone
  have hvz := hbound.zone
  have hv := hbound.rest
  rw [hwritten] at hzone
  have hparams : v.params = x.params := (congrArg Inst.params hv :)
  have hgen : (zoneOf v z).gen = (zoneOf x z).gen := (congrArg Zone.gen hvz :)
  refine ⟨y, hy, (congrArg Zone.wp hzone :), ?_, (congrArg Zone.gen hzone).trans hgen,
    (congrArg Zone.waste hzone).trans (congrArg Zone.waste hvz :), ?_, fun n d hd => ?_,
    (congrArg Inst.e hplaced.rest).trans (congrArg Inst.e hv :),
    (congrArg Inst.slots hplaced.rest).trans (congrArg Inst.slots hv :),
    fun w hw => ((hplaced.other w hw).trans (zoneOf_written_ne hw ..)).trans (hbound.other w hw)⟩
  · have hstate : (zoneOf v z).state = (zoneOf x z).state := (congrArg Zone.state hvz :)
    refine (congrArg Zone.state hzone).trans ?_
    simp only [writtenState, advanced, hparams, hstate]
  · have hpending : (zoneOf v z).pending = (zoneOf x z).pending := (congrArg Zone.pending hvz :)
    refine (congrArg Zone.pending hzone).trans ?_
    simp only [advanced, hpending]
  · have hstored : amGet? (zoneOf (writtenInst i z pos (zoneOf x z).wp now desc l v) z).blocks ((zoneOf x z).wp + n) =
        some (zoneBlock i z ((zoneOf x z).wp + n) pos v (zoneOf v z) desc d
          (stagedAt v ((zoneOf x z).wp + n - (zoneOf x z).wp))) := by
      rw [hwritten]
      exact amGet?_indexed _ _ hd _
    obtain ⟨b, hb, hkept⟩ := hplaced.block _ _ hstored
    have hkey : (zoneOf y z).key = (zoneOf v z).key := (congrArg Zone.key hzone :)
    have hkeys : v.keys = x.keys := (congrArg Inst.keys hv :)
    have hstaged : v.stagedBufs = x.stagedBufs := (congrArg Inst.stagedBufs hv :)
    refine ⟨b, hb, (congrArg Stored.box hkept).trans ?_, (congrArg Stored.twin hkept).trans ?_,
      (congrArg Stored.onFlash hkept :), (congrArg Stored.pos hkept :), (congrArg Stored.desc hkept :),
      (congrArg Stored.harm hkept :)⟩
    · simp only [zoneBlock, sealFor, hkey, hgen, hparams, hkeys]
    · simp only [zoneBlock, stagedAt, hstaged, Nat.add_sub_cancel_left]

/-- Settles O46: ABORT by the cases of `abortOutcome`, a delivery by those of `deliverOne` and `deliverMessage`; a mailbox
changes by `placeMessage_inst` and `readMailbox_oldest`. -/
theorem abortMailboxAndKeyErase : Obligations.AbortMailboxAndKeyErase := by
  unfold Obligations.AbortMailboxAndKeyErase
  refine ⟨fun x n q t c d r => ⟨fun hfree => abortOutcome_free hfree q, fun hheld => ?_,
      fun hdone => abortOutcome_done hdone q⟩,
    fun i slot to' s t x y hheld hx hto => ?_⟩
  · rw [abortOutcome_held hheld q]
    refine ⟨fun hseq => if_pos hseq, fun hseq hop => ?_, fun hseq hop hlatch => ?_, fun hseq hop hlatch => ?_⟩
    · rw [if_neg (not_not_intro hseq), if_pos hop]
    · rw [if_neg (not_not_intro hseq), if_neg (by simp [hop]), if_neg hlatch]
    · rw [if_neg (not_not_intro hseq), if_neg (by simp [hop]), if_pos hlatch]
  · subst hto
    refine ⟨queueDue_held hheld, queueDue_held hheld, deliverOne_send hheld, deliverOne_read hheld,
      deliverOne_stopped hheld, deliverMessage_nobody hheld, deliverMessage_outOfService hheld, deliverMessage_full hheld,
      fun hy hservice hroom => ?_, fun hempty => readMailbox_empty hx hempty slot,
      fun m l hmail => readMailbox_oldest hx hheld hmail, ?_⟩
    · obtain ⟨z, hz, hmbox, hcount⟩ := modTask_mbox hy i slot fun t => { t with latch := .committed }
      obtain ⟨w, hw, hplaced⟩ := placeMessage_inst hz i (messageOf t)
      exact ⟨_, w, deliverMessage_taken hheld hy hservice hroom, hw, by rw [hplaced, hmbox, hcount]; rfl⟩
    · exact ⟨_, _, acceptKeyErase_held hheld, (inst?_modInst_self ..).trans (congrArg _ hx), amGet?_amErase_self ..,
        fun q hq => amGet?_amErase_ne _ _ _ hq⟩

/-- Settles O49: the lane's answer by the cases of `loadDone` and by `rotateDone_confirmed`, the end of the task by
`keyTask_completed`. -/
theorem unwrappedKeysTakeTheirSlot : Obligations.UnwrappedKeysTakeTheirSlot := by
  unfold Obligations.UnwrappedKeysTakeTheirSlot
  rintro i s x slot t b hx rfl
  have hrec := keccakMsg_recorded true s
  have hkept : inst? (keccakMsg true s) i.val = some x := (inst?_of_recorded hrec i.val).trans hx
  have hcph : (keccakMsg true s).cph = s.cph := (proj_of_recorded State.cph hrec :)
  have htime : (keccakMsg true s).quartz = s.quartz := (proj_of_recorded State.quartz hrec :)
  refine ⟨fun hnone => settled_congr (unwrapDone_idle hx hnone), fun hkey hslot => ⟨?_, ?_⟩⟩
  · rintro w u hop rfl hu
    have hload := unwrapDone_load hx hkey hop
    cases u with
    | malformed =>
      obtain ⟨y, n, r, e, hy, hdone, ⟨hkeys, -⟩, hlanes⟩ := keyTask_completed hkept hslot stBadRecord 0
      obtain ⟨hstatus, hresult⟩ := completionOf_failed (st := stBadRecord) rfl (keccakMsg true s) t
      exact ⟨_, y, _, n, r, e, settled_congr (hload.trans (loadDone_malformed hu.symm)), hy, hdone, hop, rfl,
        fun _ => ⟨hstatus, hresult, hkeys, hlanes.trans hcph⟩, nofun, nofun, nofun⟩
    | failed =>
      obtain ⟨cph, hcount, hseal⟩ := sealFail_shape 1 i.val (keccakMsg true s)
      obtain ⟨y, n, r, e, hy, hdone, ⟨hkeys, -⟩, hlanes⟩ := keyTask_completed
        ((inst?_of_recorded hseal i.val).trans hkept) hslot stDataAuth 0
      obtain ⟨hstatus, hresult⟩ := completionOf_failed (st := stDataAuth) rfl (sealFail 1 i.val (keccakMsg true s)) t
      refine ⟨_, y, _, n, r, e, settled_congr (hload.trans (loadDone_failed hu.symm)), hy, hdone, hop, rfl, nofun,
        fun _ => ⟨hstatus, hresult, hkeys, ?_⟩, nofun, nofun⟩
      rw [hlanes, (proj_of_recorded (fun u => u.cph) hseal :), ← hcph]
      exact hcount
    | ok key =>
      cases hbytes : loadTrailing t with
      | true =>
        obtain ⟨y, n, r, e, hy, hdone, ⟨hkeys, -⟩, -⟩ := keyTask_completed hkept hslot stBadRecord 0
        obtain ⟨hstatus, -⟩ := completionOf_failed (st := stBadRecord) rfl (keccakMsg true s) t
        exact ⟨_, y, _, n, r, e, settled_congr (hload.trans (loadDone_trailing hu.symm hbytes)), hy, hdone, hop, rfl, nofun,
          nofun, fun _ _ _ => ⟨hstatus, hkeys⟩, fun _ _ hzero => absurd (hbytes.symm.trans hzero) nofun⟩
      | false =>
        obtain ⟨y, n, r, e, hy, hdone, ⟨hkeys, -⟩, -⟩ := keyTask_completed ((inst?_modInst_self i.val (fun x =>
          { x with keys := amSet x.keys (recField t.record 0x08 2) key }) (keccakMsg true s)).trans
          (congrArg _ hkept)) hslot stOk (recField t.record 0x08 2)
        obtain ⟨hstatus, hresult⟩ := completionOf_ok (s := s) htime t (recField t.record 0x08 2)
        refine ⟨_, y, _, n, r, e, settled_congr (hload.trans (loadDone_whole hu.symm hbytes)), hy, hdone, hop, rfl, nofun,
          nofun, fun _ _ hmore => absurd (hbytes.symm.trans hmore) nofun, fun q hq _ => ?_⟩
        cases hq
        rw [hkeys]
        exact ⟨hstatus, hresult, amGet?_amSet_self .., fun q hq => amGet?_amSet_ne _ _ _ _ hq⟩
  · intro k gen n hop hgen hn hunwrap hzero hconf
    have hrotate := (unwrapDone_rotate hx hkey hop).trans (rotateDone_confirmed hgen hn hunwrap hzero hconf)
    rw [installKey_rotated hkept] at hrotate
    obtain ⟨y, m, r, e, hy, hdone, ⟨-, hcmd, hprev, hgrace⟩, -⟩ := keyTask_completed (x := rotated x k)
      (inst?_setInst_self ..) hslot stOk gen
    obtain ⟨hstatus, hresult⟩ := completionOf_ok (s := s) htime t gen
    exact ⟨_, y, _, m, r, e, _, settled_congr hrotate, hy, hdone, rfl, hstatus, hresult, hcmd, rfl, rfl, rfl, hprev, hgrace⟩

end Sys2Proof.Proofs
end

section
/-! SUPPORT. What buffers taken and let go, accesses to the map cache and the discard of twin entries leave as it is (R176,
R344–R353). -/

namespace Sys2Proof.Proofs

open Sys2Proof Sys2Proof.Machine Sys2Proof.Laws Sys2Proof.Safety

variable {s t u : State} {i j slot n : Nat} {x y : Inst} {k : Task}

/-! ### Buffers, the map cache, records and counts -/

/-- What buffers taken and let go, accesses to the map cache, records and counts may change between two states. -/
def Accounted (s t : State) : Prop :=
  t = { s with bpm := t.bpm, mch := t.mch, obs := t.obs, tal := t.tal, fcl := t.fcl }

theorem Accounted.refl (s : State) : Accounted s s := rfl

theorem Accounted.trans (h : Accounted s t) (k : Accounted t u) : Accounted s u := by
  unfold Accounted at h k ⊢
  rw [h] at k
  exact k

theorem Accounted.after (k : Accounted t u) (h : Accounted s t) : Accounted s u := h.trans k

/-- A field of the state, by what `Accounted` names. -/
theorem proj_of_accounted {β : Type} (f : State → β) (h : Accounted s t) :
    f t = f { s with bpm := t.bpm, mch := t.mch, obs := t.obs, tal := t.tal, fcl := t.fcl } := congrArg f h

theorem Accounted.of_recorded (h : Recorded s t) : Accounted s t := by
  unfold Recorded at h
  unfold Accounted
  rw [h]

theorem Accounted.of_released (h : Released s t) : Accounted s t := by
  unfold Released at h
  unfold Accounted
  rw [h]

theorem Accounted.ite {p : Prop} [Decidable p] (h : Accounted s t) (k : Accounted s u) :
    Accounted s (if p then t else u) := by
  split
  · exact h
  · exact k

theorem poolFail_accounted (p : Nat) (s : State) : Accounted s (poolFail p s) := by
  unfold poolFail
  dsimp only
  refine .after (.of_recorded (tally_recorded ..)) (Accounted.ite ?_ (by rfl))
  exact .after (.of_recorded (notice_recorded ..)) (by rfl)

theorem allocBuf_accounted (p port : Nat) (reserved : Bool) (s : State) : Accounted s (allocBuf p port reserved s).2 := by
  rcases allocBuf_cases p port reserved s with ⟨-, h⟩ | ⟨-, h⟩
  · rw [h]
    exact poolFail_accounted p s
  · rw [h]
    rfl

theorem takeFirst_accounted (port : Nat) (pools : List (Nat × Bool)) (s : State) :
    Accounted s (takeFirst port pools s).2 := by
  induction pools generalizing s with
  | nil => rfl
  | cons p pools ih =>
    have halloc := allocBuf_accounted p.1 port p.2 s
    unfold takeFirst
    generalize allocBuf p.1 port p.2 s = r at halloc ⊢
    obtain ⟨_ | b, u⟩ := r
    · exact halloc.trans (ih u)
    · exact halloc

theorem takePage_accounted (s : State) : Accounted s (takePage s).2 := by
  unfold takePage
  refine List.foldlRecOn _ _ (motive := fun a : List (Nat × Nat) × State => Accounted s a.2) rfl fun a ha _ _ => ?_
  have htake := ha.trans (takeFirst_accounted 4 [(10, true), (11, true)] a.2)
  generalize takeFirst 4 [(10, true), (11, true)] a.2 = r at htake ⊢
  obtain ⟨_ | b, u⟩ := r
  · exact htake
  · exact htake

theorem incRef_accounted (p b : Nat) (s : State) : Accounted s (incRef p b s).2 := by
  rcases incRef_cases p b s with ⟨-, h⟩ | ⟨d, -, -, h⟩ | ⟨d, -, -, h⟩
  · rw [h]
    rfl
  · rw [h]
    exact .of_recorded (Recorded.app (tally_recorded ..) (notice_recorded ..))
  · rw [h]
    rfl

theorem refTwin_accounted (b : Nat × Nat) (s : State) : Accounted s (refTwin b s).2 := by
  have hfirst := incRef_accounted 4 b.1 s
  unfold refTwin
  generalize incRef 4 b.1 s = r at hfirst ⊢
  obtain ⟨_ | _, u⟩ := r
  · exact hfirst
  · have hboth := hfirst.trans (incRef_accounted 5 b.2 u)
    dsimp only at hboth ⊢
    generalize incRef 5 b.2 u = q at hboth ⊢
    obtain ⟨_ | _, v⟩ := q
    · exact hboth.trans (.of_released (decRef_released ..))
    · exact hboth

theorem installLine_accounted (line : Nat) (l : Line) (s : State) : Accounted s (installLine line l s) := by
  have hevict : ∀ v e u, Accounted u (evictLine v e u) := fun v e u => .ite rfl rfl
  unfold installLine
  refine .ite rfl ?_
  split
  · rfl
  · exact .ite rfl (.ite rfl (.ite rfl ((hevict ..).trans rfl)))

theorem demandAccess_accounted (part line : Nat) (s : State) : Accounted s (demandAccess part line s) := by
  have htally : ∀ field u, Accounted u (tally noInst 0x0104 field 1 u) := fun _ _ => .of_recorded (tally_recorded ..)
  unfold demandAccess
  dsimp only
  refine .ite (htally ..) (.ite (.after (htally ..) ?_) (.ite (htally ..) (.after (htally ..) (by rfl))))
  exact .after (installLine_accounted ..) (by rfl)

theorem prefetch_accounted (part line : Nat) (s : State) : Accounted s (prefetch part line s) := by
  have hfill : ∀ l u, Accounted u (prefetchLine part l u) := fun l u =>
    .ite rfl (.after (.of_recorded (tally_recorded ..)) (by rfl))
  unfold prefetch
  split
  · exact List.foldlRecOn _ _ (motive := Accounted s) rfl fun u hu l _ => hu.trans (hfill _ u)
  · rfl

theorem mapAccess_accounted (part line : Nat) (s : State) : Accounted s (mapAccess part line s) := by
  unfold mapAccess track
  dsimp only
  exact .ite rfl (.trans (demandAccess_accounted ..) (.ite (.after (prefetch_accounted ..) (by rfl)) (.refl _)))

theorem mapAccesses_accounted (part : Nat) (lines : List Nat) (s : State) :
    Accounted s (lines.foldl (fun s line => mapAccess part line s) s) :=
  List.foldlRecOn _ _ (motive := Accounted s) rfl fun u hu line _ => hu.trans (mapAccess_accounted part line u)

/-! ### A HELD task after a change of it -/

theorem heldTask_congr (h : inst? t i = inst? s i) (slot : Nat) : heldTask t i slot = heldTask s i slot := by
  unfold heldTask
  rw [h]

theorem heldTask_of_accounted (h : Accounted s t) (i slot : Nat) : heldTask t i slot = heldTask s i slot :=
  (proj_of_accounted (fun u => heldTask u i slot) h :)

theorem inst_of_heldTask (hheld : heldTask s i slot = some k) :
    ∃ x, inst? s i = some x ∧ slotOf x slot = some (.held k) := by
  cases hx : inst? s i with
  | none => simp [heldTask, hx] at hheld
  | some x => exact ⟨x, rfl, slot_of_heldTask hx hheld⟩

theorem heldTask_modTask_self (hheld : heldTask s i slot = some k) (f : Task → Task) :
    heldTask (modTask i slot f s) i slot = some (f k) := by
  obtain ⟨x, hx, -⟩ := inst_of_heldTask hheld
  exact heldTask_of_slot (inst?_modTask_self hx hheld f) (slotOf_setSlot_self ..)

theorem slotOf_setSlot_ne {m : Nat} (h : m ≠ n) (sl : Slot) (x : Inst) : slotOf (setSlot n sl x) m = slotOf x m :=
  amGet?_amSet_ne _ _ _ _ h

theorem heldTask_modTask_ne {m : Nat} (h : ¬(j = i ∧ m = slot)) (f : Task → Task) (s : State) :
    heldTask (modTask i slot f s) j m = heldTask s j m := by
  by_cases hj : j = i
  · subst hj
    cases hheld : heldTask s j slot with
    | none => simp [modTask, hheld]
    | some k =>
      obtain ⟨x, hx, -⟩ := inst_of_heldTask hheld
      simp [heldTask, inst?_modTask_self hx hheld f, hx, slotOf_setSlot_ne (fun hm => h ⟨rfl, hm⟩)]
  · exact heldTask_congr (inst?_modTask_ne hj slot f s) m

/-! ### The discard of twin entries (R176, R177) -/

/-- What the discard of twin entries changes between two states: what `Accounted` names, and the blocks of HELD tasks. -/
structure Reblocked (s t : State) : Prop where
  frame : t = { s with insts := t.insts, bpm := t.bpm, mch := t.mch, obs := t.obs, tal := t.tal, fcl := t.fcl }
  held : ∀ i slot k, heldTask s i slot = some k → ∃ bs, heldTask t i slot = some { k with blocks := bs }

theorem Reblocked.trans (h : Reblocked s t) (k : Reblocked t u) : Reblocked s u where
  frame := by
    have hframe := k.frame
    rw [h.frame] at hframe
    exact hframe
  held i slot a ha := by
    obtain ⟨bs, hb⟩ := h.held i slot a ha
    obtain ⟨cs, hc⟩ := k.held i slot _ hb
    exact ⟨cs, hc⟩

theorem Reblocked.of_accounted (h : Accounted s t) : Reblocked s t where
  frame := by
    unfold Accounted at h
    rw [h]
  held i slot k hk := ⟨k.blocks, (heldTask_of_accounted h i slot).trans hk⟩

theorem Reblocked.refl (s : State) : Reblocked s s := .of_accounted (.refl s)

theorem Reblocked.ite {p : Prop} [Decidable p] (h : Reblocked s t) (k : Reblocked s u) :
    Reblocked s (if p then t else u) := by
  split
  · exact h
  · exact k

theorem modBlock_reblocked (i slot b : Nat) (f : ReadBlock → ReadBlock) (s : State) :
    Reblocked s (modBlock i slot b f s) where
  frame := by
    unfold modBlock modTask
    split <;> rfl
  held j m k hk := by
    by_cases hat : j = i ∧ m = slot
    · obtain ⟨rfl, rfl⟩ := hat
      exact ⟨modNth k.blocks b f, heldTask_modTask_self hk _⟩
    · exact ⟨k.blocks, (heldTask_modTask_ne hat _ s).trans hk⟩

theorem giveBuf_reblocked (i slot b half : Nat) (s : State) : Reblocked s (giveBuf i slot b half s) := by
  unfold giveBuf
  split
  · exact .refl s
  · exact .ite (.refl s) ((Reblocked.of_accounted (takeFirst_accounted ..)).trans (modBlock_reblocked ..))

theorem takeEntry_reblocked (i slot b half : Nat) (e : Nat × Nat) (s : State) :
    Reblocked s (takeEntry i slot b half e s) := by
  have href := Reblocked.of_accounted (refTwin_accounted e s)
  exact .ite (href.trans (modBlock_reblocked ..)) ((href.trans (modBlock_reblocked ..)).trans (giveBuf_reblocked ..))

theorem keepEntry_reblocked (i : Nat) (e : Nat × Nat) (s : State) : Reblocked s (keepEntry i e s) := by
  unfold keepEntry
  split
  · exact .refl s
  · refine List.foldlRecOn _ _ (motive := Reblocked s) (.refl s) fun u hu p _ => ?_
    split
    · refine .ite hu ?_
      exact List.foldlRecOn _ _ (motive := Reblocked s) hu fun v hv b _ =>
        .ite (hv.trans (takeEntry_reblocked ..)) hv
    · exact hu

theorem dropTwins_reblocked (i : Nat) (l : List (Nat × Stored)) (s : State) : Reblocked s (dropTwins i l s) := by
  refine List.foldlRecOn _ _ (motive := Reblocked s) (.refl s) fun u hu b _ => hu.trans ?_
  unfold dropStored
  split
  · exact (keepEntry_reblocked ..).trans
      (.of_accounted (.of_released ((decRef_released ..).trans (decRef_released ..))))
  · exact .refl u

theorem dropUndo_reblocked (desc : Nat) (s : State) : Reblocked s (dropUndo desc s) := by
  unfold dropUndo
  split
  · exact .refl s
  · exact List.foldlRecOn _ _ (motive := Reblocked s) (.refl s) fun u hu e _ => hu.trans (dropTwins_reblocked ..)

end Sys2Proof.Proofs
end

section
/-! SUPPORT. What the reads that a commit held leave as it is when they go on (R133, R175, R190, R226): the descriptors and
their records, the locked lines, and every slot that is DONE. -/

namespace Sys2Proof.Proofs

open Sys2Proof Sys2Proof.Machine Sys2Proof.Laws Sys2Proof.Safety

variable {s t u : State} {i j slot n : Nat} {x y : Inst} {k : Task}

/-! ### The relation -/

/-- Slots that are DONE stay as they are. -/
def DoneKept (x y : Inst) : Prop := ∀ n c m r e, slotOf x n = some (.done c m r e) → slotOf y n = some (.done c m r e)

theorem DoneKept.refl (x : Inst) : DoneKept x x := fun _ _ _ _ _ h => h

theorem DoneKept.trans {z : Inst} (h : DoneKept x y) (k : DoneKept y z) : DoneKept x z :=
  fun n c m r e hn => k n c m r e (h n c m r e hn)

/-- What the service of reads keeps from a state to the next. -/
structure Serving (s t : State) : Prop where
  descs : t.jrn.descs = s.jrn.descs
  records : ∀ n, (∀ q ∈ s.jrn.staging ++ s.jrn.slc, ofDesc n q = false) →
    ∀ q ∈ t.jrn.staging ++ t.jrn.slc, ofDesc n q = false
  locks : ∀ l ∈ s.jrn.locks, l ∈ t.jrn.locks
  done : ∀ i x, inst? s i = some x → ∃ y, inst? t i = some y ∧ DoneKept x y

theorem Serving.trans (h : Serving s t) (k : Serving t u) : Serving s u where
  descs := k.descs.trans h.descs
  records n hn := k.records n (h.records n hn)
  locks l hl := k.locks l (h.locks l hl)
  done i x hx := by
    obtain ⟨y, hy, hxy⟩ := h.done i x hx
    obtain ⟨z, hz, hyz⟩ := k.done i y hy
    exact ⟨z, hz, hxy.trans hyz⟩

theorem Serving.after (k : Serving t u) (h : Serving s t) : Serving s u := h.trans k

theorem Serving.of_insts (hjrn : t.jrn = s.jrn)
    (hdone : ∀ i x, inst? s i = some x → ∃ y, inst? t i = some y ∧ DoneKept x y) : Serving s t where
  descs := by rw [hjrn]
  records n hn := by
    rw [hjrn]
    exact hn
  locks l hl := by
    rw [hjrn]
    exact hl
  done := hdone

/-- A change of the journal alone that leaves the descriptors, takes no lock back and stages no descriptor's record. -/
theorem Serving.of_journal (hinsts : t.insts = s.insts) (hdescs : t.jrn.descs = s.jrn.descs)
    (hrecords : ∀ q ∈ t.jrn.staging ++ t.jrn.slc, q ∈ s.jrn.staging ++ s.jrn.slc ∨ q.client ≠ 0)
    (hlocks : ∀ l ∈ s.jrn.locks, l ∈ t.jrn.locks) : Serving s t where
  descs := hdescs
  records n hn q hq := by
    rcases hrecords q hq with hold | hclient
    · exact hn q hold
    · simp [ofDesc, hclient]
  locks := hlocks
  done i x hx := ⟨x, (congrArg (amGet? · i) hinsts).trans hx, .refl x⟩

theorem Serving.of_same (hjrn : t.jrn = s.jrn) (hinsts : t.insts = s.insts) : Serving s t :=
  .of_insts hjrn fun i x hx => ⟨x, (congrArg (amGet? · i) hinsts).trans hx, .refl x⟩

theorem Serving.refl (s : State) : Serving s s := .of_same rfl rfl

theorem Serving.ite {p : Prop} [Decidable p] (h : Serving s t) (k : Serving s u) : Serving s (if p then t else u) := by
  split
  · exact h
  · exact k

theorem Serving.foldl {α : Type} {f : State → α → State} (h : ∀ u a, Serving u (f u a)) (l : List α) (s : State) :
    Serving s (l.foldl f s) :=
  List.foldlRecOn _ _ (motive := Serving s) (.refl s) fun u hu a _ => hu.trans (h u a)

theorem Serving.of_accounted (h : Accounted s t) : Serving s t :=
  .of_same (proj_of_accounted State.jrn h :) (proj_of_accounted State.insts h :)

theorem Serving.of_recorded (h : Recorded s t) : Serving s t := .of_accounted (.of_recorded h)

theorem tally_serving (target group field n : Nat) (s : State) : Serving s (tally target group field n s) :=
  .of_recorded (tally_recorded ..)

theorem Serving.of_released (h : Released s t) : Serving s t := .of_accounted (.of_released h)

theorem Serving.of_inst (hjrn : t.jrn = s.jrn) (hother : ∀ j, j ≠ i → inst? t j = inst? s j)
    (hone : ∀ x, inst? s i = some x → ∃ y, inst? t i = some y ∧ DoneKept x y) : Serving s t :=
  .of_insts hjrn fun j x hx => by
    by_cases hj : j = i
    · subst hj
      exact hone x hx
    · exact ⟨x, (hother j hj).trans hx, .refl x⟩

theorem Serving.of_setInst (hx : inst? s i = some x) (h : DoneKept x y) : Serving s (setInst i y s) :=
  .of_inst (i := i) rfl (fun j hj => inst?_setInst_ne i j y s hj) fun z hz => by
    obtain rfl := Option.some.inj (hx.symm.trans hz)
    exact ⟨y, inst?_setInst_self .., h⟩

theorem Serving.of_modInst {f : Inst → Inst} (h : ∀ x, DoneKept x (f x)) (s : State) : Serving s (modInst i f s) :=
  .of_inst (i := i) rfl (fun j hj => inst?_modInst_ne i j f s hj) fun x hx =>
    ⟨f x, (inst?_modInst_self ..).trans (congrArg _ hx), h x⟩

theorem DoneKept.of_slots (h : y.slots = x.slots) : DoneKept x y := fun n _ _ _ _ hn => by
  unfold slotOf at hn ⊢
  rw [h]
  exact hn

/-- A change of a HELD slot touches no other. -/
theorem DoneKept.of_setSlot (hslot : slotOf x n = some (.held k)) (sl : Slot) : DoneKept x (setSlot n sl x) :=
  fun m c q r e hm => by
    have hne : m ≠ n := fun heq => by
      subst heq
      rw [hslot] at hm
      nomatch hm
    exact (slotOf_setSlot_ne hne sl x).trans hm

/-! ### Tasks and their answers -/

theorem setSlot_serving (hheld : heldTask s i slot = some k) (sl : Slot) : Serving s (modInst i (setSlot slot sl) s) :=
  .of_inst (i := i) rfl (fun j hj => inst?_modInst_ne i j _ s hj) fun x hx =>
    ⟨setSlot slot sl x, (inst?_modInst_self ..).trans (congrArg _ hx), .of_setSlot (slot_of_heldTask hx hheld) sl⟩

theorem modTask_serving (i slot : Nat) (f : Task → Task) (s : State) : Serving s (modTask i slot f s) := by
  cases hheld : heldTask s i slot with
  | none =>
    unfold modTask
    rw [hheld]
    exact .refl s
  | some k =>
    rw [modTask_eq hheld]
    exact setSlot_serving hheld _

theorem modBlock_serving (i slot b : Nat) (f : ReadBlock → ReadBlock) (s : State) : Serving s (modBlock i slot b f s) :=
  modTask_serving ..

theorem sendOwned_serving (i pref flags slot block : Nat) (body : Body) (trailer : Option Trailer)
    (buf : Option (Nat × Nat)) (s : State) : Serving s (sendOwned i pref flags slot block body trailer buf s) := by
  have hjrn := (proj_of_transported State.jrn (sendOwned_transported i pref flags slot block body trailer buf s) :)
  unfold sendOwned at hjrn ⊢
  split
  · exact .refl s
  next x hx =>
    rw [hx] at hjrn
    dsimp only at hjrn ⊢
    have hset : ∀ y : Inst, y.slots = x.slots → Serving s (setInst i y s) := fun y hy => .of_setInst hx (.of_slots hy)
    have hemit : ∀ d v, Serving v (emit d v) := fun d v =>
      .of_insts (proj_of_transported State.jrn (emit_transported d v) :) fun j z hz =>
        ⟨z, (inst?_emit d v j).trans hz, .refl z⟩
    exact .ite (.ite (.after (hemit ..) (hset _ rfl)) (hset _ rfl)) (hset _ rfl)

theorem notify_serving (i ev a0 a1 a2 : Nat) (s : State) : Serving s (notify i ev a0 a1 a2 s) := by
  unfold notify
  split
  · exact .refl s
  · exact sendOwned_serving ..

theorem escalate_serving (i : Nat) (s : State) : Serving s (escalate i s) := by
  unfold escalate
  split
  · exact .refl s
  next x hx =>
    have hflagged : Serving s (setInst i { x with escalated := true } s) := .of_setInst hx (.of_slots rfl)
    have hraised : Serving s (raise 0x162 (ruleFault kEscalated sevDegrade 0x162 i [i])
        (setInst i { x with escalated := true } s)) := hflagged.trans (.of_same rfl rfl)
    exact .ite ((hraised.trans (tally_serving ..)).trans (notify_serving ..)) (.refl s)

theorem missRestart_serving (i : Nat) (s : State) : Serving s (missRestart i s) := by
  have hmarked : Serving s (modInst i (fun x => { x with restartLate := true }) s) :=
    .of_modInst (fun _ => .of_slots (by rfl)) s
  exact .after (tally_serving ..) (.after (tally_serving ..) (hmarked.trans (.of_same rfl rfl)))

theorem missLate_serving (i slot : Nat) (t : Task) (s : State) : Serving s (missLate i slot t s) := by
  unfold missLate
  dsimp only
  have htallied : Serving s (tally noInst 0x0101 0 1 (tally i 0x0004 (20 + namedCause
      (tally i 0x0004 (t.op - 1) 1 s).quartz t - 1) 1 (tally i 0x0004 (t.op - 1) 1 s))) :=
    .after (tally_serving ..) (.after (tally_serving ..) (tally_serving ..))
  generalize tally noInst 0x0101 0 1 _ = u at htallied ⊢
  refine .after (escalate_serving ..) (.after (.of_modInst (fun _ => .of_slots (by rfl)) _) ?_)
  refine .after (.of_recorded (eventAt_recorded ..)) (htallied.trans ?_)
  exact .ite (.after (.of_recorded (notice_recorded ..)) (.of_same rfl rfl)) (.of_same rfl rfl)

theorem missTask_serving (i slot : Nat) (t : Task) (s : State) : Serving s (missTask i slot t s) :=
  .ite (missRestart_serving ..) (missLate_serving ..)

theorem completionSent_serving (i slot : Nat) (t : Task) (c : Completion) (trl : Option Trailer) (late : Bool)
    (s : State) : Serving s (completionSent i slot t c trl late s) := by
  have hkind : ∀ v, Serving v (if t.op = 0x12 then tally i 0x0008 3 1 v else if t.op = 0x13 then tally i 0x0008 4 1 v
      else if t.op = 0x14 then tally i 0x0008 5 1 v else v) := fun v =>
    .ite (tally_serving ..) (.ite (tally_serving ..) (.ite (tally_serving ..) (.refl v)))
  have hmiss : ∀ v, Serving v (if late then missTask i slot t v else v) := fun v => .ite (missTask_serving ..) (.refl v)
  unfold completionSent
  dsimp only
  refine .after (hmiss _) (.after (hkind _) (.after (tally_serving ..) (.after (tally_serving ..) ?_)))
  exact (sendOwned_serving ..).trans (.ite (.of_recorded (keccakMsg_recorded ..)) (.refl _))

theorem completeTask_serving (i slot st result : Nat) (dropped : Bool) (s : State) :
    Serving s (completeTask i slot st result dropped s) := by
  cases hheld : heldTask s i slot with
  | none =>
    unfold completeTask
    rw [hheld]
    exact .refl s
  | some k =>
    obtain ⟨x, hx, hslot⟩ := inst_of_heldTask hheld
    obtain ⟨trl, hcomplete⟩ := completeTask_eq hx hslot st result dropped
    rw [hcomplete]
    exact ((setSlot_serving hheld _).trans (.of_released (letGoAll_released ..))).trans (completionSent_serving ..)

/-! ### Blocks that are sent, or that fail (R133) -/

theorem sendBlock_serving (i slot b : Nat) (last : Bool) (s : State) : Serving s (sendBlock i slot b last s) := by
  unfold sendBlock
  split
  · split
    · exact .refl s
    · exact (modTask_serving ..).trans (sendOwned_serving ..)
  · exact .refl s

theorem giveBuf_serving (i slot b half : Nat) (s : State) : Serving s (giveBuf i slot b half s) := by
  unfold giveBuf
  split
  · exact .refl s
  · exact .ite (.refl s) ((Serving.of_accounted (takeFirst_accounted ..)).trans (modBlock_serving ..))

theorem dropBlock_serving (i slot b : Nat) (s : State) : Serving s (dropBlock i slot b s) := by
  unfold dropBlock
  split
  · exact .refl s
  · exact (modBlock_serving ..).trans (.of_released (letGo_released ..))

theorem finishRead_serving (i slot : Nat) (s : State) : Serving s (finishRead i slot s) := by
  unfold finishRead
  split
  · exact .refl s
  next k _ =>
    have hlast : Serving s (match k.heldBack with
        | some b => sendBlock i slot b true s
        | none => s) := by
      split
      · exact sendBlock_serving ..
      · exact .refl s
    exact .ite ((hlast.trans (tally_serving ..)).trans (completeTask_serving ..)) (.refl s)

theorem blockReady_serving (i slot b : Nat) (s : State) : Serving s (blockReady i slot b s) := by
  unfold blockReady
  split
  · exact .refl s
  · refine .after (finishRead_serving ..) (.after (modTask_serving ..) ?_)
    split
    · exact sendBlock_serving ..
    · exact .refl s

theorem blockFailed_serving (i slot b how : Nat) (s : State) : Serving s (blockFailed i slot b how s) :=
  ((dropBlock_serving ..).trans (modTask_serving ..)).trans (finishRead_serving ..)

/-! ### Reads at the dies (R221, R226, R249) -/

theorem suspendFor_serving (d : Nat) (r : ReadReq) (s : State) : Serving s (suspendFor d r s) := by
  unfold suspendFor
  split
  · exact .refl s
  · refine .after (Serving.ite (.refl _) (tally_serving ..)) (.after (tally_serving ..) ?_)
    exact .of_same rfl rfl

theorem memberRead_serving (d : Nat) (r : ReadReq) (s : State) : Serving s (memberRead d r s) := by
  unfold memberRead
  split
  · exact .refl s
  · exact .ite (suspendFor_serving ..) (.refl s)

theorem setNeed_serving (r : ReadReq) (die n : Nat) (s : State) : Serving s (setNeed r die n s) := by
  unfold setNeed
  split
  · exact .of_same rfl rfl
  · exact modTask_serving ..

theorem reconstruct_serving (r : ReadReq) (pl : Nat × Nat) (s : State) : Serving s (reconstruct r pl s) := by
  have hread : ∀ q u m, Serving u (memberRead m q (enqueue m q u)) := fun q u m =>
    .trans (t := enqueue m q u) (.of_same rfl rfl) (memberRead_serving m q _)
  unfold reconstruct
  split
  · dsimp only
    refine .after (.foldl (hread _) _ _) (.after (setNeed_serving ..) (.after (tally_serving ..) ?_))
    exact .after (.ite (.refl _) (tally_serving ..)) (.of_same rfl rfl)
  · exact .refl s

theorem aroundRead_serving (d : Nat) (r : ReadReq) (s : State) : Serving s (aroundRead d r s) := by
  have hrec : ∀ pl, Serving s (reconstruct r pl s) := fun pl => reconstruct_serving r pl s
  have hsuspend : Serving s (suspendFor d r s) := suspendFor_serving d r s
  unfold aroundRead
  split
  · dsimp only
    refine .ite (.refl s) (.ite (memberRead_serving ..) (.ite (.ite (hrec _) (.refl s)) (.ite (.refl s) ?_)))
    exact .ite (.ite (hrec _) (.ite (.refl s) (modTask_serving ..))) (.ite (hrec _) hsuspend)
  · exact .refl s

theorem readAround_serving (d : Nat) (s : State) : Serving s (readAround d s) := by
  unfold readAround
  split
  · exact .refl s
  · exact .foldl (fun u r => .ite (.after (aroundRead_serving ..) (modTask_serving ..)) (.refl u)) _ _

/-- The poison mark of a block seals its own HWT, whose record is no descriptor's (R205, R265). -/
theorem sealHwt_serving {client : Nat} (h : client ≠ 0) (entries : Nat) (lines : List Nat) (s : State) :
    Serving s (sealHwt client entries lines s) := by
  have hcheckpoint : ∀ v, Serving v (checkpoint v) := fun v => by
    refine .of_journal rfl rfl (fun q hq => .inl ?_) fun _ hl => hl
    rw [List.mem_append] at hq ⊢
    exact hq.imp_left List.mem_of_mem_filter
  have hlock : ∀ v, Serving v (lockLines lines v) := fun v =>
    .ite (.refl v) (.of_journal rfl rfl (fun _ hq => .inl hq) fun _ hl => List.mem_append_left _ hl)
  unfold sealHwt
  dsimp only
  refine .trans (.after (hlock _) ?_) (.ite ((hcheckpoint _).trans (hcheckpoint _)) (.refl _))
  refine .of_journal rfl rfl (fun q hq => ?_) fun _ hl => hl
  simp only [List.mem_append, List.mem_singleton] at hq
  rcases hq with (hstaged | rfl) | hprogrammed
  · exact .inl (List.mem_append_left _ hstaged)
  · exact .inr h
  · exact .inl (List.mem_append_right _ hprogrammed)

theorem modStored_serving (b : BlkKey) (f : Stored → Stored) (s : State) : Serving s (modStored b f s) :=
  .of_modInst (fun x => .of_slots (by rw [apply_ite Inst.slots, ite_self])) s

theorem poisonBlock_serving (b : BlkKey) (die : Nat) (s : State) : Serving s (poisonBlock b die s) := by
  unfold poisonBlock
  refine .ite (.of_journal rfl rfl (fun _ hq => .inl hq) fun _ hl => hl) ?_
  have hsealed : Serving s (sealHwt 1 1 [keyLine b] (modStored b (fun st => { st with harm := .lost }) s)) :=
    (modStored_serving ..).trans (sealHwt_serving Nat.one_ne_zero ..)
  refine .after (.of_recorded (event_recorded ..)) (.after (tally_serving ..) (.after (tally_serving ..) ?_))
  exact hsealed.trans (.of_same rfl rfl)

/-- A block of a task that is lost fails it (R133, R249). -/
theorem readLost_serving {r : ReadReq} (htask : r.job = none) (s : State) : Serving s (readLost r s) := by
  unfold readLost
  rw [htask]
  have hdropped : ∀ v, Serving v (dropReads r v) := fun v => .of_same rfl rfl
  refine .after (blockFailed_serving ..) (.after (hdropped _) (.after (tally_serving ..) ?_))
  split
  · split
    · exact poisonBlock_serving ..
    · exact .refl s
  · exact .refl s

theorem directRead_serving {r : ReadReq} (htask : r.job = none) (pl : Nat × Nat) (s : State) :
    Serving s (directRead r pl s) := by
  have hset : ∀ (q : ReadReq) d v, Serving v (setDirect q d v) := fun q d v => by
    unfold setDirect
    split
    · exact .refl v
    · exact modTask_serving ..
  unfold directRead
  split
  · exact readLost_serving htask s
  next d _ =>
    dsimp only
    refine .after (readAround_serving ..) ?_
    generalize { r with recon := false, plane := planeOf s pl } = q
    have hqueued : Serving s (setDirect q d (enqueue d q s)) := .after (hset ..) (.of_same rfl rfl)
    exact .ite hqueued (hqueued.trans (modTask_serving ..))

theorem queueRead_serving (i slot b : Nat) (t : Task) (pl : Nat × Nat) (s : State) :
    Serving s (queueRead i slot b t pl s) :=
  .ite (directRead_serving rfl ..) (.ite (reconstruct_serving ..) (readLost_serving rfl _))

/-! ### The lookup of a READ (R175) -/

theorem takeEntry_serving (i slot b half : Nat) (e : Nat × Nat) (s : State) : Serving s (takeEntry i slot b half e s) := by
  have href := Serving.of_accounted (refTwin_accounted e s)
  exact .ite (href.trans (modBlock_serving ..)) ((href.trans (modBlock_serving ..)).trans (giveBuf_serving ..))

theorem serveTwin_serving (i slot b half : Nat) (harm : Option Harm) (e : Nat × Nat) (s : State) :
    Serving s (serveTwin i slot b half harm e s) := by
  have hfailed : ∀ field how, Serving s (blockFailed i slot b how (tally i 0x0006 field 1 s)) := fun _ _ =>
    .after (blockFailed_serving ..) (tally_serving ..)
  unfold serveTwin
  split
  · exact .ite (hfailed ..) (hfailed ..)
  · exact .after (giveBuf_serving ..) (.ite (.refl s) (.of_recorded (event_recorded ..)))

theorem lookBlock_serving (i slot : Nat) (t : Task) (s : State) (b : Nat) : Serving s (lookBlock i slot t s b) := by
  unfold lookBlock
  dsimp only
  split
  · exact .refl s
  · split
    · exact (giveBuf_serving ..).trans (blockReady_serving ..)
    · split
      · exact queueRead_serving ..
      · exact .refl s
    · split
      · exact .refl s
      · refine .ite (serveTwin_serving ..) (.ite ((takeEntry_serving ..).trans (serveTwin_serving ..)) ?_)
        split
        · exact (modBlock_serving ..).trans (queueRead_serving ..)
        · exact .refl s
    · exact .refl s

theorem lookupRead_serving (i slot : Nat) (s : State) : Serving s (lookupRead i slot s) := by
  unfold lookupRead
  split
  · exact .refl s
  · refine .ite (.of_journal rfl rfl (fun _ hq => .inl hq) fun _ hl => hl) ?_
    unfold startRead
    split
    · exact .refl s
    · exact .trans ((modTask_serving ..).trans (finishRead_serving ..)) (.foldl (lookBlock_serving i slot _) _ _)

/-- A read or report that no commit holds any more goes on (R190). -/
theorem beginHeld_serving (i slot : Nat) (s : State) : Serving s (beginHeld i slot s) := by
  have hqueue : ∀ v, Serving v (queueDue i slot v) := fun v => by
    unfold queueDue
    split
    · exact .refl v
    · exact .of_same rfl rfl
  unfold beginHeld
  split
  · exact .refl s
  · exact .ite (.refl s) (.trans (modTask_serving ..) (.ite (lookupRead_serving ..) (hqueue _)))

theorem beginHelds_serving (tasks : List (Nat × Nat)) (s : State) :
    Serving s (tasks.foldl (fun s p => beginHeld p.1 p.2 s) s) :=
  .foldl (fun u p => beginHeld_serving p.1 p.2 u) tasks s

end Sys2Proof.Proofs
end

section
/-! SUPPORT. The journal's pages (R196), the descriptor that is freed (R183), and the apply of a programmed commit
(R190, R202, R203). -/

namespace Sys2Proof.Proofs

open Sys2Proof Sys2Proof.Machine Sys2Proof.Laws Sys2Proof.Safety

variable {s t u : State} {i j slot n : Nat} {x y : Inst} {k : Task} {d : Desc}

/-! ### Journal pages (R196) -/

/-- What the end of a page and the begin of the next change between two states: where records stand, the pages and what waits
for one, and what `Accounted` names. -/
def PageWritten (s t : State) : Prop :=
  t = { s with
    jrn := { s.jrn with staging := t.jrn.staging, slc := t.jrn.slc, group := t.jrn.group, rides := t.jrn.rides
                        pages := t.jrn.pages }
    bpm := t.bpm, mch := t.mch, obs := t.obs, tal := t.tal, fcl := t.fcl }

theorem PageWritten.trans (h : PageWritten s t) (k : PageWritten t u) : PageWritten s u := by
  unfold PageWritten at h k ⊢
  rw [h] at k
  exact k

theorem PageWritten.of_accounted (h : Accounted s t) : PageWritten s t := by
  unfold Accounted at h
  unfold PageWritten
  rw [h]

/-- A field of the state, by what the end of a page may change. -/
theorem proj_of_pageWritten {β : Type} (f : State → β) (h : PageWritten s t) : f t = f { s with
    jrn := { s.jrn with staging := t.jrn.staging, slc := t.jrn.slc, group := t.jrn.group, rides := t.jrn.rides
                        pages := t.jrn.pages }
    bpm := t.bpm, mch := t.mch, obs := t.obs, tal := t.tal, fcl := t.fcl } := congrArg f h

theorem kickPage_written (s : State) : PageWritten s (kickPage s) := by
  have htake := takePage_accounted s
  unfold kickPage
  split
  · rfl
  · split
    · rfl
    · dsimp only
      generalize takePage s = r at htake ⊢
      obtain ⟨bufs, v⟩ := r
      exact (PageWritten.of_accounted htake).trans rfl

/-- A page that holds one group is programmed: the group takes effect (R196). -/
theorem pageDone_single {page : JPage} {rest : List JPage} (hpages : s.jrn.pages = page :: rest)
    (hdescs : page.descs = [n]) : ∃ v, PageWritten s v ∧ pageDone s = groupDone n v := by
  have hprogrammed : PageWritten s (programPage page { s with jrn := { s.jrn with pages := rest } }) := rfl
  refine ⟨_, (hprogrammed.trans (.of_accounted (.of_released (freeBufs_released 4 page.bufs _)))).trans
    (kickPage_written _), ?_⟩
  unfold pageDone
  rw [hpages]
  dsimp only
  rw [hdescs]
  rfl

theorem pageDone_idle (h : s.jrn.pages = []) : pageDone s = s := by
  unfold pageDone
  rw [h]

theorem groupDone_abort (hd : amGet? s.jrn.descs n = some d) (hstate : d.state ≠ .committing) :
    groupDone n s = freeDescriptor n s := by
  simp [groupDone, hd, hstate]

theorem groupDone_commit (hd : amGet? s.jrn.descs n = some d) (hstate : d.state = .committing) :
    groupDone n s = applyCommit n s := by
  simp [groupDone, hd, hstate]

/-! ### The descriptor that is freed (R183) -/

/-- What the freeing of a descriptor leaves behind. -/
structure Freed (n : Nat) (s t : State) : Prop where
  desc : amGet? t.jrn.descs n = none
  records : ∀ q ∈ t.jrn.staging ++ t.jrn.slc, ofDesc n q = false
  pages : ∀ p ∈ t.jrn.pages, n ∉ p.descs
  locks : t.jrn.locks = s.jrn.locks
  quartz : t.quartz = s.quartz
  med : t.med = s.med
  wire : t.wire = s.wire
  held : ∀ i slot k, heldTask s i slot = some k → ∃ bs, heldTask t i slot = some { k with blocks := bs }

theorem freeDescriptor_freed (n : Nat) (s : State) : Freed n s (freeDescriptor n s) := by
  obtain ⟨hframe, hheld⟩ := dropUndo_reblocked n (unstage n s)
  have hjrn : (dropUndo n (unstage n s)).jrn = (unstage n s).jrn := (congrArg State.jrn hframe :)
  have hquartz : (dropUndo n (unstage n s)).quartz = s.quartz := (congrArg State.quartz hframe :)
  have hmed : (dropUndo n (unstage n s)).med = s.med := (congrArg State.med hframe :)
  have hwire : (dropUndo n (unstage n s)).wire = s.wire := (congrArg State.wire hframe :)
  unfold freeDescriptor
  generalize dropUndo n (unstage n s) = v at hjrn hquartz hmed hwire hheld ⊢
  refine ⟨amGet?_amErase_self .., fun q hq => ?_, fun p hp => ?_, (congrArg Journal.locks hjrn :), hquartz, hmed, hwire,
    hheld⟩
  · dsimp only at hq
    rw [hjrn] at hq
    simp only [unstage, List.mem_append, List.mem_filter, Bool.not_eq_true'] at hq
    exact hq.elim And.right And.right
  · obtain ⟨p, -, rfl⟩ := List.mem_map.mp hp
    simp

/-- A descriptor without a commit to undo changes no `Inst` as it is freed. -/
theorem insts_freeDescriptor (hd : amGet? s.jrn.descs n = some d) (hundo : d.undo = []) :
    (freeDescriptor n s).insts = s.insts := by
  have hkept : amGet? (unstage n s).jrn.descs n = some d := hd
  unfold freeDescriptor dropUndo
  rw [hkept]
  dsimp only
  rw [hundo]
  rfl

/-! ### What a commit held (R190) -/

theorem amGet?_map {α β : Type} (f : α → β) (m : List (Nat × α)) (a : Nat) :
    amGet? (m.map fun p => (p.1, f p.2)) a = (amGet? m a).map f := by
  induction m with
  | nil => rfl
  | cons p m ih =>
    by_cases h : p.1 = a
    · simp [amGet?, h]
    · simpa [amGet?, h] using ih

/-- A task that a descriptor holds no more. -/
def unheld (n : Nat) (t : Task) : Task := { t with holds := t.holds.filter (· != n) }

/-- A slot whose task a descriptor holds no more. -/
def unheldSlot (n : Nat) : Slot → Slot
  | .held t => .held (unheld n t)
  | .done c m r e => .done c m r e

/-- An `Inst` of which a descriptor holds no task any more. -/
def unheldInst (n : Nat) (x : Inst) : Inst := { x with slots := x.slots.map fun q => (q.1, unheldSlot n q.2) }

theorem inst?_dropHold (n : Nat) (s : State) (i : Nat) : inst? (dropHold n s) i = (inst? s i).map (unheldInst n) := by
  have hinsts : (dropHold n s).insts = s.insts.map fun p => (p.1, unheldInst n p.2) := by
    unfold dropHold
    refine List.map_congr_left fun p _ => Prod.ext rfl (congrArg (fun l => { p.2 with slots := l }) ?_)
    refine List.map_congr_left fun q _ => ?_
    obtain ⟨m, _ | _⟩ := q
    · rfl
    · rfl
  unfold inst?
  rw [hinsts, amGet?_map]

theorem heldTask_dropHold (hheld : heldTask s i slot = some k) (n : Nat) :
    heldTask (dropHold n s) i slot = some (unheld n k) := by
  obtain ⟨x, hx, hslot⟩ := inst_of_heldTask hheld
  have hfound : amGet? x.slots slot = some (.held k) := hslot
  refine heldTask_of_slot (x := unheldInst n x) (by rw [inst?_dropHold, hx]; rfl) ?_
  exact (amGet?_map (unheldSlot n) x.slots slot).trans (congrArg _ hfound)

/-! ### The apply of a commit (R196, R197, R202, R203) -/

/-- The seal of a programmed commit is the last one applied (R268). -/
def sealedTo (n : Nat) (s : State) : State :=
  let last := ((s.jrn.slc.find? fun r => ofDesc n r && r.rtype = 3).map (·.jseq)).getD s.jrn.sealed
  { s with jrn := { s.jrn with sealed := max s.jrn.sealed last } }

/-- The lines of a commit's zones are locked, and the cache sees the accesses to them. -/
def lockedApply (n : Nat) (d : Desc) (s : State) : State :=
  (txnLines d).foldl (fun s l => mapAccess 1 l s) (lockLines (txnLines d) (sealedTo n s))

theorem lockedApply_accounted (n : Nat) (d : Desc) (s : State) :
    Accounted (lockLines (txnLines d) (sealedTo n s)) (lockedApply n d s) := mapAccesses_accounted ..

theorem heldTask_lockedApply (hheld : heldTask s i slot = some k) (n : Nat) (d : Desc) :
    heldTask (lockedApply n d s) i slot = some k := by
  refine (heldTask_of_accounted (lockedApply_accounted n d s) i slot).trans ((heldTask_congr ?_ _).trans hheld)
  unfold lockLines
  split <;> rfl

theorem quartz_lockedApply (n : Nat) (d : Desc) (s : State) : (lockedApply n d s).quartz = s.quartz := by
  refine (proj_of_accounted State.quartz (lockedApply_accounted n d s) :).trans ?_
  unfold lockLines
  split <;> rfl

theorem mem_locks_lockedApply (hlines : txnLines d ≠ []) (n : Nat) (s : State) :
    txnLines d ∈ (lockedApply n d s).jrn.locks := by
  rw [(proj_of_accounted (fun u => u.jrn.locks) (lockedApply_accounted n d s) :), lockLines,
    if_neg (by simpa using hlines)]
  simp

theorem applyCommit_free (hd : amGet? s.jrn.descs n = some d) (hfree : (txnLines d).any (hwtLocked s) = false)
    (hheld : heldTask s d.inst d.slot = some k) (hmine : k.desc = some n) : applyCommit n s =
      (heldBy s n).foldl (fun s p => beginHeld p.1 p.2 s) (completeTask d.inst d.slot stOk k.result false
        (freeDescriptor n (dropHold n (lockedApply n d s)))) := by
  have hopened : applyCommit n s = (heldBy s n).foldl (fun s p => beginHeld p.1 p.2 s)
      (if (heldTask (lockedApply n d s) d.inst d.slot).any (fun t => t.desc = some n) then
        completeTask d.inst d.slot stOk (((heldTask (lockedApply n d s) d.inst d.slot).map (·.result)).getD 0) false
          (freeDescriptor n (dropHold n (lockedApply n d s)))
      else freeDescriptor n (dropHold n (lockedApply n d s))) := by
    unfold applyCommit
    rw [hd]
    exact if_neg (by simp [hfree])
  rw [hopened, heldTask_lockedApply hheld n d, if_pos (by simp [hmine])]
  rfl

theorem applyCommit_waits (hd : amGet? s.jrn.descs n = some d) (hlocked : (txnLines d).any (hwtLocked s) = true)
    (hnew : n ∉ s.jrn.waitingApply) :
    applyCommit n s = { s with jrn := { s.jrn with waitingApply := s.jrn.waitingApply ++ [n] } } := by
  simp only [applyCommit, hd, hlocked]
  simp [hnew]

/-- An applied commit: its descriptor is free with its records, its lines are locked, and its task is DONE with what it
counted at its acceptance. -/
theorem applyCommit_completes (hd : amGet? s.jrn.descs n = some d) (hfree : (txnLines d).any (hwtLocked s) = false)
    (hheld : heldTask s d.inst d.slot = some k) (hmine : k.desc = some n) : ∃ y c m r e,
      amGet? (applyCommit n s).jrn.descs n = none ∧
      (∀ q ∈ (applyCommit n s).jrn.staging ++ (applyCommit n s).jrn.slc, ofDesc n q = false) ∧
      (txnLines d ≠ [] → txnLines d ∈ (applyCommit n s).jrn.locks) ∧ inst? (applyCommit n s) d.inst = some y ∧
      slotOf y d.slot = some (.done c m r e) ∧ c.op = k.op ∧ c.taskSeq = k.seq ∧
      c.status = (if isLate s k = true then stLate else stOk) ∧ c.result = k.result := by
  have hfreed := freeDescriptor_freed n (dropHold n (lockedApply n d s))
  rw [applyCommit_free hd hfree hheld hmine]
  generalize freeDescriptor n (dropHold n (lockedApply n d s)) = v at hfreed ⊢
  obtain ⟨bs, hkept⟩ := hfreed.held _ _ _ (heldTask_dropHold (heldTask_lockedApply hheld n d) n)
  obtain ⟨x, hx, hslot⟩ := inst_of_heldTask hkept
  obtain ⟨y, m, r, e, hy, hdone, -, -⟩ := keyTask_completed hx hslot stOk k.result
  obtain ⟨hstatus, hresult⟩ := completionOf_ok (hfreed.quartz.trans (quartz_lockedApply n d s))
    { unheld n k with blocks := bs } k.result
  have hbegun := beginHelds_serving (heldBy s n) (completeTask d.inst d.slot stOk k.result false v)
  have hserving := (completeTask_serving d.inst d.slot stOk k.result false v).trans hbegun
  obtain ⟨z, hz, hstays⟩ := hbegun.done _ y hy
  refine ⟨z, _, m, r, e, hserving.descs ▸ hfreed.desc, hserving.records n hfreed.records,
    fun hlines => hserving.locks _ ?_, hz, hstays _ _ _ _ _ hdone, rfl, rfl, hstatus, hresult⟩
  rw [hfreed.locks]
  exact mem_locks_lockedApply hlines n s

/-! ### The unlock of an HWT (R202, R203) -/

theorem hwtRelease_alone (line : Nat) (hmaint : s.mch.waiting = []) (happly : s.jrn.waitingApply = [])
    (hupdate : s.jrn.waitingHwt = []) (hmark : s.jrn.waitingPoison = []) (hread : s.jrn.waitingReads = [])
    (hswitch : ¬(s.slt.state = 4 ∧ s.slt.step = 7)) : hwtRelease line s =
      { s with jrn := { s.jrn with locks := s.jrn.locks.filter fun l => !l.contains line } } := by
  have hrelease : lockRelease line s =
      { s with jrn := { s.jrn with locks := s.jrn.locks.filter fun l => !l.contains line } } := by
    have hcache : { s.mch with waiting := [] } = s.mch := by rw [← hmaint]
    simp [lockRelease, retryReads, hmaint, happly, hupdate, hmark, hread, hcache]
  unfold hwtRelease
  rw [hrelease]
  exact if_neg (by simpa [applying] using hswitch)

end Sys2Proof.Proofs
end

section
/-! The statement of 07_transactions on the journal's pages: what a programmed page does to its group, and what the unlock
of an HWT does. -/

namespace Sys2Proof.Proofs

open Sys2Proof Sys2Proof.Machine Sys2Proof.Laws Sys2Proof.Safety

/-- Settles O48: a page by `pageDone_single`; its abort by `freeDescriptor_freed`, its commit by `applyCommit_completes` or
`applyCommit_waits`; the unlock by `hwtRelease_alone`. -/
theorem journalPagesTakeEffectInOrder : Obligations.JournalPagesTakeEffectInOrder := by
  unfold Obligations.JournalPagesTakeEffectInOrder
  intro s line
  refine ⟨fun hpages => settled_congr (pageDone_idle hpages), fun page rest n d hpages hdescs hd => ?_, fun n d hd => ?_,
    fun hmaint happly hupdate hmark hread hswitch =>
      settled_congr (hwtRelease_alone line.toNat hmaint happly hupdate hmark hread hswitch)⟩
  · obtain ⟨v, hv, hdone⟩ := pageDone_single hpages hdescs
    have hdv : amGet? v.jrn.descs n = some d := (proj_of_pageWritten (fun u => amGet? u.jrn.descs n) hv :).trans hd
    refine ⟨fun habort => ?_, fun t hcommit hfree hheld hmine => ?_⟩
    · have hfreed := freeDescriptor_freed n v
      exact ⟨_, settled_congr (hdone.trans (groupDone_abort hdv habort)), hfreed.desc, hfreed.records, hfreed.pages,
        hfreed.med.trans (proj_of_pageWritten State.med hv :), hfreed.wire.trans (proj_of_pageWritten State.wire hv :)⟩
    · have hlocks : hwtLocked v = hwtLocked s := (proj_of_pageWritten hwtLocked hv :)
      have htask : heldTask v d.inst d.slot = some t :=
        (proj_of_pageWritten (fun u => heldTask u d.inst d.slot) hv :).trans hheld
      have hlate : isLate v t = isLate s t := (proj_of_pageWritten (fun u => isLate u t) hv :)
      obtain ⟨y, c, m, r, e, hcompleted⟩ := applyCommit_completes hdv (hlocks ▸ hfree) htask hmine
      rw [hlate] at hcompleted
      exact ⟨_, y, c, m, r, e, settled_congr (hdone.trans (groupDone_commit hdv hcommit)), hcompleted⟩
  · refine ⟨fun habort hundo => ?_, fun hcommit hlocked hnew => ?_⟩
    · rw [groupDone_abort hd habort]
      exact insts_freeDescriptor hd hundo
    · rw [groupDone_commit hd hcommit]
      exact applyCommit_waits hd hlocked hnew

end Sys2Proof.Proofs
end

section
/-! SUPPORT. Admission tokens (R212–R216): what a task costs by its opcode, and the account of a bucket through each operation
on it. -/

namespace Sys2Proof.Proofs

open Sys2Proof Sys2Proof.Machine Sys2Proof.Laws Sys2Proof.Safety

/-! ### The cost of a task (Table LT-2) -/

/-- Inverting a bit outside a field leaves the field. -/
theorem bits_xor_two_pow (x : Nat) {k lo w : Nat} (h : k < lo ∨ lo + w ≤ k) : bits (x ^^^ 2 ^ k) lo w = bits x lo w := by
  refine Nat.eq_of_testBit_eq fun j => ?_
  simp only [bits, Nat.testBit_mod_two_pow, Nat.testBit_shiftRight, Nat.testBit_xor, Nat.testBit_two_pow]
  by_cases hj : j < w
  · have hother : k ≠ lo + j := by omega
    simp [hother]
  · simp [hj]

theorem toNat_ofNat_two_pow {w k : Nat} (h : k < w) : (BitVec.ofNat w (2 ^ k)).toNat = 2 ^ k :=
  Nat.mod_eq_of_lt (Nat.pow_lt_pow_right Nat.one_lt_two h)

theorem recField_xor_two_pow (r : BitVec 512) {k off size : Nat} (hk : k < 512)
    (h : k < 8 * off ∨ 8 * off + 8 * size ≤ k) :
    recField (r ^^^ BitVec.ofNat 512 (2 ^ k)) off size = recField r off size := by
  rw [recField, BitVec.toNat_xor, toNat_ofNat_two_pow hk, bits_xor_two_pow _ h, recField]

variable {r : BitVec 512}

theorem taskCost_blocks (h : recOp r = 0x01 ∨ recOp r = 0x02 ∨ recOp r = 0x03 ∨ recOp r = 0x08) :
    taskCost r = (1, 4096 * recNblk r) := by
  rcases h with h | h | h | h <;> simp [taskCost, h, Nat.mul_comm]

theorem taskCost_span (h : recOp r = 0x0F) : taskCost r = (1, 4096 * recField r 0x0C 2) := by
  simp [taskCost, h, Nat.mul_comm]

theorem taskCost_oneBlock
    (h : recOp r = 0x0E ∨ recOp r = 0x10 ∨ recOp r = 0x11 ∨ recOp r = 0x12 ∨ recOp r = 0x14) : taskCost r = (1, 4096) := by
  rcases h with h | h | h | h | h <;> simp [taskCost, h]

theorem taskCost_free (h : recOp r = 0x0B ∨ recOp r = 0x0C) : taskCost r = (0, 0) := by
  rcases h with h | h <;> simp [taskCost, h]

theorem taskCost_noData (h : recOp r = 0x04 ∨ recOp r = 0x05 ∨ recOp r = 0x06 ∨ recOp r = 0x07 ∨ recOp r = 0x09 ∨
    recOp r = 0x0A ∨ recOp r = 0x0D ∨ recOp r = 0x13) : taskCost r = (1, 0) := by
  rcases h with h | h | h | h | h | h | h | h <;> simp [taskCost, h]

/-- The cost is read from OPCODE and the two counts, none of which holds META, bit 9 of the record (R212). -/
theorem taskCost_xor_meta (r : BitVec 512) : taskCost (r ^^^ BitVec.ofNat 512 (2 ^ 9)) = taskCost r := by
  have hop : recOp (r ^^^ BitVec.ofNat 512 (2 ^ 9)) = recOp r := recField_xor_two_pow r (by omega) (by omega)
  have hnblk : recNblk (r ^^^ BitVec.ofNat 512 (2 ^ 9)) = recNblk r := recField_xor_two_pow r (by omega) (by omega)
  have hspan : recField (r ^^^ BitVec.ofNat 512 (2 ^ 9)) 0x0C 2 = recField r 0x0C 2 :=
    recField_xor_two_pow r (by omega) (by omega)
  simp only [taskCost, hop, hnblk, hspan]

/-- Row 12 has nothing to wait for where the task costs nothing (R212, R215). -/
theorem tokensShort_free (h : taskCost r = (0, 0)) (s : State) (x : Inst) : tokensShort s x r = 0 := by
  simp [tokensShort, h]

/-! ### The account of a bucket (R214) -/

variable {b : Bucket} {n : Nat}

theorem bucketEq_reserve (h : bucketEq b) (hn : n ≤ b.level) : bucketEq (reserve n b) := by
  simp only [bucketEq, reserve] at h ⊢
  omega

theorem bucketEq_consume (h : bucketEq b) (hn : n ≤ b.reserved) : bucketEq (consume n b) := by
  simp only [bucketEq, consume] at h ⊢
  omega

/-- What does not fit under the depth on its way back is spilled, so that the whole reservation is accounted for. -/
theorem bucketEq_unreserve (d : Nat) (h : bucketEq b) (hn : n ≤ b.reserved) : bucketEq (unreserve d n b) := by
  simp only [bucketEq, unreserve] at h ⊢
  omega

theorem level_unreserve_le (d n : Nat) (b : Bucket) : (unreserve d n b).level ≤ max b.level d := by
  simp only [unreserve]
  omega

theorem bucketEq_clipBucket (d : Nat) (h : bucketEq b) : bucketEq (clipBucket d b) := by
  simp only [bucketEq, clipBucket] at h ⊢
  omega

theorem level_clipBucket_le (d : Nat) (b : Bucket) : (clipBucket d b).level ≤ d := Nat.min_le_right ..

/-- A credit is split between the level and what spills over the depth (R213). -/
theorem bucketEq_credit (rate pct depth now : Nat) (h : bucketEq b) : bucketEq (credit rate pct depth now b) := by
  simp only [bucketEq, credit] at h ⊢
  omega

end Sys2Proof.Proofs
end

section
/-! SUPPORT. The forced derate step (R233): what a change of the step leaves of what asks for it, and the write itself. -/

namespace Sys2Proof.Proofs

open Sys2Proof Sys2Proof.Machine Sys2Proof.Laws Sys2Proof.Safety

variable {s : State} {v : U32}

@[simp] theorem setDerate_force (s : State) : (setDerate s).qtz.force = s.qtz.force :=
  (setDerate_shape s).elim fun _ h => (proj_of_transported (fun u => u.qtz.force) h :)

@[simp] theorem setDerate_pwr (s : State) : (setDerate s).pwr = s.pwr :=
  (setDerate_shape s).elim fun _ h => (proj_of_transported State.pwr h :)

theorem force_le_wantedStep (s : State) : s.qtz.force ≤ wantedStep s := by
  simp only [wantedStep, le_max_iff, le_refl, or_true, true_or]

theorem thermal_le_wantedStep (s : State) : s.qtz.thermal ≤ wantedStep s := by
  simp only [wantedStep, le_max_iff, le_refl, true_or]

theorem exec_derateForce_refused (h : 4 < bits v.toNat 6 3) :
    exec (.derateForce v) s = .next (regRefused 0x00E00008 v.toNat s) := by
  simp only [exec, execDerateForce, qtzDerate, if_pos h]

theorem exec_derateForce_taken (h : bits v.toNat 6 3 ≤ 4) :
    exec (.derateForce v) s = .next (setDerate { s with qtz := { s.qtz with force := bits v.toNat 6 3 } }) := by
  simp only [exec, execDerateForce, qtzDerate, if_neg (Nat.not_lt.mpr h)]

end Sys2Proof.Proofs
end

section
/-! The statements of 08_latency: task costs, token buckets and the forced derate step. -/

namespace Sys2Proof.Proofs

open Sys2Proof Sys2Proof.Machine Sys2Proof.Laws Sys2Proof.Safety

/-- Settles O39: one lemma per row of Table LT-2; META lies outside the fields that the cost reads (`taskCost_xor_meta`), and
a task of no cost is covered by any buckets (`tokensShort_free`). -/
theorem taskCostsFollowTheTable : Obligations.TaskCostsFollowTheTable := by
  unfold Obligations.TaskCostsFollowTheTable
  exact fun r => ⟨taskCost_blocks, taskCost_span, taskCost_oneBlock, taskCost_free, taskCost_noData, taskCost_xor_meta r,
    tokensShort_free⟩

/-- Settles O41: the account is kept by each operation on a bucket, and by the credit of both buckets of an instance
(`bucketEq_credit`). -/
theorem tokenBucketsBalance : Obligations.TokenBucketsBalance := by
  unfold Obligations.TokenBucketsBalance
  exact fun b n d h => ⟨bucketEq_reserve h, bucketEq_consume h,
    fun hn => ⟨bucketEq_unreserve d h hn, level_unreserve_le d n b⟩, bucketEq_clipBucket d h, level_clipBucket_le d b,
    fun _ _ hbw hops => ⟨bucketEq_credit _ _ _ _ hbw, bucketEq_credit _ _ _ _ hops⟩⟩

/-- Settles O24: a write that is taken sets FORCE and then the step wanted (`step_setDerate`), which is at least the forced
and the thermal one. -/
theorem forcedDerateTakesEffectAtOnce : Obligations.ForcedDerateTakesEffectAtOnce := by
  unfold Obligations.ForcedDerateTakesEffectAtOnce
  refine fun v s => ⟨exec_derateForce_refused, fun h => ⟨_, exec_derateForce_taken h, setDerate_force _,
    (step_setDerate _).trans (wantedStep_setDerate _).symm, ?_, ?_, setDerate_thermal _, setDerate_pwr _, setDerate_med _⟩⟩
  · rw [setDerate_force, step_setDerate]
    exact force_le_wantedStep _
  · rw [setDerate_thermal, step_setDerate]
    exact thermal_le_wantedStep _

end Sys2Proof.Proofs
end

section
/-! SUPPORT. What the reads of a lost die leave as they are when they begin again (R249, R258): the NAND channels, and the
faults that wait for the collector. -/

namespace Sys2Proof.Proofs

open Sys2Proof Sys2Proof.Machine Sys2Proof.Laws Sys2Proof.Safety

variable {s t u : State}

/-! ### The relation -/

/-- The NAND channels are as they were, and every fault of the capture window is still in it. -/
structure ChannelsKept (s t : State) : Prop where
  nfc : t.nfc = s.nfc
  window : s.fcl.window ⊆ t.fcl.window

theorem ChannelsKept.trans (h : ChannelsKept s t) (k : ChannelsKept t u) : ChannelsKept s u :=
  ⟨k.nfc.trans h.nfc, fun _ hf => k.window (h.window hf)⟩

theorem ChannelsKept.after (k : ChannelsKept t u) (h : ChannelsKept s t) : ChannelsKept s u := h.trans k

/-- A change beside the channels and the capture window. -/
theorem ChannelsKept.of_same (hnfc : t.nfc = s.nfc) (hwindow : t.fcl.window = s.fcl.window) : ChannelsKept s t :=
  ⟨hnfc, fun _ hf => hwindow.symm ▸ hf⟩

theorem ChannelsKept.refl (s : State) : ChannelsKept s s := .of_same rfl rfl

theorem ChannelsKept.ite {p : Prop} [Decidable p] (h : ChannelsKept s t) (k : ChannelsKept s u) :
    ChannelsKept s (if p then t else u) := by
  split
  · exact h
  · exact k

theorem ChannelsKept.foldl {α : Type} {f : State → α → State} (h : ∀ u a, ChannelsKept u (f u a)) (l : List α)
    (s : State) : ChannelsKept s (l.foldl f s) :=
  List.foldlRecOn _ _ (motive := ChannelsKept s) (.refl s) fun u hu a _ => hu.trans (h u a)

theorem ChannelsKept.of_transported (h : Transported s t) : ChannelsKept s t :=
  .of_same (proj_of_transported State.nfc h :) (proj_of_transported (fun u => u.fcl.window) h :)

theorem ChannelsKept.of_recorded (h : Recorded s t) : ChannelsKept s t :=
  .of_transported (Recorded.transported h)

theorem tally_channels (target group field n : Nat) (s : State) : ChannelsKept s (tally target group field n s) :=
  .of_recorded (tally_recorded ..)

/-- A fault joins the capture window (R374). -/
theorem raise_channels (part : Nat) (f : Fault') (s : State) : ChannelsKept s (raise part f s) :=
  ⟨rfl, fun _ hf => List.mem_append_left _ hf⟩

/-! ### Tasks and their answers -/

theorem decRef_channels (p b port : Nat) (s : State) : ChannelsKept s (decRef p b port s) := by
  unfold decRef
  split
  · exact raise_channels ..
  · exact .ite (.of_same rfl rfl) (.of_same rfl rfl)

theorem letGo_channels (b : ReadBlock) (s : State) : ChannelsKept s (letGo b s) := by
  have htwin : ChannelsKept s (match b.twin with
      | some e => if b.ref then freeTwin e s else s
      | none => s) := by
    split
    · exact .ite ((decRef_channels ..).trans (decRef_channels ..)) (.refl s)
    · exact .refl s
  exact htwin.trans (.foldl (fun u (c : Nat × Nat) => decRef_channels c.1 c.2 1 u) _ _)

theorem modTask_channels (i slot : Nat) (f : Task → Task) (s : State) : ChannelsKept s (modTask i slot f s) := by
  unfold modTask
  split
  · exact .refl s
  · exact .of_same rfl rfl

theorem notify_channels (i ev a0 a1 a2 : Nat) (s : State) : ChannelsKept s (notify i ev a0 a1 a2 s) :=
  .of_transported (notify_transported ..)

theorem escalate_channels (i : Nat) (s : State) : ChannelsKept s (escalate i s) := by
  unfold escalate
  split
  · exact .refl s
  · refine .ite (.after (notify_channels ..) (.after (tally_channels ..) (.after (raise_channels ..) ?_))) (.refl s)
    exact .of_same rfl rfl

theorem missRestart_channels (i : Nat) (s : State) : ChannelsKept s (missRestart i s) :=
  .after (tally_channels ..) (.after (tally_channels ..) (.of_same rfl rfl))

theorem missLate_channels (i slot : Nat) (k : Task) (s : State) : ChannelsKept s (missLate i slot k s) := by
  unfold missLate
  dsimp only
  have htallied : ChannelsKept s (tally noInst 0x0101 0 1 (tally i 0x0004 (20 + namedCause
      (tally i 0x0004 (k.op - 1) 1 s).quartz k - 1) 1 (tally i 0x0004 (k.op - 1) 1 s))) :=
    .after (tally_channels ..) (.after (tally_channels ..) (tally_channels ..))
  generalize tally noInst 0x0101 0 1 _ = u at htallied ⊢
  refine .after (escalate_channels ..) (.trans (.after (.of_recorded (eventAt_recorded ..)) ?_) (.of_same rfl rfl))
  exact htallied.trans (.ite (.after (.of_recorded (notice_recorded ..)) (.of_same rfl rfl)) (.of_same rfl rfl))

theorem missTask_channels (i slot : Nat) (k : Task) (s : State) : ChannelsKept s (missTask i slot k s) :=
  .ite (missRestart_channels ..) (missLate_channels ..)

theorem completionSent_channels (i slot : Nat) (k : Task) (c : Completion) (trl : Option Trailer) (late : Bool)
    (s : State) : ChannelsKept s (completionSent i slot k c trl late s) := by
  have hkind : ∀ v, ChannelsKept v (if k.op = 0x12 then tally i 0x0008 3 1 v else if k.op = 0x13 then tally i 0x0008 4 1 v
      else if k.op = 0x14 then tally i 0x0008 5 1 v else v) := fun v =>
    .ite (tally_channels ..) (.ite (tally_channels ..) (.ite (tally_channels ..) (.refl v)))
  have hmiss : ∀ v, ChannelsKept v (if late then missTask i slot k v else v) := fun v =>
    .ite (missTask_channels ..) (.refl v)
  unfold completionSent
  dsimp only
  refine .after (hmiss _) (.after (hkind _) (.after (tally_channels ..) (.after (tally_channels ..) ?_)))
  exact .trans (.of_transported (sendOwned_transported ..)) (.ite (.of_recorded (keccakMsg_recorded ..)) (.refl _))

theorem completeTask_channels (i slot st result : Nat) (dropped : Bool) (s : State) :
    ChannelsKept s (completeTask i slot st result dropped s) := by
  cases hheld : heldTask s i slot with
  | none =>
    unfold completeTask
    rw [hheld]
    exact .refl s
  | some k =>
    obtain ⟨x, hx, hslot⟩ := inst_of_heldTask hheld
    obtain ⟨trl, hcomplete⟩ := completeTask_eq hx hslot st result dropped
    rw [hcomplete]
    refine .after (completionSent_channels ..) (.after (.foldl (fun u b => letGo_channels b u) _ _) ?_)
    exact .of_same rfl rfl

theorem sendBlock_channels (i slot b : Nat) (last : Bool) (s : State) : ChannelsKept s (sendBlock i slot b last s) := by
  unfold sendBlock
  split
  · split
    · exact .refl s
    · exact (modTask_channels ..).trans (.of_transported (sendOwned_transported ..))
  · exact .refl s

theorem finishRead_channels (i slot : Nat) (s : State) : ChannelsKept s (finishRead i slot s) := by
  unfold finishRead
  split
  · exact .refl s
  next k _ =>
    have hlast : ChannelsKept s (match k.heldBack with
        | some b => sendBlock i slot b true s
        | none => s) := by
      split
      · exact sendBlock_channels ..
      · exact .refl s
    exact .ite ((hlast.trans (tally_channels ..)).trans (completeTask_channels ..)) (.refl s)

theorem blockFailed_channels (i slot b how : Nat) (s : State) : ChannelsKept s (blockFailed i slot b how s) := by
  have hdropped : ChannelsKept s (dropBlock i slot b s) := by
    unfold dropBlock
    split
    · exact .refl s
    · exact (modTask_channels ..).trans (letGo_channels ..)
  exact (hdropped.trans (modTask_channels ..)).trans (finishRead_channels ..)

/-! ### Programs and copies -/

theorem kickDie_channels (d : Nat) (s : State) : ChannelsKept s (kickDie d s) := by
  unfold kickDie
  repeat' split
  all_goals exact .of_same rfl rfl

theorem issueProg_channels (n : Nat) (s : State) : ChannelsKept s (issueProg n s) := by
  unfold issueProg
  split
  · exact .refl s
  · refine .foldl (fun u d => .after (kickDie_channels ..) ?_) _ _
    exact .of_same rfl rfl

theorem itemRead_channels (n ix : Nat) (s : State) : ChannelsKept s (itemRead n ix s) := by
  have hstart : ∀ v, ChannelsKept v (startCopy n v) := fun v => by
    unfold startCopy
    split
    · exact .refl v
    · split
      · exact .refl v
      · exact .after (issueProg_channels ..) (.of_same rfl rfl)
  unfold itemRead
  dsimp only
  exact .ite (.after (hstart _) (.of_same rfl rfl)) (.of_same rfl rfl)

/-! ### Blocks that are lost (R249, R265) -/

theorem sealHwt_channels (client entries : Nat) (lines : List Nat) (s : State) :
    ChannelsKept s (sealHwt client entries lines s) := by
  have hcheckpoint : ∀ v, ChannelsKept v (checkpoint v) := fun v => .of_same rfl rfl
  have hlock : ∀ v, ChannelsKept v (lockLines lines v) := fun v => .ite (.refl v) (.of_same rfl rfl)
  unfold sealHwt
  dsimp only
  refine .trans (.after (hlock _) ?_) (.ite ((hcheckpoint _).trans (hcheckpoint _)) (.refl _))
  exact .of_same rfl rfl

theorem poisonBlock_channels (b : BlkKey) (die : Nat) (s : State) : ChannelsKept s (poisonBlock b die s) := by
  unfold poisonBlock
  refine .ite (.of_same rfl rfl) ?_
  have hsealed : ChannelsKept s (sealHwt 1 1 [keyLine b] (modStored b (fun st => { st with harm := .lost }) s)) :=
    .after (sealHwt_channels ..) (.of_same rfl rfl)
  refine .after (.of_recorded (event_recorded ..)) (.after (tally_channels ..) (.after (tally_channels ..) ?_))
  exact hsealed.trans (.of_same rfl rfl)

theorem readLost_channels (r : ReadReq) (s : State) : ChannelsKept s (readLost r s) := by
  have hmarked : ChannelsKept s (match readPlace s r with
      | some pl => match keyAt s pl with
        | some k => poisonBlock k ((dieOfPlace s pl).getD 0) s
        | none => s
      | none => s) := by
    split
    · split
      · exact poisonBlock_channels ..
      · exact .refl s
    · exact .refl s
  have hdropped : ∀ v, ChannelsKept v (dropReads r v) := fun v => .of_same rfl rfl
  unfold readLost
  cases r.job with
  | some n => exact .after (itemRead_channels ..) (.after (hdropped _) hmarked)
  | none => exact .after (blockFailed_channels ..) (.after (hdropped _) (.after (tally_channels ..) hmarked))

/-! ### Reads at the dies (R226, R249) -/

theorem suspendFor_channels (d : Nat) (r : ReadReq) (s : State) : ChannelsKept s (suspendFor d r s) := by
  unfold suspendFor
  split
  · exact .refl s
  · exact .after (.ite (.refl _) (tally_channels ..)) (.after (tally_channels ..) (.of_same rfl rfl))

theorem memberRead_channels (d : Nat) (r : ReadReq) (s : State) : ChannelsKept s (memberRead d r s) := by
  unfold memberRead
  split
  · exact .refl s
  · exact .ite (suspendFor_channels ..) (.refl s)

theorem setNeed_channels (r : ReadReq) (die n : Nat) (s : State) : ChannelsKept s (setNeed r die n s) := by
  unfold setNeed
  split
  · exact .of_same rfl rfl
  · exact modTask_channels ..

theorem reconstruct_channels (r : ReadReq) (pl : Nat × Nat) (s : State) : ChannelsKept s (reconstruct r pl s) := by
  have hread : ∀ q u m, ChannelsKept u (memberRead m q (enqueue m q u)) := fun q u m =>
    .trans (t := enqueue m q u) (.of_same rfl rfl) (memberRead_channels m q _)
  unfold reconstruct
  split
  · refine .after (.foldl (hread _) _ _) (.after (setNeed_channels ..) (.after (tally_channels ..) ?_))
    exact .after (.ite (.refl _) (tally_channels ..)) (.of_same rfl rfl)
  · exact .refl s

theorem aroundRead_channels (d : Nat) (r : ReadReq) (s : State) : ChannelsKept s (aroundRead d r s) := by
  have hrec : ∀ pl, ChannelsKept s (reconstruct r pl s) := fun pl => reconstruct_channels r pl s
  have hsuspend : ChannelsKept s (suspendFor d r s) := suspendFor_channels d r s
  unfold aroundRead
  split
  · dsimp only
    refine .ite (.refl s) (.ite (memberRead_channels ..) (.ite (.ite (hrec _) (.refl s)) (.ite (.refl s) ?_)))
    exact .ite (.ite (hrec _) (.ite (.refl s) (modTask_channels ..))) (.ite (hrec _) hsuspend)
  · exact .refl s

theorem readAround_channels (d : Nat) (s : State) : ChannelsKept s (readAround d s) := by
  unfold readAround
  split
  · exact .refl s
  · exact .foldl (fun u r => .ite (.after (aroundRead_channels ..) (modTask_channels ..)) (.refl u)) _ _

theorem directRead_channels (r : ReadReq) (pl : Nat × Nat) (s : State) : ChannelsKept s (directRead r pl s) := by
  have hset : ∀ (q : ReadReq) d v, ChannelsKept v (setDirect q d v) := fun q d v => by
    unfold setDirect
    split
    · exact .refl v
    · exact modTask_channels ..
  unfold directRead
  split
  · exact readLost_channels ..
  next d _ =>
    dsimp only
    refine .after (readAround_channels ..) ?_
    have hqueued : ∀ q, ChannelsKept s (setDirect q d (enqueue d q s)) := fun q => .after (hset ..) (.of_same rfl rfl)
    exact .ite (hqueued _) ((hqueued _).trans (modTask_channels ..))

theorem startBlock_channels (r : ReadReq) (pl : Nat × Nat) (s : State) : ChannelsKept s (startBlock r pl s) :=
  .ite (directRead_channels ..) (.ite (reconstruct_channels ..) (readLost_channels ..))

end Sys2Proof.Proofs
end

section
/-! SUPPORT. The NAND channels: the loss of a die and of a channel (R238, R258), a retraining by its outcome (R236, R237), and a
write of NFC_INJ. -/

namespace Sys2Proof.Proofs

open Sys2Proof Sys2Proof.Machine Sys2Proof.Laws Sys2Proof.Safety

variable {s t u : State} {ch n v : Nat}

/-! ### The channels of a state -/

theorem nfcOf_modNfc_self (h : ch < s.nfc.length) (f : Nfc → Nfc) : nfcOf (modNfc ch f s) ch = f (nfcOf s ch) :=
  getD_modNth_self _ _ _ _ h

theorem nfcOf_modNfc_ne (h : n ≠ ch) (f : Nfc → Nfc) (s : State) : nfcOf (modNfc ch f s) n = nfcOf s n :=
  getD_modNth_ne _ _ _ _ _ h

theorem nfcOf_modNfc_twice (h : ch < s.nfc.length) (f g : Nfc → Nfc) :
    nfcOf (modNfc ch f (modNfc ch g s)) ch = f (g (nfcOf s ch)) := by
  rw [nfcOf_modNfc_self ((length_modNth ..).symm ▸ h), nfcOf_modNfc_self h]

theorem nfcOf_of_recorded (h : Recorded s t) (n : Nat) : nfcOf t n = nfcOf s n :=
  (proj_of_recorded (fun u => nfcOf u n) h :)

@[simp] theorem notice_seq (code : Nat) (args : List Nat) (s : State) : (notice code args s).obs.seq = s.obs.seq + 1 :=
  eventAt_seq ..

theorem notice_med (code : Nat) (args : List Nat) (s : State) : (notice code args s).med = s.med :=
  (proj_of_recorded State.med (notice_recorded ..) :)

/-! ### Dies and channels that are lost -/

/-- Every channel is in use, or lost, as it was and keeps its rate; every fault of the capture window is still in it. -/
structure RatesKept (s t : State) : Prop where
  lost : ∀ n, (nfcOf t n).lost = (nfcOf s n).lost
  rate : ∀ n, (nfcOf t n).rate = (nfcOf s n).rate
  window : s.fcl.window ⊆ t.fcl.window

theorem RatesKept.trans (h : RatesKept s t) (k : RatesKept t u) : RatesKept s u :=
  ⟨fun n => (k.lost n).trans (h.lost n), fun n => (k.rate n).trans (h.rate n), fun _ hf => k.window (h.window hf)⟩

theorem RatesKept.of_channels (h : ChannelsKept s t) : RatesKept s t :=
  ⟨fun n => congrArg (fun l => (l.getD n coldNfc).lost) h.nfc, fun n => congrArg (fun l => (l.getD n coldNfc).rate) h.nfc,
    h.window⟩

theorem RatesKept.refl (s : State) : RatesKept s s := .of_channels (.refl s)

theorem modNfc_rates {f : Nfc → Nfc} (hlost : ∀ c, (f c).lost = c.lost) (hrate : ∀ c, (f c).rate = c.rate) (ch : Nat)
    (s : State) : RatesKept s (modNfc ch f s) := by
  have hproj : ∀ {β : Type} (g : Nfc → β), (∀ c, g (f c) = g c) → ∀ n, g (nfcOf (modNfc ch f s) n) = g (nfcOf s n) :=
      fun g hg n => by
    simp only [nfcOf, modNfc, List.getD_eq_getElem?_getD, getElem?_modNth]
    split
    · cases s.nfc[n]? with
      | none => rfl
      | some c => exact hg c
    · rfl
  exact ⟨hproj _ hlost, hproj _ hrate, fun _ hf => hf⟩

theorem checkPreserve_channels (s : State) : ChannelsKept s (checkPreserve s) :=
  .ite (.after (.of_recorded (event_recorded ..)) (.of_same rfl rfl)) (.refl s)

theorem zonesReadOnly_channels (s : State) : ChannelsKept s (zonesReadOnly s) := by
  have hmoved : ∀ u i z st, ChannelsKept u (moveZone i z st u) := fun u i z st =>
    .after (.of_recorded (event_recorded ..)) (.of_same rfl rfl)
  exact .foldl (fun u p => .foldl (fun v z => .ite (hmoved ..) (.refl v)) _ u) _ s

theorem rerouteReads_channels (d : Nat) (s : State) : ChannelsKept s (rerouteReads d s) := by
  have hagain : ∀ u (r : ReadReq), ChannelsKept u (match readPlace u r with
      | none => u
      | some pl => startBlock { r with recon := false } pl
          (dropReads r (if r.job.isSome then u else modTask r.inst r.slot (turn .fault u.quartz) u))) := fun u r => by
    split
    · exact .refl u
    · have hdropped : ∀ v, ChannelsKept v (dropReads r v) := fun v => .of_same rfl rfl
      exact .after (startBlock_channels ..) (.after (hdropped _) (.ite (.refl u) (modTask_channels ..)))
  unfold rerouteReads
  split
  · exact .refl s
  · exact .after (.foldl hagain _ _) (.of_same rfl rfl)

theorem replaceMember_channels (lost n : Nat) (s : State) : ChannelsKept s (replaceMember lost n s).1 := by
  unfold replaceMember
  dsimp only
  repeat' split
  all_goals exact .of_same rfl rfl

/-- The loss of a die marks it in its channel's register and leaves every channel in use as it was (R258). -/
theorem dropDie_rates (d : Nat) (s : State) : RatesKept s (dropDie d s) := by
  have hunrestored : ∀ v, ChannelsKept v (unrestore (diePart d) v) := fun v => .ite (.refl v) (.of_same rfl rfl)
  have hmembers : ∀ (l : List (Nat × Superblock)) v, ChannelsKept v (l.foldl (fun (a : State × Bool) p =>
      let (s, k) := replaceMember d p.1 a.1
      (s, a.2 && k)) (v, true)).1 := fun l v =>
    List.foldlRecOn _ _ (motive := fun a : State × Bool => ChannelsKept v a.1) (.refl v) fun a ha p _ =>
      ha.trans (replaceMember_channels d p.1 a.1)
  have hsets : ∀ v, ChannelsKept v (replaceInSets d v) := fun v => by
    refine .foldl (fun u k => ?_) _ v
    exact .of_same rfl rfl
  unfold dropDie
  split
  · exact .refl s
  · split
    · exact .refl s
    · refine (modNfc_rates (f := fun c => { c with dieLost := setBit c.dieLost (dieIn d) true }) (fun _ => rfl)
        (fun _ => rfl) (chanOf d) s).trans (.of_channels ?_)
      refine .after (checkPreserve_channels _) (.after (zonesReadOnly_channels _) (.after (rerouteReads_channels ..) ?_))
      refine .trans (.after (hsets _) (.after (hmembers _ _) (.after (hunrestored _) ?_))) (.of_same rfl rfl)
      exact .of_same rfl rfl

/-- A channel that is lost reads so, with no rate; the fault that told of it still waits for the collector (R238). -/
theorem loseChannel_lost (hlen : ch < s.nfc.length) (hlost : (nfcOf s ch).lost = false) :
    (nfcOf (loseChannel ch s) ch).lost = true ∧ (nfcOf (loseChannel ch s) ch).rate = 0 ∧
      s.fcl.window ⊆ (loseChannel ch s).fcl.window := by
  have hone : s.nfc[ch]? = some (nfcOf s ch) := by
    simp [nfcOf, List.getD_eq_getElem?_getD, List.getElem?_eq_getElem hlen]
  have hmarked := nfcOf_modNfc_self hlen fun c => { c with lost := true, rate := 0 }
  have hkept : RatesKept (modNfc ch (fun c => { c with lost := true, rate := 0 }) s) (loseChannel ch s) := by
    have hdies : ∀ (l : List (Nat × Die)) v, RatesKept v (l.foldl (fun s p => dropDie p.1 s) v) := fun l v =>
      List.foldlRecOn _ _ (motive := RatesKept v) (.refl v) fun u hu p _ => hu.trans (dropDie_rates p.1 u)
    have hunrestored : ∀ v, ChannelsKept v (unrestore (0xC0 + ch) v) := fun v => .ite (.refl v) (.of_same rfl rfl)
    unfold loseChannel
    rw [hone]
    dsimp only
    rw [if_neg (by simp [hlost])]
    exact .trans (.of_channels (.after (.of_recorded (event_recorded ..)) (hunrestored _))) (hdies _ _)
  rw [hkept.lost, hkept.rate, hmarked]
  exact ⟨rfl, rfl, hkept.window⟩

theorem failChannel_lost (hlen : ch < s.nfc.length) (hlost : (nfcOf s ch).lost = false)
    (hfenced : (nfcOf s ch).fenced = false) (access master addr : Nat) :
    (nfcOf (failChannel ch access master addr s) ch).lost = true ∧
      (nfcOf (failChannel ch access master addr s) ch).rate = 0 ∧
      ∃ f ∈ (failChannel ch access master addr s).fcl.window, f.source = 0xC0 + ch := by
  unfold failChannel
  rw [if_neg (by simp [hlost, hfenced])]
  obtain ⟨hgone, hrate, hwindow⟩ := loseChannel_lost
    (s := raise (0xC0 + ch) (lineFault (0xC0 + ch) access master addr) s) hlen hlost
  refine ⟨hgone, hrate, _, hwindow (List.mem_append_right _ (List.mem_singleton_self _)), ?_⟩
  split
  · rfl
  · rfl

/-! ### A retraining (R236–R238) -/

/-- A channel in use, outside test mode: no injection fails its training. -/
structure Trainable (s : State) (ch : Nat) : Prop where
  listed : ch < s.nfc.length
  lost : (nfcOf s ch).lost = false
  fenced : (nfcOf s ch).fenced = false
  testen : s.med.testen = false

theorem Trainable.injected (h : Trainable s ch) : injectedTraining s ch = false := by
  simp [injectedTraining, h.testen]

theorem retrainCh_passes (h : Trainable s ch) :
    retrainCh ch true s = modNfc ch (fun c => { c with trainTemp := channelTemp s ch, retrain := false }) s := by
  simp [retrainCh, h.injected, h.lost, h.fenced]

/-- What a failing margin check notes: the step, and that the retraining is over. -/
def marginFailed (c : Nfc) : Nfc := { c with failStep := 8, retrain := false }

theorem retrainCh_fails (h : Trainable s ch) : retrainCh ch false s =
    if rateNow s (nfcOf s ch) ≤ 5 then failChannel ch 10 0x12 0 (modNfc ch marginFailed s)
    else notice kMediaLink [] (modNfc ch (fun c => { c with rate := c.rate - 1 }) (modNfc ch marginFailed s)) := by
  simp only [retrainCh, h.injected, h.lost, h.fenced, Bool.false_eq_true, if_false, Bool.or_self, Bool.false_and]
  rfl

/-- Above 2400 MT/s the channel drops by one rate, with a record (R237). -/
theorem retrainCh_drops (h : Trainable s ch) (hrate : 5 < rateNow s (nfcOf s ch)) :
    (nfcOf (retrainCh ch false s) ch).rate = (nfcOf s ch).rate - 1 ∧ (nfcOf (retrainCh ch false s) ch).lost = false ∧
      (retrainCh ch false s).obs.seq = s.obs.seq + 1 ∧ (retrainCh ch false s).med = s.med := by
  rw [retrainCh_fails h, if_neg (Nat.not_le.mpr hrate), nfcOf_of_recorded (notice_recorded ..),
    nfcOf_modNfc_twice h.listed]
  exact ⟨rfl, h.lost, notice_seq .., notice_med ..⟩

/-- At 2400 MT/s it fails, a fault of its line (R238). -/
theorem retrainCh_loses (h : Trainable s ch) (hrate : rateNow s (nfcOf s ch) ≤ 5) :
    (nfcOf (retrainCh ch false s) ch).lost = true ∧ (nfcOf (retrainCh ch false s) ch).rate = 0 ∧
      ∃ f ∈ (retrainCh ch false s).fcl.window, f.source = 0xC0 + ch := by
  have hmarked := nfcOf_modNfc_self h.listed marginFailed
  rw [retrainCh_fails h, if_pos hrate]
  refine failChannel_lost ((length_modNth ..).symm ▸ h.listed) ?_ ?_ 10 0x12 0
  · rw [hmarked]
    exact h.lost
  · rw [hmarked]
    exact h.fenced

/-! ### Injections -/

theorem nfcInj_refused (hmode : bits v 0 3 ≠ 0) (h : s.med.testen = false) :
    nfcInj ch v s = regRefused (0x00C00020 + 0x4000 * ch) v s := by
  simp [nfcInj, hmode, h]

/-- The channel with an injection armed. -/
def armed (v : Nat) (c : Nfc) : Nfc :=
  { c with injMode := bits v 0 3, injDie := bits v 3 6, injBits := bits v 9 10, injCount := bits v 19 8
           injLeft := bits v 19 8 }

theorem nfcInj_arms (hmode : bits v 0 3 ≠ 0) (hlast : bits v 0 3 ≤ 5) (h : s.med.testen = true) :
    nfcInj ch v s = notice kTest [] (modNfc ch (armed v) s) := by
  have hnone : ¬ 5 < bits v 0 3 := Nat.not_lt.mpr hlast
  simp only [nfcInj, hmode, h, hnone, Bool.not_true, decide_false, Bool.or_self, Bool.and_false, Bool.false_eq_true,
    if_false]
  rfl

theorem nfcInj_armed (hlen : ch < s.nfc.length) (hmode : bits v 0 3 ≠ 0) (hlast : bits v 0 3 ≤ 5)
    (h : s.med.testen = true) : (nfcInj ch v s).obs.seq = s.obs.seq + 1 ∧
      nfcOf (nfcInj ch v s) ch = armed v (nfcOf s ch) ∧ (nfcInj ch v s).med = s.med := by
  rw [nfcInj_arms hmode hlast h, nfcOf_of_recorded (notice_recorded ..), nfcOf_modNfc_self hlen]
  exact ⟨notice_seq .., rfl, notice_med ..⟩

/-! ### The commands of a channel -/

section

variable {ch : Fin 64} {v : U32}

theorem exec_zqCalibrationShort_near (h : (channelTemp s ch.val - (nfcOf s ch.val).trainTemp).natAbs < 40) (ok : Bool) :
    exec (.zqCalibrationShort ch ok) s = .next s :=
  congrArg Host.Outcome.next (if_neg (Nat.not_le.mpr h))

theorem exec_zqCalibrationShort_moved (h : 40 ≤ (channelTemp s ch.val - (nfcOf s ch.val).trainTemp).natAbs) (ok : Bool) :
    exec (.zqCalibrationShort ch ok) s = .next (retrainCh ch.val ok s) :=
  congrArg Host.Outcome.next (if_pos h)

/-- The state with CAP2400 written. -/
def capped (ch : Fin 64) (v : U32) (s : State) : State := modNfc ch.val (fun c => { c with cap2400 := v.getLsbD 0 }) s

theorem exec_retrain_idle (h : v.getLsbD 1 = false) (ok : Bool) (s : State) :
    exec (.retrain ch v ok) s = .next (capped ch v s) :=
  congrArg Host.Outcome.next (if_neg (Bool.eq_false_iff.mp h))

theorem exec_retrain_asked (h : v.getLsbD 1 = true) (ok : Bool) (s : State) :
    exec (.retrain ch v ok) s = .next (retrainCh ch.val ok (capped ch v s)) :=
  congrArg Host.Outcome.next (if_pos h)

end

end Sys2Proof.Proofs
end

section
/-! SUPPORT. Where settling does nothing: a device in RUN or in a dump does not leave port 1 short of landing buffers with its
XOFF unsent (R88). -/

namespace Sys2Proof.Proofs

open Sys2Proof Sys2Proof.Machine Sys2Proof.Laws Sys2Proof.Safety

variable {s t : State}

/-- Port 1 is short of landing buffers, and its XOFF has not been sent. -/
structure XoffOwed (s : State) : Prop where
  pfc : pfcOn s = true
  boot : s.sys.boot ≠ .halt
  xoff : s.pins.xoff[1]? = some false
  short : landingShort s 1 = true

/-- Flow control of a port: nothing, an XOFF where it is short, or an XON where it is not. -/
theorem flowControl_cases (p : Nat) (s : State) :
    (flowControl p s = s ∧ (pfcOn s = false ∨ s.sys.boot = .halt ∨ s.pins.xoff.getD p false = true ∨
      landingShort s p = false)) ∨
    Transported { s with pins := { s.pins with xoff := setNth s.pins.xoff p true } } (flowControl p s) ∨
    (landingShort s p = false ∧
      Transported { s with pins := { s.pins with xoff := setNth s.pins.xoff p false } } (flowControl p s)) := by
  have hsent : ∀ xoff u, Transported u (sendPause p xoff u) := fun xoff u =>
    Transported.foldl rfl fun v l h => Transported.app (transmit_transported ..) h
  unfold flowControl
  split
  next hoff =>
    simp only [Bool.or_eq_true, Bool.not_eq_true', decide_eq_true_eq] at hoff
    exact .inl ⟨rfl, hoff.imp_right .inl⟩
  next =>
    dsimp only
    split
    · exact .inr (.inl (hsent ..))
    next hquiet =>
      split
      next hfree =>
        simp only [Bool.and_eq_true, decide_eq_true_eq] at hfree
        obtain ⟨⟨-, hawake⟩, hfree⟩ := hfree
        refine .inr (.inr ⟨?_, hsent ..⟩)
        simp only [landingShort, Nat.not_le.mpr hawake, if_false, decide_eq_false_iff_not]
        omega
      next =>
        refine .inl ⟨rfl, .inr (.inr ?_)⟩
        cases hon : s.pins.xoff.getD p false with
        | true => exact .inl rfl
        | false =>
          simp only [hon, Bool.not_false, Bool.true_and, Bool.not_eq_true] at hquiet
          exact .inr hquiet

theorem not_xoffOwed_flowControl (s : State) : ¬ XoffOwed (flowControl 1 s) := by
  rintro ⟨hpfc, hboot, hxoff, hshort⟩
  rcases flowControl_cases 1 s with ⟨hsame, hquiet⟩ | hsent | ⟨hfree, hsent⟩
  · rw [hsame] at hpfc hboot hxoff hshort
    simp [hpfc, hboot, hshort, hxoff] at hquiet
  · rw [proj_of_transported (fun u => u.pins.xoff[1]?) hsent] at hxoff
    simp at hxoff
  · have hkept := (proj_of_transported (fun u => landingShort u 1) hsent :)
    exact Bool.false_ne_true (hfree.symm.trans (hkept.symm.trans hshort))

/-- What `settle` leaves with an XOFF owed it has not touched. -/
theorem settle_of_xoffOwed (h : XoffOwed (settle t)) : settle t = t := by
  by_cases hidle : (t.sys.boot != .run && t.sys.boot != .dump) = true
  · exact if_pos hidle
  · rw [settle, if_neg hidle] at h
    exact absurd h (not_xoffOwed_flowControl _)

end Sys2Proof.Proofs
end

section
/-! SUPPORT. A patrol whose refresh loses the page: both members of its superblock lie on lost dies. -/

namespace Sys2Proof.Proofs

open Sys2Proof Sys2Proof.Machine Sys2Proof.Laws Sys2Proof.Safety

/-- Parameters of the `Inst` that holds the block. -/
def strandedParams : Params :=
  { slots := 8, keyCount := 2, metaFmt := false, trailerAll := false, zoneSize := 64, zoneCap := 48, zoneCount := 4
    openLimit := 2, stripeWidth := 2, writeMode := 0, convBlocks := 16, fill := 0, txnTimeoutMs := 1000
    typeMask := 2 ^ 21 - 1, bwRate := 1000, bwDepth := 1048576, opRate := 1000, opDepth := 64, missLimit := 4
    mboxDepth := 2, violLimit := 3, missWindowMs := 1000, violWindowUs := 1000, links := 1, egressBufs := 64
    mboxPeers := [], sources := [], raw := 0 }

/-- The block, programmed at the first place of superblock 0. -/
def strandedBlock : Stored :=
  { box := { c := 0, mc := 0, tag := 0, key := 0, dm := 0 }, hint := 0, pos := 0, twin := none, place := some (0, 0)
    onFlash := true, slcPage := true, native := none, desc := none, harm := .whole }

/-- The SLC superblock that holds the block, on dies 0 and 1. -/
def strandedSb : Superblock :=
  { inst := 1, set := 0, slc := true, cls := 0, stream := 0, conv := true, members := [(0, 8), (1, 8)], rebuilding := []
    used := 16, issued := 1, closed := true, full := true, staging := false, readers := [] }

/-- A device in its start, with flow control on and no landing buffer: dies 0 and 1 are lost, and the die set has superblocks
free on dies 2 and 3. -/
def stranded : State :=
  { State.reset with
    img := { coldSettings with ports := { coldPorts with pfc := 1 } }
    insts := [(1, { freshInst strandedParams 0 with conv := [(0, strandedBlock)] })]
    med := { coldMed with
      dies := [(0, { freshDie referenceProfile with lost := true }), (1, { freshDie referenceProfile with lost := true }),
        (2, freshDie referenceProfile), (3, freshDie referenceProfile)]
      sets := [{ pool := 0, num := 0, dies := [2, 3], lent := [], draining := false, blocked := false, lostMember := false
                 gc := false, rebuilds := [] }]
      sbs := [(0, strandedSb)], nextSb := 1 } }

/-- The state behind a patrol of the block that ends reconstructed. -/
def strandedScrubbed : State := patrolScrubEffect 1 true 0 .reconstructed stranded

/-- The copy of the page begins, its read finds neither the block nor the rest of its stripe, and marks the block. -/
theorem poison_strandedScrubbed : strandedScrubbed.med.poison = 1 := by decide

theorem boot_strandedScrubbed : strandedScrubbed.sys.boot = .start := by decide

theorem xoffOwed_strandedScrubbed : XoffOwed strandedScrubbed := ⟨by decide, by decide, by decide, by decide⟩

end Sys2Proof.Proofs
end

section
/-! The statements of 09_media: the block counts and the background work of the flash, and the channels. -/

namespace Sys2Proof.Proofs

open Sys2Proof Sys2Proof.Machine Sys2Proof.Laws Sys2Proof.Safety

/-- Refutes O52: a patrol that ends reconstructed does not always leave the count of poisoned blocks. It refreshes the page
(R264), and the copy's read of a block whose own die and another of its stripe are lost marks the block poisoned (R249, R265):
the statement takes the outcome in every state, and does not ask that the rest of the stripe can be read. It asks for some state
that settles to the command's answer; in a start nothing settles, and an XOFF that is owed shows that no other state does
(`settle_of_xoffOwed`). -/
theorem not_eraseKeepsTheBlockCountsAndBackgroundWork : ¬ Obligations.EraseKeepsTheBlockCountsAndBackgroundWork := by
  unfold Obligations.EraseKeepsTheBlockCountsAndBackgroundWork
  rintro ⟨-, -, hpatrol, -⟩
  obtain ⟨-, hstored⟩ := hpatrol 1 true 0 .reconstructed stranded (patrolKey 1 true 0) rfl
  obtain ⟨-, ⟨t, hexec, -, hpoison, -⟩, -⟩ := hstored strandedBlock rfl rfl rfl
  have hsettle : settle t = strandedScrubbed :=
    (Host.Outcome.next.inj hexec).symm.trans (settle_start boot_strandedScrubbed)
  have ht : t = strandedScrubbed :=
    (settle_of_xoffOwed (hsettle.symm ▸ xoffOwed_strandedScrubbed)).symm.trans hsettle
  rw [ht, poison_strandedScrubbed] at hpoison
  exact absurd hpoison (by decide)

/-- Settles O53: a retraining by its three outcomes (`retrainCh_passes`, `retrainCh_drops`, `retrainCh_loses`), on the state
itself for the calibration and on the one with CAP2400 written for NFC_CTRL; an injection by `nfcInj_armed`. -/
theorem channelTrainingAndInjections : Obligations.ChannelTrainingAndInjections := by
  unfold Obligations.ChannelTrainingAndInjections
  rintro ch ok v s c hlen rfl hlost hfenced
  have hlisted : ch.val < s.nfc.length := hlen.symm ▸ ch.isLt
  have hcap : nfcOf (capped ch v s) ch.val = { nfcOf s ch.val with cap2400 := v.getLsbD 0 } :=
    nfcOf_modNfc_self hlisted _
  have hready : s.med.testen = false → Trainable s ch.val := fun htest => ⟨hlisted, hlost, hfenced, htest⟩
  have hcapped : s.med.testen = false → Trainable (capped ch v s) ch.val := fun htest =>
    ⟨(length_modNth ..).symm ▸ hlisted, hcap ▸ hlost, hcap ▸ hfenced, htest⟩
  refine ⟨fun hnear => exec_zqCalibrationShort_near hnear ok, fun hmoved htest => ⟨?_, fun hrate => ?_, fun hrate => ?_⟩,
    fun hidle => ?_, fun hasked htest => ⟨?_, fun hrate => ?_, fun hrate => ?_⟩, ⟨rfl, rfl, rfl, rfl⟩,
    fun hmode htest => congrArg Host.Outcome.next (nfcInj_refused hmode htest), ?_⟩
  · refine ⟨_, exec_zqCalibrationShort_moved hmoved true, ?_⟩
    rw [retrainCh_passes (hready htest)]
    exact ⟨rfl, nfcOf_modNfc_self hlisted _, fun n hn => nfcOf_modNfc_ne hn _ s⟩
  · exact ⟨_, exec_zqCalibrationShort_moved hmoved false, retrainCh_drops (hready htest) hrate⟩
  · obtain ⟨hgone, hzero, f, hf, hsource⟩ := retrainCh_loses (hready htest) hrate
    exact ⟨_, f, exec_zqCalibrationShort_moved hmoved false, hgone, hzero, hf, hsource⟩
  · exact ⟨_, exec_retrain_idle hidle ok s, rfl, hcap, fun n hn => nfcOf_modNfc_ne hn _ s⟩
  · refine ⟨_, exec_retrain_asked hasked true s, ?_⟩
    rw [retrainCh_passes (hcapped htest)]
    exact ⟨rfl, nfcOf_modNfc_twice hlisted _ _, fun n hn => (nfcOf_modNfc_ne hn _ _).trans (nfcOf_modNfc_ne hn _ s)⟩
  · obtain ⟨hdropped, hinuse, hseq, -⟩ := retrainCh_drops (hcapped htest) (hcap ▸ hrate)
    exact ⟨_, exec_retrain_asked hasked false s, hdropped.trans (by rw [hcap]), hinuse, hseq⟩
  · obtain ⟨hgone, -, f, hf, hsource⟩ := retrainCh_loses (hcapped htest) (hcap ▸ hrate)
    exact ⟨_, f, exec_retrain_asked hasked false s, hgone, hf, hsource⟩
  · rintro d n htest rfl rfl
    have harmed : ∀ m, 1 ≤ m → m ≤ 5 → bits v.toNat 0 3 = m → ∃ t, Host.Outcome.next (nfcInj ch.val v.toNat s) =
        (.next t : Host.Outcome State Fault Refusal) ∧ t.obs.seq = s.obs.seq + 1 ∧
        nfcOf t ch.val = { nfcOf s ch.val with
          injMode := m, injDie := bits v.toNat 3 6, injBits := bits v.toNat 9 10, injCount := bits v.toNat 19 8
          injLeft := bits v.toNat 19 8 } ∧ t.med = s.med := by
      rintro m hfirst hlast rfl
      exact ⟨_, rfl, nfcInj_armed hlisted (Nat.ne_of_gt hfirst) hlast htest⟩
    exact ⟨harmed 1 (by decide) (by decide), harmed 2 (by decide) (by decide), harmed 3 (by decide) (by decide),
      harmed 4 (by decide) (by decide), harmed 5 (by decide) (by decide)⟩

end Sys2Proof.Proofs
end

section
/-! SUPPORT. The random source (R315): what a failed window leaves, and when it makes the source FAILED; the commands on it
by case. -/

namespace Sys2Proof.Proofs

open Sys2Proof Sys2Proof.Machine Sys2Proof.Laws Sys2Proof.Safety

variable {r : Bool} {s : State}

/-! ### A window fails -/

/-- A failed window makes the source FAILED that is not: a repetition failure, or a second failure within 1 s (R315). -/
def makesFailed (r : Bool) (s : State) : Bool :=
  (r || s.kec.lastFail.any fun t => s.quartz < t + 1000000000) && !s.kec.trngFailed

/-- A failed window is counted, with its time and its verdict on the source (R315). -/
def windowCounted (r : Bool) (s : State) : State :=
  { s with kec := { s.kec with
      trngfail := (s.kec.trngfail + 1) % 2 ^ 32, ovfTrng := s.kec.ovfTrng || decide (s.kec.trngfail = 0xFFFFFFFF)
      lastFail := some s.quartz, trngFailed := s.kec.trngFailed || makesFailed r s } }

/-- The fault of a FAILED source (R315). -/
def trngFault : Fault' := ruleFault kFault sevDegrade noSource noInst []

/-- A failed window: its records and counts, and the fault where the source becomes FAILED. -/
theorem trngFail_shape (r : Bool) (s : State) : ∃ u, Recorded (windowCounted r s) u ∧
    trngFail r s = if makesFailed r s then raise noSource trngFault u else u := by
  refine ⟨_, ?_, rfl⟩
  refine Recorded.app (tally_recorded ..) ?_
  split
  · exact notice_recorded ..
  · rfl

theorem trngFail_kec (r : Bool) (s : State) : (trngFail r s).kec = (windowCounted r s).kec := by
  obtain ⟨u, hrec, he⟩ := trngFail_shape r s
  have hkec : u.kec = (windowCounted r s).kec := (proj_of_recorded State.kec hrec :)
  rw [he, ← hkec]
  split
  · rfl
  · rfl

theorem trngFail_window (h : makesFailed r s = true) : (trngFail r s).fcl.window = s.fcl.window ++ [trngFault] := by
  obtain ⟨u, hrec, he⟩ := trngFail_shape r s
  have hwindow : u.fcl.window = s.fcl.window := (proj_of_recorded (fun v => v.fcl.window) hrec :)
  rw [he, if_pos h, window_raise_noSource, hwindow]

/-- The source is FAILED after the window if it was before, or by one of the two conditions of R315. -/
theorem trngFail_failed_iff (r : Bool) (s : State) : (trngFail r s).kec.trngFailed = true ↔
    s.kec.trngFailed = true ∨ r = true ∨ ∃ t, s.kec.lastFail = some t ∧ s.quartz < t + 1000000000 := by
  rw [trngFail_kec]
  cases hfailed : s.kec.trngFailed with
  | true => simp [windowCounted, hfailed]
  | false => simp [windowCounted, makesFailed, hfailed, Option.any_eq_true]

/-- A source that becomes FAILED raises the fault. -/
theorem trngFail_raises (hbefore : s.kec.trngFailed = false) (hafter : (trngFail r s).kec.trngFailed = true) :
    (trngFail r s).fcl.window = s.fcl.window ++ [trngFault] := by
  refine trngFail_window ?_
  rw [trngFail_kec] at hafter
  simpa only [windowCounted, hbefore, Bool.false_or] using hafter

/-! ### The commands -/

theorem exec_trngHealthWindow_fails {rep prop : Bool} (h : rep = false ∨ prop = false) :
    exec (.trngHealthWindow rep prop) s = .next (trngFail (!rep) s) := by
  refine congrArg Host.Outcome.next (if_neg ?_)
  rcases h with rfl | rfl
  · simp
  · simp

theorem exec_trngRetest_failed (h : s.kec.trngFailed = true) : exec (.trngRetest true) s =
    .next (notice kCrypto [] { s with kec := { s.kec with trngFailed := false } }) :=
  congrArg Host.Outcome.next (if_pos h)

theorem exec_trngRetest_ok (h : s.kec.trngFailed = false) (pass : Bool) : exec (.trngRetest pass) s = .next s := by
  cases pass with
  | false => rfl
  | true => exact congrArg Host.Outcome.next (if_neg (Bool.eq_false_iff.mp h))

end Sys2Proof.Proofs
end

section
/-! SUPPORT. Test keys and lane tests (R306): a write of CPH_KCMD and of CPH_LANETEST by case. -/

namespace Sys2Proof.Proofs

open Sys2Proof Sys2Proof.Machine Sys2Proof.Laws Sys2Proof.Safety

variable {v : Nat} {s : State}

/-! ### Key commands -/

/-- A key command takes effect: its key word, test mode, a slot that no created instance is assigned, and one of the two
commands (R306). -/
def keyAccepted (v : Nat) (s : State) : Bool :=
  bits v 16 16 = 0x4B59 && s.kec.testen && !slotAssigned s s.cph.ksel && (bits v 0 2 = 1 || bits v 0 2 = 2)

theorem keyAccepted_iff : keyAccepted v s = true ↔ bits v 16 16 = 0x4B59 ∧ s.kec.testen = true ∧
    slotAssigned s s.cph.ksel = false ∧ (bits v 0 2 = 1 ∨ bits v 0 2 = 2) := by
  simp only [keyAccepted, Bool.and_eq_true, Bool.or_eq_true, Bool.not_eq_true', decide_eq_true_eq, and_assoc]

/-- CPH_KDATA is zeroed by every write of CPH_KCMD, one that is refused too (R306). -/
theorem cphKcmd_refused (h : keyAccepted v s = false) :
    cphKcmd v s = regRefused 0x00A00060 v { s with cph := { s.cph with kdata := 0 } } :=
  if_pos ((Bool.not_eq_true' _).mpr h)

theorem cphKcmd_accepted (h : keyAccepted v s = true) : cphKcmd v s =
    if bits v 0 2 = 1 then
      { s with cph := { s.cph with kdata := 0, testKeys := amSet s.cph.testKeys s.cph.ksel s.cph.kdata } }
    else { s with cph := { s.cph with kdata := 0, testKeys := amErase s.cph.testKeys s.cph.ksel } } :=
  if_neg (fun hrefused => Bool.eq_false_iff.mp ((Bool.not_eq_true' _).mp hrefused) h)

/-! ### Lane tests -/

/-- CPH_LANETEST holds the lane and the mode that are written to it. -/
def laneWritten (v : Nat) (s : State) : State := { s with cph := { s.cph with lane := bits v 0 8, mode := bit v 8 } }

theorem cphLaneTest_idle (h : bit v 9 = false) (pass : Bool) : cphLaneTest v pass s = laneWritten v s :=
  if_pos (by simp [h])

theorem cphLaneTest_locked (hgo : bit v 9 = true) (htest : s.kec.testen = false) (pass : Bool) :
    cphLaneTest v pass s = regRefused 0x00A00064 v (laneWritten v s) := by
  unfold cphLaneTest
  simp only [hgo, htest, Bool.not_true, Bool.not_false, Bool.true_or, Bool.false_eq_true, if_false, if_true, laneWritten]

/-- A known-answer test of a lane leaves its outcome. -/
theorem cphLaneTest_answers (hgo : bit v 9 = true) (htest : s.kec.testen = true) (hlane : bits v 0 8 < 192)
    (hmode : bit v 8 = false) (pass : Bool) : cphLaneTest v pass s =
      { s with cph := { s.cph with lane := bits v 0 8, mode := false, pass := pass } } := by
  have hexists : ¬ 192 ≤ bits v 0 8 := Nat.not_le.mpr hlane
  unfold cphLaneTest
  simp only [hgo, htest, hexists, hmode, Bool.not_true, Bool.not_false, decide_false, Bool.or_self, Bool.false_eq_true,
    if_false, if_true]

end Sys2Proof.Proofs
end

section
/-! SUPPORT. Attestation (R319): a request by what it finds, and the report once its signature is made. -/

namespace Sys2Proof.Proofs

open Sys2Proof Sys2Proof.Machine Sys2Proof.Laws Sys2Proof.Safety

variable {v : Nat} {s : State}

/-! ### The request -/

/-- A request is refused behind a running one (R319). -/
theorem kecAttReq_running (hgo : bit v 16 = true) (hbusy : s.kec.busy = true) :
    kecAttReq v s = regRefused 0x00B00018 v s := if_pos (by simp [hgo, hbusy])

/-- What a GO that no running request holds up does: without a source or an identity it leaves the error, else it captures
the report's head and sends the message to the Keccak units (R319, Table TR-12). -/
theorem kecAttReq_go (hgo : bit v 16 = true) (hbusy : s.kec.busy = false) : kecAttReq v s =
    if s.kec.trngFailed then
      { s with kec := { s.kec with attInst := bits v 0 16, done := false, error := 1 } }
    else if !s.kec.identity then
      { s with kec := { s.kec with attInst := bits v 0 16, done := false, error := 2 } }
    else keccakMsg true { s with kec := { s.kec with
      attInst := bits v 0 16, done := false, error := 0, busy := true, capture := reportHead s (bits v 0 16) } } := by
  unfold kecAttReq
  simp only [hgo, hbusy, Bool.and_false, Bool.not_true, Bool.false_eq_true, if_false]
  rfl

/-- A message that is counted leaves KEC as it is. -/
theorem keccakMsg_kec (bulk : Bool) (s : State) : (keccakMsg bulk s).kec = s.kec :=
  (proj_of_recorded State.kec (keccakMsg_recorded bulk s) :)

/-! ### The report -/

@[simp] theorem length_fit (n : Nat) (b : List Byte) : (fit n b).length = n := by
  simp only [fit, List.length_append, List.length_take, List.length_replicate]
  omega

/-- The signature field of a report: the signature of the captured bytes, and its padding (Table TR-11). -/
def reportSignature (s : State) : List Byte :=
  fit 3309 (Config.mldsaSign (dakSeed s) "ETZ-ATT" s.kec.capture (drawBytes 32 s).1) ++ leBytes 3 0

theorem length_reportSignature (s : State) : (reportSignature s).length = 3312 := by
  rw [reportSignature, List.length_append, length_fit]
  rfl

/-- The end of a running request leaves the captured bytes with their signature (R319). -/
theorem attDone_kec (h : s.kec.busy = true) : (attDone s).kec =
    { s.kec with busy := false, done := true, report := s.kec.capture ++ reportSignature s } := by
  have he : attDone s = tally noInst 0x0106 8 1 { s with free := s.free + 1, kec := { s.kec with
      busy := false, done := true, report := s.kec.capture ++ fit 3309 (Config.mldsaSign (dakSeed s) "ETZ-ATT" s.kec.capture
        (drawBytes 32 s).1) ++ leBytes 3 0 } } := if_neg (by simp [h])
  rw [he, proj_of_recorded State.kec (tally_recorded ..), reportSignature, List.append_assoc]

end Sys2Proof.Proofs
end

section
/-! The statement of 11_trust on the random source, test keys, lane tests and attestation. -/

namespace Sys2Proof.Proofs

open Sys2Proof Sys2Proof.Machine Sys2Proof.Laws Sys2Proof.Safety

/-- Settles O56: a failed window by `trngFail_kec` and `trngFail_raises`; a key command by whether it is accepted
(`keyAccepted_iff`); a lane test, a request and the end of a report by their cases. -/
theorem trustCommands : Obligations.TrustCommands := by
  unfold Obligations.TrustCommands
  refine ⟨fun rep prop' half i s => ⟨rfl, fun hfails => ?_, exec_trngRetest_failed, rfl, fun hok =>
      exec_trngRetest_ok hok rep, fun hfailed => ?_, fun hok => ?_, ?_⟩,
    fun v ok s => ⟨rfl, fun hrefused => ?_, fun hkey htest hfree => ⟨fun hcmd => ?_, fun hcmd => ?_⟩, fun hidle => ?_,
      fun hgo htest hlane hmode => ?_, fun hgo htest => ?_, fun hgo hbusy => ?_, fun hgo hidle hsource hident => ?_,
      fun hgo hidle hnone => ?_, fun hidle => ?_, fun hbusy => ?_⟩⟩
  · refine ⟨_, exec_trngHealthWindow_fails hfails, ?_, ?_, ?_, fun hbefore hafter =>
      ⟨trngFault, trngFail_raises hbefore hafter, Nat.le_refl _⟩⟩
    · rw [trngFail_kec, windowCounted]
    · rw [trngFail_kec, windowCounted]
    · simpa using trngFail_failed_iff (!rep) s
  · exact congrArg Host.Outcome.next (if_pos hfailed)
  · exact congrArg Host.Outcome.next (if_neg (Bool.eq_false_iff.mp hok))
  · exact ⟨_, rfl, rfl, fun x hx => (inst?_modInst_self ..).trans (congrArg _ hx), fun j hj => inst?_modInst_ne _ j _ s hj⟩
  · refine congrArg Host.Outcome.next (cphKcmd_refused (Bool.eq_false_iff.mpr fun haccepted => ?_))
    obtain ⟨hkey, htest, hfree, hcmd⟩ := keyAccepted_iff.mp haccepted
    simp [hkey, htest, hfree, hcmd] at hrefused
  · refine ⟨_, congrArg Host.Outcome.next (cphKcmd_accepted (keyAccepted_iff.mpr ⟨hkey, htest, hfree, .inl hcmd⟩)), ?_⟩
    rw [if_pos hcmd]
    exact ⟨rfl, amGet?_amSet_self .., fun n hn => amGet?_amSet_ne _ _ _ _ hn, rfl⟩
  · refine ⟨_, congrArg Host.Outcome.next (cphKcmd_accepted (keyAccepted_iff.mpr ⟨hkey, htest, hfree, .inr hcmd⟩)), ?_⟩
    rw [if_neg (by omega)]
    exact ⟨rfl, amGet?_amErase_self .., fun n hn => amGet?_amErase_ne _ _ _ hn, rfl⟩
  · exact congrArg Host.Outcome.next (cphLaneTest_idle hidle ok)
  · exact congrArg Host.Outcome.next (cphLaneTest_answers hgo htest hlane hmode ok)
  · exact congrArg Host.Outcome.next (cphLaneTest_locked hgo htest ok)
  · exact congrArg Host.Outcome.next (kecAttReq_running hgo hbusy)
  · refine ⟨_, congrArg Host.Outcome.next (kecAttReq_go hgo hidle), ?_⟩
    simp only [hsource, hident, Bool.not_true, Bool.false_eq_true, if_false, keccakMsg_kec, true_and]
    exact keccakMsg_recorded ..
  · refine ⟨_, congrArg Host.Outcome.next (kecAttReq_go hgo hidle), ?_⟩
    cases hfailed : s.kec.trngFailed with
    | true => exact ⟨hidle, rfl, rfl⟩
    | false =>
      have hident : s.kec.identity = false := by simpa [hfailed] using hnone
      rw [hident]
      exact ⟨hidle, rfl, rfl⟩
  · exact congrArg Host.Outcome.next (if_pos (by simp [hidle]))
  · refine ⟨_, reportSignature s, rfl, ?_⟩
    rw [attDone_kec hbusy]
    exact ⟨rfl, rfl, rfl, length_reportSignature s⟩

end Sys2Proof.Proofs
end

section
/-! SUPPORT. Wakes and the end of an exit (R395, R398, R400, R404): what the first wake records, and what the exit of DOZE or
STOW restores. -/

namespace Sys2Proof.Proofs

open Sys2Proof Sys2Proof.Machine Sys2Proof.Laws Sys2Proof.Safety

variable {s t u : State}

/-! ### Wakes (R404) -/

theorem wake_awake (h : s.pwr.state < 2) (src detail : Nat) : wake src detail s = s := if_pos h

/-- In DOZE or STOW, with no exit under way, a wake starts the exit and leaves its cause (R404). -/
theorem pwr_wake_asleep (hdeep : 2 ≤ s.pwr.state) (hphase : s.pwr.phase = 0) (src detail : Nat) :
    (wake src detail s).pwr = { s.pwr with
      phase := 5, exitCause := some src, wakeSource := src, wakeDetail := detail % 256, wakeFrom := s.pwr.state
      wakeTime := s.quartz } := by
  unfold wake
  rw [if_neg (Nat.not_lt.mpr hdeep), if_neg (by omega)]
  exact (proj_of_recorded State.pwr (Recorded.app (tally_recorded ..) (notice_recorded ..)) :)

theorem exec_timerWake_doze (h : s.pwr.state = 2) : exec .timerWake s = .next (wake 10 0 s) :=
  congrArg Host.Outcome.next (if_pos h)

theorem exec_timerWake_awake (h : s.pwr.state < 2) : exec .timerWake s = .next s :=
  congrArg Host.Outcome.next (if_neg (by omega))

theorem exec_frameWake_linkUp {l : Fin 16} (hlink : linkUp s l.val = true) (hlive : s.sys.boot ≠ .halt) :
    exec (.frameWake l) s = .next (wake 8 l.val s) :=
  congrArg Host.Outcome.next (if_pos (by simp [hlink, hlive]))

theorem exec_frameWake_awake (h : s.pwr.state < 2) (l : Fin 16) : exec (.frameWake l) s = .next s := by
  simp only [exec, execFrameWake, wake_awake h, ite_self]

/-! ### What the steps of an exit keep -/

/-- The power manager's lists, the media pads, the journal and the media maps are as they were, and no DRAM channel has changed
its state. -/
structure ExitKept (s t : State) : Prop where
  phase : t.pwr.phase = s.pwr.phase
  holdLists : t.pwr.holdLists = s.pwr.holdLists
  landed : t.pwr.landed = s.pwr.landed
  media : t.pins.media = s.pins.media
  channels : t.dmc.chs.map (·.state) = s.dmc.chs.map (·.state)
  jrn : t.jrn = s.jrn
  med : t.med = s.med

theorem ExitKept.refl (s : State) : ExitKept s s := ⟨rfl, rfl, rfl, rfl, rfl, rfl, rfl⟩

theorem ExitKept.trans (h : ExitKept s t) (k : ExitKept t u) : ExitKept s u where
  phase := k.phase.trans h.phase
  holdLists := k.holdLists.trans h.holdLists
  landed := k.landed.trans h.landed
  media := k.media.trans h.media
  channels := k.channels.trans h.channels
  jrn := k.jrn.trans h.jrn
  med := k.med.trans h.med

theorem ExitKept.after (k : ExitKept t u) (h : ExitKept s t) : ExitKept s u := h.trans k

theorem ExitKept.ite {p : Prop} [Decidable p] (h : ExitKept s t) (k : ExitKept s u) :
    ExitKept s (if p then t else u) := by
  split
  · exact h
  · exact k

theorem ExitKept.of_transported (h : Transported s t) : ExitKept s t where
  phase := (proj_of_transported (fun u => u.pwr.phase) h :)
  holdLists := (proj_of_transported (fun u => u.pwr.holdLists) h :)
  landed := (proj_of_transported (fun u => u.pwr.landed) h :)
  media := (proj_of_transported (fun u => u.pins.media) h :)
  channels := (proj_of_transported (fun u => u.dmc.chs.map (·.state)) h :)
  jrn := (proj_of_transported State.jrn h :)
  med := (proj_of_transported State.med h :)

theorem ExitKept.of_recorded (h : Recorded s t) : ExitKept s t := .of_transported (Recorded.transported h)

theorem requestTo_exitKept (mv : Nat) (s : State) : ExitKept s (requestTo mv s) := by
  obtain ⟨v, l, c, h⟩ := requestTo_shape mv s
  rw [h]
  exact ⟨rfl, rfl, rfl, rfl, rfl, rfl, rfl⟩

/-- A change of set point reaches channels in service, and leaves them there (R327). -/
theorem setPoint_exitKept (sp : Nat) (s : State) : ExitKept s (setPoint sp s) := by
  refine ⟨rfl, rfl, rfl, rfl, ?_, rfl, rfl⟩
  simp only [setPoint, List.map_map]
  refine List.map_congr_left fun c _ => ?_
  simp only [Function.comp_apply]
  split <;> rfl

theorem recordWake_exitKept (src detail before : Nat) (s : State) : ExitKept s (recordWake src detail before s) :=
  (ExitKept.of_recorded (notice_recorded ..)).after ⟨rfl, rfl, rfl, rfl, rfl, rfl, rfl⟩

theorem setTrim_exitKept (on : Bool) (s : State) : ExitKept s (setTrim on s) :=
  (ExitKept.of_transported (notifyDerate_transported ..)).after
    ((setPoint_exitKept ..).after ⟨rfl, rfl, rfl, rfl, rfl, rfl, rfl⟩)

theorem exitTrim_exitKept (s : State) : ExitKept s (exitTrim s) :=
  (ExitKept.of_recorded (tally_recorded ..)).after
    ((recordWake_exitKept ..).after ((requestTo_exitKept ..).after (setTrim_exitKept false s)))

theorem takePending_exitKept (s : State) : ExitKept s (takePending s) :=
  .ite (.ite ((exitTrim_exitKept _).after ⟨rfl, rfl, rfl, rfl, rfl, rfl, rfl⟩) ⟨rfl, rfl, rfl, rfl, rfl, rfl, rfl⟩) (.refl s)

theorem dropFloors_exitKept (st : Nat) (s : State) : ExitKept s (dropFloors st s) :=
  .ite ⟨rfl, rfl, rfl, rfl, rfl, rfl, rfl⟩
    ((ExitKept.of_transported (notifyDerate_transported ..)).after ⟨rfl, rfl, rfl, rfl, rfl, rfl, rfl⟩)

/-! ### The domains (R395, R400) -/

theorem takePending_none (h : s.pwr.pendingReq = none) : takePending s = s := if_neg (by simp [h])

theorem pwr_dropFloors (st : Nat) (s : State) :
    (dropFloors st s).pwr = { s.pwr with dozeFloor := false, stowFloor := false } := by
  unfold dropFloors
  dsimp only
  split
  · rfl
  · exact (proj_of_transported State.pwr (notifyDerate_transported ..) :)

theorem dropHoldLists_released (s : State) :
    Released { s with pwr := { s.pwr with holdLists := [[], []] } } (dropHoldLists s) := freeBufs_released ..

/-- The exit with the buffers of the hold lists let go, the pads released and DRAM out of self-refresh. -/
def domainsBack (s : State) : State :=
  let d := dropHoldLists s
  { d with
    pwr := { d.pwr with
      state := s.pwr.fromState, phase := 0, target := 0, exitCause := none, retained := false, dirtyCap := none }
    pins := { d.pins with media := .active }
    dmc := { d.dmc with chs := d.dmc.chs.map fun c =>
      if c.state = 2 then { c with state := 1, sp := if s.pwr.fromState = 1 then 0 else 1 } else c } }

/-- From STOW the map cache comes back empty and enabled, the test keys are gone and the core request returns (R400). -/
def stowRestored (s : State) : State :=
  if s.pwr.state = 3 then requestTo (domainsBack s).pwr.vreqKept (reloadKeys { domainsBack s with
    mch := { (domainsBack s).mch with lines := [], fills := [], invDone := true, enable := true } }) else domainsBack s

theorem restoreDomains_eq (s : State) : restoreDomains s = takePending (dropFloors s.pwr.fromState (stowRestored s)) := rfl

theorem pwr_domainsBack (s : State) : (domainsBack s).pwr = { s.pwr with
    state := s.pwr.fromState, phase := 0, target := 0, exitCause := none, retained := false, dirtyCap := none
    holdLists := [[], []] } := by
  have hdropped := (proj_of_released State.pwr (dropHoldLists_released s) :)
  rw [domainsBack, hdropped]

theorem channels_domainsBack (s : State) : ∀ c ∈ (domainsBack s).dmc.chs, c.state ≠ 2 := by
  refine List.forall_mem_map.mpr fun c _ => ?_
  split
  next => nofun
  next h => exact h

theorem stowRestored_exitKept (s : State) : ExitKept (domainsBack s) (stowRestored s) :=
  .ite ((requestTo_exitKept ..).after ⟨rfl, rfl, rfl, rfl, rfl, rfl, rfl⟩) (.refl _)

theorem pwr_stowRestored (s : State) : (stowRestored s).pwr = (domainsBack s).pwr := by
  unfold stowRestored
  split
  · obtain ⟨v, l, c, h⟩ := requestTo_shape (domainsBack s).pwr.vreqKept (reloadKeys { domainsBack s with
      mch := { (domainsBack s).mch with lines := [], fills := [], invDone := true, enable := true } })
    rw [h, reloadKeys]
  · rfl

theorem restoreDomains_exitKept (s : State) : ExitKept (domainsBack s) (restoreDomains s) :=
  (takePending_exitKept _).after ((dropFloors_exitKept ..).after (stowRestored_exitKept s))

/-- With no request waiting, the state is the one from which the entry began (R395). -/
theorem state_restoreDomains (h : s.pwr.pendingReq = none) : (restoreDomains s).pwr.state = s.pwr.fromState := by
  have hpwr : (dropFloors s.pwr.fromState (stowRestored s)).pwr =
      { (domainsBack s).pwr with dozeFloor := false, stowFloor := false } := by rw [pwr_dropFloors, pwr_stowRestored]
  rw [restoreDomains_eq, takePending_none, hpwr, pwr_domainsBack]
  rw [hpwr, pwr_domainsBack]
  exact h

theorem channels_restoreDomains (s : State) : ∀ c ∈ (restoreDomains s).dmc.chs, c.state ≠ 2 := by
  have hback : ∀ n ∈ (domainsBack s).dmc.chs.map (·.state), n ≠ 2 := List.forall_mem_map.mpr (channels_domainsBack s)
  rw [← (restoreDomains_exitKept s).channels] at hback
  exact fun c hc => hback c.state (List.mem_map_of_mem hc)

theorem exec_exitComplete_exits (hdeep : 2 ≤ s.pwr.state) (hphase : s.pwr.phase = 5) :
    exec .exitComplete s = .next (settle (processHeld (leaveDeep s))) :=
  congrArg Host.Outcome.next (if_pos (by simp [hdeep, hphase]))

theorem exec_exitComplete_idle (h : s.pwr.state < 2 ∨ s.pwr.phase ≠ 5) : exec .exitComplete s = .next s :=
  congrArg Host.Outcome.next (if_neg (by simp; omega))

end Sys2Proof.Proofs
end

section
/-! The statement of 12_memory on the wakes from DOZE and STOW and on the end of their exit. -/

namespace Sys2Proof.Proofs

open Sys2Proof Sys2Proof.Machine Sys2Proof.Laws Sys2Proof.Safety

/-- Settles O26: each wake by what the first wake leaves (`pwr_wake_asleep`); the exit by what its steps keep of the state
with the domains back (`restoreDomains_exitKept`). -/
theorem wakesAndExits : Obligations.WakesAndExits := by
  unfold Obligations.WakesAndExits
  refine ⟨fun l p s hphase => ⟨fun hdoze => ?_, fun hdeep => ?_, fun hdeep hlink hlive => ?_, fun hawake =>
    ⟨exec_timerWake_awake hawake, exec_frameWake_awake hawake l⟩⟩, fun s => ⟨fun hdeep hphase =>
    ⟨exec_exitComplete_exits hdeep hphase, restoreDomains s, exec_exitComplete_exits hdeep hphase, ?_⟩,
    exec_exitComplete_idle⟩⟩
  · refine ⟨_, exec_timerWake_doze hdoze, ?_⟩
    rw [pwr_wake_asleep (by omega) hphase]
    exact ⟨rfl, rfl, rfl, rfl, hdoze⟩
  · have htallied := (proj_of_recorded State.pwr (tally_recorded noInst 0x0103 (96 + p.val) 1 s) :)
    refine ⟨_, rfl, ?_⟩
    rw [pwr_wake_asleep (by rwa [htallied]) (by rwa [htallied]), htallied]
    exact ⟨rfl, rfl, Nat.mod_eq_of_lt (by omega), rfl⟩
  · refine ⟨_, exec_frameWake_linkUp hlink hlive, ?_⟩
    rw [pwr_wake_asleep hdeep hphase]
    exact ⟨rfl, rfl, Nat.mod_eq_of_lt (by omega), rfl⟩
  · obtain ⟨hphase, hholds, hlanded, hmedia, -, hjrn, hmed⟩ := restoreDomains_exitKept s
    rw [pwr_domainsBack] at hphase hholds hlanded
    have hreleased := dropHoldLists_released s
    exact ⟨hphase, hmedia, hholds, hlanded, channels_restoreDomains s, state_restoreDomains,
      hjrn.trans (proj_of_released State.jrn hreleased :), hmed.trans (proj_of_released State.med hreleased :)⟩

end Sys2Proof.Proofs
end

section
/-! SUPPORT. The map cache (R341–R349) by case: the writes of MCH_CTRL and MCH_MAINT, a fill and an eviction that end, the
maintenance of one line, and the lock of a way. -/

namespace Sys2Proof.Proofs

open Sys2Proof Sys2Proof.Machine Sys2Proof.Laws Sys2Proof.Safety

variable {s : State} {v op line way : Nat}

/-! ### MCH_CTRL (R342) -/

/-- ENABLE of a write of MCH_CTRL: it takes effect only behind a full invalidate (R342). -/
def enableWritten (v : Nat) (s : State) : State :=
  if bit v 0 && !s.mch.invDone then regRefused 0x00800000 v s else { s with mch := { s.mch with enable := bit v 0 } }

theorem mchCtrl_eq (v : Nat) (s : State) :
    mchCtrl v s = if bit v 1 then mchInvall (enableWritten v s) else enableWritten v s := rfl

theorem mchCtrl_refused (hinv : bit v 1 = false) (hen : bit v 0 = true) (hdone : s.mch.invDone = false) :
    mchCtrl v s = regRefused 0x00800000 v s := by
  rw [mchCtrl_eq, if_neg (Bool.eq_false_iff.mp hinv)]
  exact if_pos (by simp [hen, hdone])

theorem mchCtrl_enables (hinv : bit v 1 = false) (h : bit v 0 = false ∨ s.mch.invDone = true) :
    mchCtrl v s = { s with mch := { s.mch with enable := bit v 0 } } := by
  rw [mchCtrl_eq, if_neg (Bool.eq_false_iff.mp hinv)]
  exact if_neg (by rcases h with h | h <;> simp [h])

/-- ENABLE leaves the lines, the scratch ways and the locks of the HWTs. -/
theorem enableWritten_leaves (v : Nat) (s : State) : (enableWritten v s).mch.lines = s.mch.lines ∧
    (enableWritten v s).mch.locked = s.mch.locked ∧ hwtLocked (enableWritten v s) = hwtLocked s := by
  unfold enableWritten
  split
  · have hrec := notice_recorded kRegRefused [] { s with mgmt := { s.mgmt with err := true } }
    exact ⟨(proj_of_recorded (fun u => u.mch.lines) hrec :), (proj_of_recorded (fun u => u.mch.locked) hrec :),
      (proj_of_recorded hwtLocked hrec :)⟩
  · exact ⟨rfl, rfl, rfl⟩

theorem mchInvall_fills (s : State) : ∀ f ∈ (mchInvall s).mch.fills, f.2 = true :=
  List.forall_mem_map.mpr fun _ _ => rfl

/-- INVALL keeps the lines that a scratch way or an HWT holds (R342, R346). -/
theorem mem_lines_mchInvall (q : Nat × Line) (s : State) : q ∈ (mchInvall s).mch.lines ↔
    q ∈ s.mch.lines ∧ (s.mch.locked.testBit q.2.way = true ∨ hwtLocked s q.1 = true) := by
  simp only [mchInvall, List.mem_filter, Bool.or_eq_true]

/-! ### Fills (R344, R346, R348) -/

/-- The requester of a line has its data: the fill is no longer in progress. -/
def fillTaken (line : Nat) (s : State) : State :=
  { s with mch := { s.mch with fills := s.mch.fills.filter fun f => f.1 != line } }

theorem fillTaken_fills (line : Nat) (s : State) : ∀ f ∈ (fillTaken line s).mch.fills, f.1 ≠ line := fun f hf => by
  simpa using (List.mem_filter.mp hf).2

theorem fillComplete_noInstall (h : s.mch.fills.any (fun f => f.1 = line && f.2) = true) (part poison : Nat) (write : Bool) :
    fillComplete part line way poison write s = tally noInst 0x0104 (5 * part + 4) 1 (fillTaken line s) := if_pos h

theorem fillComplete_installs (h : s.mch.fills.any (fun f => f.1 = line && f.2) = false) (part poison : Nat) (write : Bool) :
    fillComplete part line way poison write s = installLine line ⟨part, way, write, poison⟩ (fillTaken line s) :=
  if_neg (Bool.eq_false_iff.mp h)

/-- An install does not touch the fills in progress. -/
theorem fills_installLine (line : Nat) (l : Line) (s : State) : (installLine line l s).mch.fills = s.mch.fills := by
  have hevict : ∀ q x, (evictLine q x s).mch.fills = s.mch.fills := fun q x => by
    unfold evictLine
    dsimp only
    split <;> rfl
  unfold installLine
  split
  · rfl
  · split
    · rfl
    next q x _ =>
      split
      · rfl
      · split
        · rfl
        · split
          · rfl
          · exact hevict q x

/-- No line is installed while the cache is off, in a way of another partition, or in a scratch way (R343, R346). -/
theorem installLine_noWay {l : Line} (h : s.mch.enable = false ∨ (nthNat s.mch.ways l.part).testBit l.way = false ∨
    s.mch.locked.testBit l.way = true) : installLine line l s = s :=
  if_pos (by rcases h with h | h | h <;> simp [h])

section
variable {l : Line} (hen : s.mch.enable = true) (hpart : (nthNat s.mch.ways l.part).testBit l.way = true)
  (hscratch : s.mch.locked.testBit l.way = false)
include hen hpart hscratch

theorem installLine_free (hfree : occupant s (setIdx line) l.way = none) : installLine line l s = putLine line l s := by
  unfold installLine
  rw [hen, hpart, hscratch, hfree]
  rfl

/-- A line that an HWT has locked keeps its way (R346). -/
theorem installLine_held {q : Nat} {x : Line} (hheld : occupant s (setIdx line) l.way = some (q, x)) (hne : q ≠ line)
    (hlocked : hwtLocked s q = true) : installLine line l s = s := by
  unfold installLine
  rw [hen, hpart, hscratch, hheld]
  exact (if_neg hne).trans (if_pos hlocked)

end

/-! ### Evictions (R349) -/

theorem map_fst_issueHead (b : List (Nat × Bool)) : (issueHead b).map Prod.fst = b.map Prod.fst := by cases b <;> rfl

/-- A writeback that ends takes its line out of the eviction buffer. -/
theorem evict_evictDone {part : Nat} {b : List (Nat × Bool)} (h : s.mch.evict[part]? = some b) (line : Nat) :
    ((evictDone part line s).mch.evict[part]?).map (List.map Prod.fst) = some ((b.map Prod.fst).filter (· != line)) := by
  rw [evictDone, getElem?_modNth, if_pos rfl, h, Option.map_some, Option.map_some, map_fst_issueHead, List.filter_map]
  rfl

/-! ### Maintenance of one line (R346, R348) -/

theorem maintLine_waits (h : hwtLocked s line = true) (op : Nat) : maintLine op line s =
    { s with mch := { s.mch with waiting := s.mch.waiting ++ [(line, op)] } } := if_pos h

theorem maintLine_cleans (h : hwtLocked s line = false) : maintLine 1 line s = cleanLine line s :=
  if_neg (Bool.eq_false_iff.mp h)

theorem maintLine_invalidates (h : hwtLocked s line = false) : maintLine 2 line s = invalLine line s :=
  if_neg (Bool.eq_false_iff.mp h)

theorem maintLine_cleansAndInvalidates (h : hwtLocked s line = false) :
    maintLine 3 line s = invalLine line (cleanLine line s) := if_neg (Bool.eq_false_iff.mp h)

theorem lineOf_cleanLine_self (line : Nat) (s : State) :
    lineOf (cleanLine line s) line = (lineOf s line).map fun l => { l with dirty := false } := by
  simp only [lineOf, cleanLine, amGet?_amModify_self]

theorem lineOf_cleanLine_ne {q : Nat} (h : q ≠ line) (s : State) : lineOf (cleanLine line s) q = lineOf s q := by
  simp only [lineOf, cleanLine, amGet?_amModify_ne _ _ _ _ h]

theorem lineOf_invalLine_self (line : Nat) (s : State) : lineOf (invalLine line s) line = none := amGet?_amErase_self ..

theorem lineOf_invalLine_ne {q : Nat} (h : q ≠ line) (s : State) : lineOf (invalLine line s) q = lineOf s q :=
  amGet?_amErase_ne _ _ _ h

/-- A fill of a line that is invalidated is marked NO_INSTALL (R348). -/
theorem fills_invalLine (line : Nat) (s : State) : ∀ f ∈ (invalLine line s).mch.fills, f.1 = line → f.2 = true := by
  refine List.forall_mem_map.mpr fun f _ => ?_
  split
  next => exact fun _ => rfl
  next h => exact fun hline => absurd hline h

/-- Maintenance of a line writes no record and locks no way. -/
theorem maintLine_leaves (op line : Nat) (s : State) :
    (maintLine op line s).mch.locked = s.mch.locked ∧ (maintLine op line s).obs = s.obs := by
  unfold maintLine
  split
  · exact ⟨rfl, rfl⟩
  · dsimp only
    split <;> split <;> exact ⟨rfl, rfl⟩

theorem foldl_maintLine_leaves (op : Nat) (l : List Nat) (s : State) :
    (l.foldl (fun s q => maintLine op q s) s).mch.locked = s.mch.locked ∧
      (l.foldl (fun s q => maintLine op q s) s).obs = s.obs :=
  List.foldlRecOn l _ (motive := fun u : State => u.mch.locked = s.mch.locked ∧ u.obs = s.obs) ⟨rfl, rfl⟩
    fun u ⟨hlocked, hobs⟩ q _ =>
      have ⟨klocked, kobs⟩ := maintLine_leaves op q u
      ⟨klocked.trans hlocked, kobs.trans hobs⟩

/-! ### MCH_MAINT (R348) -/

/-- BY_WAY and WAY of a write of MCH_MAINT. -/
def maintSelected (v : Nat) (s : State) : State := { s with mch := { s.mch with byWay := bit v 2, way := bits v 3 4 } }

theorem mchMaint_scratch (hop : bits v 0 2 ≠ 0) (hway : bit v 2 = true) (h : s.mch.locked.testBit (bits v 3 4) = true) :
    mchMaint v s = regRefused 0x00800024 v s := if_pos (by simp [hop, hway, h])

/-- What a write of MCH_MAINT that is not refused does. -/
theorem mchMaint_taken (h : bits v 0 2 = 0 ∨ bit v 2 = false ∨ s.mch.locked.testBit (bits v 3 4) = false) : mchMaint v s =
    if bits v 0 2 = 0 then maintSelected v s
    else if bit v 2 then (wayLines (maintSelected v s) (bits v 3 4)).foldl (fun s q => maintLine (bits v 0 2) q s)
      (maintSelected v s)
    else maintLine (bits v 0 2) (s.mch.maddr / 128 * 128) (maintSelected v s) :=
  if_neg (by rcases h with h | h | h <;> simp [h])

theorem mchMaint_noOp (hop : bits v 0 2 = 0) : mchMaint v s = maintSelected v s := by
  rw [mchMaint_taken (.inl hop), if_pos hop]

theorem mchMaint_way (hop : bits v 0 2 ≠ 0) (hway : bit v 2 = true) (h : s.mch.locked.testBit (bits v 3 4) = false) :
    mchMaint v s = (wayLines (maintSelected v s) (bits v 3 4)).foldl (fun s q => maintLine (bits v 0 2) q s)
      (maintSelected v s) := by
  rw [mchMaint_taken (.inr (.inr h)), if_neg hop, if_pos hway]

theorem mchMaint_line (hop : bits v 0 2 ≠ 0) (hway : bit v 2 = false) :
    mchMaint v s = maintLine (bits v 0 2) (s.mch.maddr / 128 * 128) (maintSelected v s) := by
  rw [mchMaint_taken (.inr (.inl hway)), if_neg hop, if_neg (Bool.eq_false_iff.mp hway)]

section
variable (hway : bit v 2 = false) (hfree : hwtLocked s (s.mch.maddr / 128 * 128) = false)
include hway hfree

theorem mchMaint_cleans (hop : bits v 0 2 = 1) :
    mchMaint v s = cleanLine (s.mch.maddr / 128 * 128) (maintSelected v s) := by
  rw [mchMaint_line (by omega) hway, hop]
  exact maintLine_cleans (s := maintSelected v s) hfree

theorem mchMaint_invalidates (hop : bits v 0 2 = 2) :
    mchMaint v s = invalLine (s.mch.maddr / 128 * 128) (maintSelected v s) := by
  rw [mchMaint_line (by omega) hway, hop]
  exact maintLine_invalidates (s := maintSelected v s) hfree

theorem mchMaint_cleansAndInvalidates (hop : bits v 0 2 = 3) : mchMaint v s =
    invalLine (s.mch.maddr / 128 * 128) (cleanLine (s.mch.maddr / 128 * 128) (maintSelected v s)) := by
  rw [mchMaint_line (by omega) hway, hop]
  exact maintLine_cleansAndInvalidates (s := maintSelected v s) hfree

end

/-! ### Scratch ways (R343) -/

theorem mchLockWay_again (h : s.mch.locked.testBit way = true) : mchLockWay way s = s := if_pos h

theorem mchLockWay_ninth (hnew : s.mch.locked.testBit way = false) (h : 8 ≤ popCount 16 s.mch.locked) :
    mchLockWay way s = notice kMemory [] s :=
  (if_neg (Bool.eq_false_iff.mp hnew)).trans (if_pos (by simp [h]))

/-- The state in which the lines of a way have been taken out by CLEAN_INVAL, before it is locked. -/
def wayEmptied (way : Nat) (s : State) : State := (wayLines s way).foldl (fun s q => maintLine 3 q s) s

theorem mchLockWay_locks (hnew : s.mch.locked.testBit way = false) (hfew : popCount 16 s.mch.locked < 8)
    (hkeep : ∀ m ∈ s.mch.ways, 2 ≤ usableWays { s with mch := { s.mch with locked := setBit s.mch.locked way true } } m) :
    mchLockWay way s = { wayEmptied way s with
      mch := { (wayEmptied way s).mch with locked := setBit (wayEmptied way s).mch.locked way true } } := by
  refine (if_neg (Bool.eq_false_iff.mp hnew)).trans (if_neg ?_)
  have hnone : ∀ m ∈ s.mch.ways,
      ¬ usableWays { s with mch := { s.mch with locked := setBit s.mch.locked way true } } m < 2 :=
    fun m hm => Nat.not_lt.mpr (hkeep m hm)
  simpa [hfew] using hnone

end Sys2Proof.Proofs
end

section
/-! The statement of 12_memory on the map cache. -/

namespace Sys2Proof.Proofs

open Sys2Proof Sys2Proof.Machine Sys2Proof.Laws Sys2Proof.Safety

/-- Settles O55: every write and completion by its case; INVALL by the lines it keeps (`mem_lines_mchInvall`), a fill by
whether a way takes its line (`installLine_noWay`, `installLine_free`, `installLine_held`), a maintenance operation by what
reads of the line give after it. -/
theorem mapCacheLinesAndMaintenance : Obligations.MapCacheLinesAndMaintenance := by
  unfold Obligations.MapCacheLinesAndMaintenance
  refine ⟨?_, ?_⟩
  · rintro part line way poison write v s a rfl
    refine ⟨rfl, fun hinv hen hdone => ?_, fun hinv h => ?_, fun hinv => ?_, fun hmarked => ?_, fun hinstall => ?_, ?_⟩
    · exact congrArg Host.Outcome.next (mchCtrl_refused hinv hen hdone)
    · exact congrArg Host.Outcome.next (mchCtrl_enables hinv h)
    · obtain ⟨hlines, hlocked, hhwt⟩ := enableWritten_leaves v.toNat s
      refine ⟨_, congrArg Host.Outcome.next ((mchCtrl_eq ..).trans (if_pos hinv)), rfl, mchInvall_fills _, fun q => ?_⟩
      rw [mem_lines_mchInvall, hlines, hlocked, hhwt]
    · refine ⟨_, congrArg Host.Outcome.next (fillComplete_noInstall hmarked ..), ?_⟩
      rw [proj_of_recorded State.mch (tally_recorded ..)]
      exact ⟨rfl, fillTaken_fills _ s⟩
    · refine ⟨_, congrArg Host.Outcome.next (fillComplete_installs hinstall ..), ?_, fun hno => ?_,
        fun hen hpart hscratch => ⟨fun hfree => ?_, fun q l hheld hne hlocked => ?_⟩⟩
      · rw [fills_installLine]
        exact fillTaken_fills _ s
      · rw [installLine_noWay (s := fillTaken _ s) (l := ⟨_, _, _, _⟩) hno]
        exact ⟨rfl, rfl⟩
      · rw [installLine_free (s := fillTaken _ s) (l := ⟨_, _, _, _⟩) hen hpart hscratch hfree]
        exact ⟨amGet?_amSet_self .., rfl⟩
      · rw [installLine_held (s := fillTaken _ s) (l := ⟨_, _, _, _⟩) hen hpart hscratch hheld hne hlocked]
        rfl
    · exact ⟨_, rfl, rfl, fun b hb => evict_evictDone hb _⟩
  · rintro v way s u a rfl rfl
    refine ⟨⟨rfl, rfl⟩, fun hop hway h => ?_, fun hop => ?_, fun hway hop h => ?_, fun hlocked hway hop => ?_,
      fun hfree hway => ⟨fun hop => ?_, fun hop => ?_, fun hop => ?_⟩, fun h => ?_, fun hnew h => ?_,
      fun hnew hfew hkeep => ?_⟩
    · exact congrArg Host.Outcome.next (mchMaint_scratch hop hway h)
    · exact congrArg Host.Outcome.next (mchMaint_noOp hop)
    · exact congrArg Host.Outcome.next (mchMaint_way hop hway h)
    · exact congrArg Host.Outcome.next ((mchMaint_line hop hway).trans
        (maintLine_waits (s := maintSelected v.toNat s) hlocked _))
    · refine ⟨_, congrArg Host.Outcome.next (mchMaint_cleans hway hfree hop), rfl, fun l hl => ?_, fun hnone => ?_,
        fun q hq => ?_⟩
      · exact (lineOf_cleanLine_self ..).trans (congrArg _ hl)
      · exact (lineOf_cleanLine_self ..).trans (congrArg _ hnone)
      · exact lineOf_cleanLine_ne hq _
    · exact ⟨_, congrArg Host.Outcome.next (mchMaint_invalidates hway hfree hop), lineOf_invalLine_self ..,
        fills_invalLine _ _, fun q hq => lineOf_invalLine_ne hq _⟩
    · exact ⟨_, congrArg Host.Outcome.next (mchMaint_cleansAndInvalidates hway hfree hop), lineOf_invalLine_self ..,
        fills_invalLine _ _, fun q hq => (lineOf_invalLine_ne hq _).trans (lineOf_cleanLine_ne hq _)⟩
    · exact congrArg Host.Outcome.next (mchLockWay_again h)
    · exact congrArg Host.Outcome.next (mchLockWay_ninth hnew h)
    · obtain ⟨hlocked, hobs⟩ := foldl_maintLine_leaves 3 (wayLines s way.val) s
      exact ⟨_, congrArg Host.Outcome.next (mchLockWay_locks hnew hfew hkeep), congrArg (setBit · way.val true) hlocked, hobs⟩

end Sys2Proof.Proofs
end

section
/-! SUPPORT. The commands of the code flash (R356–R369): how each port hands one on, what an operation that begins leaves, and what
a READ gives. -/

namespace Sys2Proof.Proofs

open Sys2Proof Sys2Proof.Machine Sys2Proof.Laws Sys2Proof.Safety

variable {s t : State} {bank sector granule : Nat} {fetch : Option Nat}

/-! ### The manager's port (R361) -/

/-- CFL_STATUS with the result of the command before cleared. -/
def cmdTaken (s : State) : State := { s with cfl := { s.cfl with done := false, result := 0, detail := 0 } }

/-- The operation of a command that the manager's port takes. -/
def managerOp (op : Nat) (sigOk : Bool) (ecc : CflEcc) (s : State) : State :=
  if op = 1 then cflProgram true (some s.cfl.running) s.cfl.bank s.cfl.sector s.cfl.granule s.cfl.buf s
  else if op = 2 then cflErase true (some s.cfl.running) s.cfl.bank s.cfl.sector s
  else if op = 3 then cflEraseBank true (some s.cfl.running) s.cfl.bank s
  else if op = 4 then cflRead true s.cfl.bank s.cfl.sector s.cfl.granule ecc s
  else if op = 5 then cflVerify true s.cfl.bank sigOk s
  else cflActivate true (some s.cfl.running) s.cfl.bank s

theorem cflCmd_refused {v : Nat} (h : bits v 16 16 ≠ 0xCF1A ∨ bits v 0 4 = 0 ∨ 6 < bits v 0 4 ∨ s.cfl.busy = true)
    (sigOk : Bool) (ecc : CflEcc) : cflCmd v sigOk ecc s = regRefused 0x0060000C v s := if_pos (by simpa [or_assoc] using h)

/-- With its key, an operation that exists and none before it running, a command is taken. -/
theorem cflCmd_taken {v op : Nat} (hkey : bits v 16 16 = 0xCF1A) (hidle : s.cfl.busy = false) (hop : bits v 0 4 = op)
    (hlo : 1 ≤ op) (hhi : op ≤ 6) (sigOk : Bool) (ecc : CflEcc) :
    cflCmd v sigOk ecc s = managerOp op sigOk ecc (cmdTaken s) := by
  subst hop
  exact if_neg (by simp [hkey, hidle]; omega)

/-! ### Units and headers -/

@[simp] theorem op_setOp_self (bank : Nat) (o : Option CflOp) (s : State) : (cflUnit (setOp bank o s) bank).op = o := by
  unfold setOp modUnit cflUnit
  by_cases h : bank = 0
  · simp [h]
  · simp [h]

/-- A change of a bank's operation changes its unit alone. -/
theorem setOp_shape (bank : Nat) (o : Option CflOp) (s : State) : ∃ a b,
    setOp bank o s = { s with cfl := { s.cfl with unit0 := a, unit1 := b } } := by
  unfold setOp modUnit
  split
  · exact ⟨_, s.cfl.unit1, rfl⟩
  · exact ⟨s.cfl.unit0, _, rfl⟩

theorem cflHdr_setHdr_self (bank sector : Nat) (f : SectorHdr → SectorHdr) (s : State) :
    cflHdr (setHdr bank sector f s) bank sector = f (cflHdr s bank sector) := memSet_read_self ..

/-! ### Operations that are refused (R361, Table CF-5) -/

theorem cflRefusal_self (h : bankSelf s fetch bank = true) (kind sector granule : Nat) :
    cflRefusal s kind fetch bank sector granule = 1 := if_pos h

theorem cflProgram_refused (h : cflRefusal s 1 fetch bank sector granule ≠ 0) (mgr : Bool) (data : BitVec 2048) :
    cflProgram mgr fetch bank sector granule data s = cflEnd mgr (cflRefusal s 1 fetch bank sector granule) 0 s :=
  if_pos (by simpa using h)

theorem cflErase_refused (h : cflRefusal s 2 fetch bank sector 0 ≠ 0) (mgr : Bool) :
    cflErase mgr fetch bank sector s = cflEnd mgr (cflRefusal s 2 fetch bank sector 0) 0 s := if_pos (by simpa using h)

theorem cflEraseBank_self (h : bankSelf s fetch bank = true) (mgr : Bool) :
    cflEraseBank mgr fetch bank s = cflEnd mgr 1 0 s := by
  have hrefused := cflRefusal_self h 3 127 0
  rw [cflEraseBank, hrefused]
  rfl

/-! ### Operations that begin (R358, R359, R369) -/

/-- An operation has begun in its bank, and no granule has changed; one of the manager's port shows BUSY. -/
structure Begun (o : CflOp) (s t : State) : Prop where
  op : (cflUnit t o.bank).op = some o
  busy : t.cfl.busy = (s.cfl.busy || o.mgr)
  mem : t.cfl.mem = s.cfl.mem

/-- A program or an erase of a bank voids its VERIFY; one of the manager's port is BUSY. -/
def claimed (mgr : Bool) (bank : Nat) (s : State) : State :=
  { s with cfl := { s.cfl with
    busy := s.cfl.busy || mgr, verified := modNth s.cfl.verified bank fun _ => false } }

/-- The operation takes its unit, and what it changes of a header is no granule. -/
theorem begun_claimed (o : CflOp) (sector : Nat) (f : SectorHdr → SectorHdr) (s : State) :
    Begun o s (setHdr o.bank sector f (setOp o.bank (some o) (claimed o.mgr o.bank s))) := by
  refine ⟨op_setOp_self .., ?_, ?_⟩
  all_goals
    obtain ⟨a, b, h⟩ := setOp_shape o.bank (some o) (claimed o.mgr o.bank s)
    rw [h]
    rfl

theorem cflProgram_begins (hok : cflRefusal s 1 fetch bank sector granule = 0) (hidle : (cflUnit s bank).op = none)
    (mgr : Bool) (data : BitVec 2048) :
    Begun (newCflOp 1 mgr bank sector granule data s.quartz) s (cflProgram mgr fetch bank sector granule data s) ∧
      (cflHdr (cflProgram mgr fetch bank sector granule data s) bank sector).usedM = .set := by
  have hidle' : (cflUnit (claimed mgr bank s) bank).op = none := hidle
  have hbegun : cflProgram mgr fetch bank sector granule data s = setHdr bank sector (fun h => { h with usedM := .set })
      (setOp bank (some (newCflOp 1 mgr bank sector granule data s.quartz)) (claimed mgr bank s)) := by
    rw [claimed] at hidle' ⊢
    simp only [cflProgram, hok, bne_self_eq_false, Bool.false_eq_true, if_false, hidle']
    rfl
  rw [hbegun]
  refine ⟨begun_claimed (newCflOp 1 mgr bank sector granule data s.quartz) .., ?_⟩
  rw [cflHdr_setHdr_self]

theorem cflErase_begins (hok : cflRefusal s 2 fetch bank sector 0 = 0) (mgr : Bool) :
    Begun (newCflOp 2 mgr bank sector 0 0 s.quartz) s (cflErase mgr fetch bank sector s) ∧
      (cflHdr (cflErase mgr fetch bank sector s) bank sector).openM = .set := by
  have hbegun : cflErase mgr fetch bank sector s = setHdr bank sector (fun h => { h with openM := .set })
      (setOp bank (some (newCflOp 2 mgr bank sector 0 0 s.quartz)) (claimed mgr bank s)) := if_neg (by simp [hok])
  rw [hbegun]
  refine ⟨begun_claimed (newCflOp 2 mgr bank sector 0 0 s.quartz) .., ?_⟩
  rw [cflHdr_setHdr_self]

/-- An ERASE_BANK begins with the first sector that is not ERASED (R369). -/
theorem cflEraseBank_begins {n : Nat} (hok : cflRefusal s 3 fetch bank 127 0 = 0) (hnext : nextSector s bank 0 = some n)
    (mgr : Bool) : Begun (newCflOp 3 mgr bank n 0 0 s.quartz) s (cflEraseBank mgr fetch bank s) ∧
      (cflHdr (cflEraseBank mgr fetch bank s) bank n).openM = .set := by
  have hbegun : cflEraseBank mgr fetch bank s = setHdr bank n (fun h => { h with openM := .set })
      (setOp bank (some (newCflOp 3 mgr bank n 0 0 s.quartz)) (claimed mgr bank s)) := by
    simp only [cflEraseBank, hok, bne_self_eq_false, Bool.false_eq_true, if_false, hnext]
    rfl
  rw [hbegun]
  refine ⟨begun_claimed (newCflOp 3 mgr bank n 0 0 s.quartz) .., ?_⟩
  rw [cflHdr_setHdr_self]

/-! ### READ (R356, R362, R367) -/

theorem cflRead_idle (h : (cflUnit s bank).op = none) (mgr : Bool) (sector granule : Nat) (ecc : CflEcc) :
    cflRead mgr bank sector granule ecc s = serveRead mgr bank sector granule ecc s := by
  simp only [cflRead, h]

theorem cfl_cflCorrected (s : State) : (cflCorrected s).cfl = { s.cfl with
    ce := (s.cfl.ce + 1) % 2 ^ 32, ceOvf := s.cfl.ceOvf || decide (s.cfl.ce = 0xFFFFFFFF) } := by
  unfold cflCorrected
  dsimp only
  split
  · exact (proj_of_recorded State.cfl (notice_recorded ..) :)
  · rfl

theorem cfl_drawGran (s : State) : (drawGran s).2.cfl = s.cfl := by rw [drawGran_snd]

theorem cfl_readGran (bank sector granule : Nat) (s : State) : (readGran bank sector granule s).2.cfl = s.cfl := by
  unfold readGran
  split
  · rfl
  · split
    · exact cfl_drawGran s
    · rfl

/-- A sector that holds its data gives the granule at rest while its bank is idle. -/
theorem readGran_atRest (hdata : sector < 127) (hopen : (cflHdr s bank sector).openM = .blank)
    (hidle : (cflUnit s bank).op = none) (granule : Nat) :
    readGran bank sector granule s = (granAt s bank sector granule, s) := by
  unfold readGran
  rw [if_neg (by omega), if_neg (by simp [hopen, midProgram, hidle])]

/-- What the words' check finds counts in CFL_CE where it corrects, and changes the code flash no further (R356). -/
theorem cfl_eccGran (ecc : CflEcc) (bank sector granule : Nat) (s : State) :
    (eccGran ecc bank sector granule s).2.cfl = { s.cfl with
      ce := if ecc = .corrected then (s.cfl.ce + 1) % 2 ^ 32 else s.cfl.ce
      ceOvf := if ecc = .corrected then s.cfl.ceOvf || decide (s.cfl.ce = 0xFFFFFFFF) else s.cfl.ceOvf } := by
  cases ecc with
  | clean => exact cfl_readGran ..
  | corrected => exact (cfl_readGran ..).trans (cfl_cflCorrected s)
  | uncorrectable => exact cfl_drawGran s

/-- Words that are clean or corrected give the granule at rest. -/
theorem eccGran_atRest {ecc : CflEcc} (hecc : ecc ≠ .uncorrectable) (hdata : sector < 127)
    (hopen : (cflHdr s bank sector).openM = .blank) (hidle : (cflUnit s bank).op = none) (granule : Nat) :
    (eccGran ecc bank sector granule s).1 = granAt s bank sector granule := by
  cases ecc with
  | clean => rw [eccGran, readGran_atRest hdata hopen hidle]
  | corrected =>
    have hcfl := cfl_cflCorrected s
    rw [eccGran, readGran_atRest hdata]
    · rw [granAt, hcfl, granAt]
    · rw [cflHdr, hcfl]
      exact hopen
    · rw [cflUnit, hcfl]
      exact hidle
  | uncorrectable => exact absurd rfl hecc

/-- A granule that may be read reaches CFL_BUF at the manager's port. -/
theorem cfl_serveRead_manager (h : inXo s bank sector = false) (granule : Nat) (ecc : CflEcc) :
    (serveRead true bank sector granule ecc s).cfl = { (eccGran ecc bank sector granule s).2.cfl with
      busy := false, done := true, result := 0, detail := 0, buf := (eccGran ecc bank sector granule s).1 } := by
  rw [serveRead, h]
  rfl

theorem cfl_serveRead_firmware (h : inXo s bank sector = false) (granule : Nat) (ecc : CflEcc) :
    (serveRead false bank sector granule ecc s).cfl =
      { (eccGran ecc bank sector granule s).2.cfl with fwResult := 0 } := by
  rw [serveRead, h]
  rfl

/-- A READ in an execute-only region ends with result 6 and one record (R367). -/
theorem serveRead_hidden (h : inXo s bank sector = true) (mgr : Bool) (granule : Nat) (ecc : CflEcc) :
    serveRead mgr bank sector granule ecc s = cflEnd mgr 6 0 (notice kCodeFlash []
      (if mgr then { s with cfl := { s.cfl with buf := 0 } } else s)) := if_pos h

theorem cfl_notice (code : Nat) (args : List Nat) (s : State) : (notice code args s).cfl = s.cfl :=
  (proj_of_recorded State.cfl (notice_recorded ..) :)

/-! ### ACTIVATE (R369) -/

theorem cflActivate_unverified (hbank : bankSelf s fetch bank = false) (hidle : (cflUnit s bank).op = none)
    (hverified : s.cfl.verified.getD bank false = false) (mgr : Bool) :
    cflActivate mgr fetch bank s = cflEnd mgr 0xC 0 s := by
  rw [cflActivate, if_neg (by simp [hbank]), if_neg (by simp [hidle]), if_pos (by rw [hverified]; rfl)]

theorem cflActivate_verified (hbank : bankSelf s fetch bank = false) (hidle : (cflUnit s bank).op = none)
    (hverified : s.cfl.verified.getD bank false = true) (mgr : Bool) : cflActivate mgr fetch bank s =
      setOp bank (some (newCflOp 6 mgr bank 0 0 0 s.quartz)) { s with cfl := { s.cfl with busy := s.cfl.busy || mgr } } := by
  rw [cflActivate, if_neg (by simp [hbank]), if_neg (by simp [hidle]), if_neg (by rw [hverified]; nofun)]

end Sys2Proof.Proofs
end

section
/-! The statement of 13_code_flash: the commands of the code flash at both ports. -/

namespace Sys2Proof.Proofs

open Sys2Proof Sys2Proof.Machine Sys2Proof.Laws Sys2Proof.Safety

/-- Settles O57: a command of the manager's port is refused or taken (`cflCmd_refused`, `cflCmd_taken`); from there on both ports
begin the same operations, each by its case. -/
theorem codeFlashCommandsAreChecked : Obligations.CodeFlashCommandsAreChecked := by
  unfold Obligations.CodeFlashCommandsAreChecked
  refine ⟨?_, fun f b sec g d ecc s hidle => ⟨fun hok => ?_, fun hok => ?_, fun n hok hnext => ?_, fun hxo => ?_,
    fun hxo => ?_⟩⟩
  · rintro v ok ecc s r b sec g rfl rfl rfl rfl
    refine ⟨fun f hf h => ?_, fun hkey hbusy => ?_⟩
    · simp only [List.mem_cons, List.not_mem_nil, or_false] at hf
      rcases hf with rfl | rfl | rfl | rfl | rfl | rfl
      all_goals exact congrArg Host.Outcome.next (cflCmd_refused h _ _)
    have htaken : ∀ op, 1 ≤ op ∧ op ≤ 6 → bits v.toNat 0 4 = op → ∀ ok ecc,
        cflCmd v.toNat ok ecc s = managerOp op ok ecc (cmdTaken s) := fun op hrange hop =>
      cflCmd_taken hkey hbusy hop hrange.1 hrange.2
    refine ⟨fun hop h => ?_, fun hop h => ?_, fun hop h => ?_, fun hop hok hidle => ?_, fun hop hok => ?_,
      fun n hop hok hnext => ?_, fun hop hidle => ⟨fun hxo => ?_, fun hxo => ?_⟩, fun hop => ?_,
      fun hop hother hidle => ?_⟩
    · exact congrArg Host.Outcome.next ((htaken 1 (by decide) hop ..).trans (cflProgram_refused h ..))
    · exact congrArg Host.Outcome.next ((htaken 2 (by decide) hop ..).trans (cflErase_refused h ..))
    · exact congrArg Host.Outcome.next ((htaken 3 (by decide) hop ..).trans
        (cflEraseBank_self (s := cmdTaken s) (fetch := some s.cfl.running) (decide_eq_true h.symm) true))
    · obtain ⟨⟨hunit, hbusy', hmem⟩, hused⟩ := cflProgram_begins (s := cmdTaken s) hok hidle true s.cfl.buf
      exact ⟨_, _, congrArg Host.Outcome.next (htaken 1 (by decide) hop ..), hunit,
        hbusy'.trans (Bool.or_true _), rfl, rfl, rfl, rfl, rfl, hused, hmem⟩
    · obtain ⟨⟨hunit, hbusy', hmem⟩, hopen⟩ := cflErase_begins (s := cmdTaken s) hok true
      exact ⟨_, _, congrArg Host.Outcome.next (htaken 2 (by decide) hop ..), hunit,
        hbusy'.trans (Bool.or_true _), rfl, rfl, rfl, hopen, hmem⟩
    · obtain ⟨⟨hunit, hbusy', hmem⟩, hopen⟩ := cflEraseBank_begins (s := cmdTaken s) hok hnext true
      exact ⟨_, _, congrArg Host.Outcome.next (htaken 3 (by decide) hop ..), hunit,
        hbusy'.trans (Bool.or_true _), rfl, rfl, rfl, hopen, hmem⟩
    · refine ⟨_, congrArg Host.Outcome.next ((htaken 4 (by decide) hop ..).trans
        (cflRead_idle (s := cmdTaken s) hidle true s.cfl.sector s.cfl.granule ecc)), ?_⟩
      rw [cfl_serveRead_manager (s := cmdTaken s) hxo, cfl_eccGran]
      exact ⟨rfl, rfl, rfl, rfl, rfl, fun hdata hopen hecc => eccGran_atRest (s := cmdTaken s) hecc hdata hopen hidle _,
        fun hecc => if_pos hecc, fun hecc => if_neg hecc⟩
    · refine ⟨_, congrArg Host.Outcome.next ((htaken 4 (by decide) hop ..).trans
        ((cflRead_idle (s := cmdTaken s) hidle ..).trans (serveRead_hidden (s := cmdTaken s) hxo ..))), rfl, rfl, ?_,
        eventAt_seq ..⟩
      exact congrArg Cfl.buf (cfl_notice kCodeFlash [] { cmdTaken s with cfl := { (cmdTaken s).cfl with buf := 0 } })
    · exact ⟨_, congrArg Host.Outcome.next (htaken 5 (by decide) hop ..), rfl, Bool.or_true _, rfl⟩
    · have hbank : bankSelf (cmdTaken s) (some s.cfl.running) s.cfl.bank = false :=
        decide_eq_false fun h => hother h.symm
      refine ⟨fun hverified => ?_, fun hverified => ?_⟩
      · exact congrArg Host.Outcome.next ((htaken 6 (by decide) hop ..).trans
          (cflActivate_unverified hbank hidle hverified true))
      · refine ⟨_, newCflOp 6 true s.cfl.bank 0 0 0 s.quartz, congrArg Host.Outcome.next
          ((htaken 6 (by decide) hop ..).trans (cflActivate_verified hbank hidle hverified true)),
          op_setOp_self .., rfl, rfl, ?_⟩
        obtain ⟨_, _, hshape⟩ := setOp_shape s.cfl.bank (some (newCflOp 6 true s.cfl.bank 0 0 0 s.quartz))
          { cmdTaken s with cfl := { (cmdTaken s).cfl with busy := (cmdTaken s).cfl.busy || true } }
        exact (congrArg (fun u => u.cfl.busy) hshape).trans (Bool.or_true _)
  · obtain ⟨⟨hunit, hbusy, -⟩, -⟩ := cflProgram_begins hok hidle false d
    exact ⟨_, _, rfl, hunit, rfl, rfl, rfl, rfl, rfl, hbusy.trans (Bool.or_false _)⟩
  · obtain ⟨⟨hunit, hbusy, -⟩, hopen⟩ := cflErase_begins hok false
    exact ⟨_, _, rfl, hunit, rfl, rfl, rfl, hopen, hbusy.trans (Bool.or_false _)⟩
  · obtain ⟨⟨hunit, hbusy, -⟩, hopen⟩ := cflEraseBank_begins hok hnext false
    exact ⟨_, _, rfl, hunit, rfl, rfl, rfl, hopen, hbusy.trans (Bool.or_false _)⟩
  · refine ⟨_, congrArg Host.Outcome.next (cflRead_idle hidle false sec.val g.val ecc), ?_⟩
    rw [cfl_serveRead_firmware hxo, cfl_eccGran]
    exact ⟨rfl, rfl, rfl, rfl⟩
  · have hcfl := cfl_notice kCodeFlash [] s
    exact ⟨_, congrArg Host.Outcome.next ((cflRead_idle hidle false sec.val g.val ecc).trans (serveRead_hidden hxo ..)),
      rfl, (congrArg Cfl.buf hcfl :), eventAt_seq ..⟩

end Sys2Proof.Proofs
end

section
/-! SUPPORT. The capture window (R370, R371, R374–R376): how a fault joins it, and what its close on one fault leaves. -/

namespace Sys2Proof.Proofs

open Sys2Proof Sys2Proof.Machine Sys2Proof.Laws Sys2Proof.Safety

variable {s t : State} {f : Fault'} {part : Nat}

/-! ### A fault joins the window (R371, R374) -/

/-- A fault as it joins the window: CONTAIN at least, while its class holds an unrestored fault (R371). -/
def joining (s : State) (part : Nat) (f : Fault') : Fault' :=
  if classHeld s part then { f with severity := max f.severity sevContain } else f

theorem raise_eq (part : Nat) (f : Fault') (s : State) : raise part f s = { s with fcl := { s.fcl with
    window := s.fcl.window ++ [joining s part f]
    windowAt := if s.fcl.window = [] then s.quartz else s.fcl.windowAt } } := by
  simp only [raise, joining, List.isEmpty_iff]

theorem joining_held (h : classHeld s part = true) (f : Fault') :
    joining s part f = { f with severity := max f.severity sevContain } := if_pos h

theorem joining_free (h : classHeld s part = false) (f : Fault') : joining s part f = f := if_neg (by simp [h])

/-- Nothing but its severity changes, and that only upwards. -/
theorem joining_raised (s : State) (part : Nat) (f : Fault') :
    joining s part f = { f with severity := (joining s part f).severity } ∧ f.severity ≤ (joining s part f).severity := by
  cases h : classHeld s part with
  | true =>
    rw [joining_held h]
    exact ⟨rfl, Nat.le_max_left ..⟩
  | false =>
    rw [joining_free h]
    exact ⟨rfl, Nat.le_refl _⟩

/-- The arbiter's order: the higher severity first, the lower source among equals (R374). -/
theorem faultBefore_iff (f g : Fault') : faultBefore f g = true ↔
    g.severity < f.severity ∨ (f.severity = g.severity ∧ f.source ≤ g.source) := by
  simp [faultBefore]

/-! ### One fault of a window (R374–R376) -/

/-- FCL with a fault counted, and captured or counted as a follower (R375). -/
def faultCounted (time : Nat) (simul : Bool) (f : Fault') (s : State) : State :=
  let first := decide (s.fcl.capmin ≤ f.severity) && !s.fcl.firstValid
  let s := { s with fcl := { s.fcl with
    sevcnt := modNth s.fcl.sevcnt (f.severity - 1) satInc
    follow := if decide (s.fcl.capmin ≤ f.severity) && !first then satInc s.fcl.follow else s.fcl.follow } }
  if first then { s with fcl := { s.fcl with
    firstValid := true, fSource := f.source, fSeverity := f.severity, fAccess := f.access, fMaster := f.master
    fSimul := simul, fAddr := f.addr, fTime := time, fSeq := s.obs.seq } } else s

/-- The fault with its record written. -/
def faultRecorded (time : Nat) (simul : Bool) (f : Fault') (s : State) : State :=
  eventAt time f.code f.severity f.source f.inst simul (decide (s.fcl.capmin ≤ f.severity) && !s.fcl.firstValid)
    (faultRecPayload f (faultCounted time simul f s).fcl.follow) (faultCounted time simul f s)

theorem takeFault_eq (time : Nat) (simul : Bool) (f : Fault') (s : State) : takeFault time simul f s =
    let u := if sevDegrade ≤ f.severity && f.severity < sevHalt then wake 3 f.severity (faultRecorded time simul f s)
      else faultRecorded time simul f s
    if f.severity = sevHalt then haltNow u else countNotice f u := rfl

theorem faultCounted_shape (time : Nat) (simul : Bool) (f : Fault') (s : State) : ∃ c,
    faultCounted time simul f s = { s with fcl := c } := by
  unfold faultCounted
  dsimp only
  split
  · exact ⟨_, rfl⟩
  · exact ⟨_, rfl⟩

/-- Counting, capture and record touch FCL, the recorder and the tally alone. -/
theorem faultRecorded_recorded (time : Nat) (simul : Bool) (f : Fault') (s : State) : ∃ c,
    Recorded { s with fcl := c } (faultRecorded time simul f s) := by
  obtain ⟨c, h⟩ := faultCounted_shape time simul f s
  rw [faultRecorded, h]
  exact ⟨c, eventAt_recorded ..⟩

theorem seq_faultRecorded (time : Nat) (simul : Bool) (f : Fault') (s : State) :
    (faultRecorded time simul f s).obs.seq = s.obs.seq + 1 := by
  obtain ⟨c, h⟩ := faultCounted_shape time simul f s
  rw [faultRecorded, eventAt_seq, h]

/-- The first fault at or above CAPMIN is captured, with the SEQ of its record, and is no follower (R375). -/
theorem faultCounted_first (hnone : s.fcl.firstValid = false) (hcap : s.fcl.capmin ≤ f.severity) (time : Nat)
    (simul : Bool) : faultCounted time simul f s = { s with fcl := { s.fcl with
      sevcnt := modNth s.fcl.sevcnt (f.severity - 1) satInc
      firstValid := true, fSource := f.source, fSeverity := f.severity, fAccess := f.access, fMaster := f.master
      fSimul := simul, fAddr := f.addr, fTime := time, fSeq := s.obs.seq } } := by
  simp [faultCounted, hnone, hcap]

/-- While the device is awake a fault above NOTICE and below HALT is counted and recorded, no more (Table FE-1). -/
theorem takeFault_awake (hlo : sevDegrade ≤ f.severity) (hhi : f.severity < sevHalt) (hawake : s.pwr.state < 2)
    (time : Nat) (simul : Bool) : takeFault time simul f s = faultRecorded time simul f s := by
  obtain ⟨c, hrec⟩ := faultRecorded_recorded time simul f s
  have hpwr : (faultRecorded time simul f s).pwr = s.pwr := (proj_of_recorded State.pwr hrec :)
  have hsev : sevNotice < sevDegrade := by decide
  have hnotice : f.severity ≠ sevNotice := by omega
  have hwake : wake 3 f.severity (faultRecorded time simul f s) = faultRecorded time simul f s :=
    wake_awake (by rwa [hpwr]) ..
  rw [takeFault_eq, hwake, ite_self, if_neg (Nat.ne_of_lt hhi)]
  exact if_pos (by simp [hnotice])

/-- A HALT fault stops the device behind its record (R376). -/
theorem takeFault_halt (h : f.severity = sevHalt) (time : Nat) (simul : Bool) :
    takeFault time simul f s = haltNow (faultRecorded time simul f s) := by
  rw [takeFault_eq, h]
  rfl

/-- The window closes on one fault. -/
theorem captureWindowCloseEffect_single (h : s.fcl.window = [f]) : captureWindowCloseEffect s =
    takeFault s.fcl.windowAt false f { s with fcl := { s.fcl with window := [] } } := by
  simp only [captureWindowCloseEffect, h, List.mergeSort_singleton, List.foldl_nil]

theorem settle_halt (h : s.sys.boot = .halt) : settle s = s := if_pos (by rw [h]; rfl)

end Sys2Proof.Proofs
end

section
/-! The statements of 14_faults: the capture window, and HALT. -/

namespace Sys2Proof.Proofs

open Sys2Proof Sys2Proof.Machine Sys2Proof.Laws Sys2Proof.Safety

/-- Settles O17: a fault joins by `raise_eq` as `joining` gives it; the arbiter's order by `faultBefore_iff`. -/
theorem faultsJoinTheWindowInOrder : Obligations.FaultsJoinTheWindowInOrder := by
  unfold Obligations.FaultsJoinTheWindowInOrder
  refine ⟨fun part f s => ?_, fun f g => ⟨?_, faultBefore_iff f g⟩⟩
  · obtain ⟨hsame, hup⟩ := joining_raised s part f
    refine ⟨joining s part f, raise_eq part f s, hsame, hup, fun hfree => joining_free hfree f, fun hheld => ?_⟩
    rw [joining_held hheld]
    exact Nat.le_max_right ..
  · rw [faultBefore_iff, faultBefore_iff]
    omega

/-- Settles O20: the window closes on its one fault (`captureWindowCloseEffect_single`), which is captured with its record, or
stops the device behind it; a clear of FIRST_VALID by the bits written. -/
theorem captureAndHalt : Obligations.CaptureAndHalt := by
  unfold Obligations.CaptureAndHalt
  refine ⟨fun f s hwindow hnone hcap hlo hhi hawake => ?_, fun f s hwindow hhalt => ?_, fun v s => ?_⟩
  · let u : State := { s with fcl := { s.fcl with window := [] } }
    have hrec : Recorded (faultCounted s.fcl.windowAt false f u) (faultRecorded s.fcl.windowAt false f u) :=
      eventAt_recorded ..
    rw [faultCounted_first (s := u) hnone hcap] at hrec
    have hfcl := proj_of_recorded State.fcl hrec
    refine ⟨_, congrArg (Host.Outcome.next ∘ settle) ((captureWindowCloseEffect_single hwindow).trans
      (takeFault_awake (s := u) hlo hhi hawake ..)), ?_⟩
    rw [hfcl]
    exact ⟨rfl, rfl, rfl, rfl, rfl, rfl, rfl, rfl, rfl, rfl, rfl, seq_faultRecorded .., (proj_of_recorded State.insts hrec :),
      rfl⟩
  · let u : State := { s with fcl := { s.fcl with window := [] } }
    obtain ⟨c, hrec⟩ := faultRecorded_recorded s.fcl.windowAt false f u
    have hclose : captureWindowCloseEffect s = haltNow (faultRecorded s.fcl.windowAt false f u) :=
      (captureWindowCloseEffect_single hwindow).trans (takeFault_halt hhalt ..)
    refine ⟨_, congrArg Host.Outcome.next ((congrArg settle hclose).trans (settle_halt rfl)), rfl, rfl, rfl, rfl, rfl, rfl,
      rfl, (proj_of_recorded State.insts hrec :), (proj_of_recorded State.med hrec :),
      (proj_of_recorded State.fuses hrec :), (proj_of_recorded State.wire hrec :), seq_faultRecorded ..⟩
  · refine ⟨fclStatus v.toNat s, rfl, rfl, fun (h : bit v.toNat 0 = true) => ?_, fun (h : bit v.toNat 0 = false) => ?_,
      fun (h : bit v.toNat 1 = true) => ?_, fun (h : bit v.toNat 1 = false) => ?_⟩
    all_goals simp [fclStatus, h]

end Sys2Proof.Proofs
end

section
/-! SUPPORT. Requests for a power state and the idle policy (R393–R396, R401): what a write of PWR_REQ leads to, by case, what an
entry begins with, and what the exit of TRIM leaves. -/

namespace Sys2Proof.Proofs

open Sys2Proof Sys2Proof.Machine Sys2Proof.Laws Sys2Proof.Safety

variable {s t : State} {v : Nat}

/-! ### An entry begins (R395, R397) -/

/-- The power manager at the begin of an entry, before the instances are told. -/
def entered (st : Nat) (s : State) : State :=
  { s with pwr := { s.pwr with
    target := st, fromState := s.pwr.state, phase := if st = 3 then 2 else 1, agreed := 0, reqAt := s.quartz
    pendingReq := none, dozeFloor := decide (st = 2), stowFloor := decide (st = 3)
    dirtyCap := if st = 3 then some 64 else none } }

/-- The begin with the instances told of a change of the floors. -/
def enteredTold (st : Nat) (s : State) : State :=
  if floorHold (entered st s) = floorHold s then entered st s else notifyDerate st (entered st s)

theorem enter_eq (st : Nat) (s : State) :
    enter st s = if st = 3 then forInsts padInst (enteredTold st s) else enteredTold st s := rfl

theorem enteredTold_transported (st : Nat) (s : State) : Transported (entered st s) (enteredTold st s) :=
  Transported.ite (.refl _) (notifyDerate_transported ..)

theorem pwr_enteredTold (st : Nat) (s : State) : (enteredTold st s).pwr = (entered st s).pwr :=
  (proj_of_transported State.pwr (enteredTold_transported st s) :)

theorem med_enteredTold (st : Nat) (s : State) : (enteredTold st s).med = s.med :=
  (proj_of_transported State.med (enteredTold_transported st s) :)

theorem jrn_enteredTold (st : Nat) (s : State) : (enteredTold st s).jrn = s.jrn :=
  (proj_of_transported State.jrn (enteredTold_transported st s) :)

/-! ### TRIM ends (R394, R395) -/

/-- TRIM begins or ends with the state alone, of what the power manager holds. -/
theorem pwr_setTrim (on : Bool) (s : State) : (setTrim on s).pwr = { s.pwr with state := if on then 1 else 0 } :=
  (proj_of_transported State.pwr (notifyDerate_transported ..) :)

theorem sys_setTrim (on : Bool) (s : State) : (setTrim on s).sys = s.sys :=
  (proj_of_transported State.sys (notifyDerate_transported ..) :)

theorem quartz_setTrim (on : Bool) (s : State) : (setTrim on s).quartz = s.quartz :=
  (proj_of_transported State.quartz (notifyDerate_transported ..) :)

/-- The core request at the end of TRIM: at least what RUN allows (R230). -/
def runRequested (s : State) : State := requestTo (max s.sys.vreq (floorMv s)) s

theorem runRequested_shape (s : State) : ∃ v l c,
    runRequested s = { s with sys := { s.sys with vreq := v, vsteps := l }, cfl := c } := requestTo_shape ..

/-- The cause of a wake stands in PWR_LASTWAKE and PWR_WAKETIME; the rest is its record (R404). -/
theorem recordWake_recorded (src detail before : Nat) (s : State) : Recorded { s with pwr := { s.pwr with
    wakeSource := src, wakeDetail := detail % 256, wakeFrom := before, wakeTime := s.quartz } }
      (recordWake src detail before s) := notice_recorded ..

theorem pwr_recordWake (src detail before : Nat) (s : State) : (recordWake src detail before s).pwr = { s.pwr with
    wakeSource := src, wakeDetail := detail % 256, wakeFrom := before, wakeTime := s.quartz } :=
  (proj_of_recorded State.pwr (recordWake_recorded ..) :)

theorem exitTrim_eq (s : State) :
    exitTrim s = tally noInst 0x0109 5 1 (recordWake 9 0 1 (runRequested (setTrim false s))) := rfl

theorem pwr_exitTrim (s : State) : (exitTrim s).pwr =
    { s.pwr with state := 0, wakeSource := 9, wakeDetail := 0, wakeFrom := 1, wakeTime := s.quartz } := by
  obtain ⟨_, _, _, hshape⟩ := runRequested_shape (setTrim false s)
  rw [exitTrim_eq, proj_of_recorded State.pwr (tally_recorded ..)]
  dsimp only
  rw [pwr_recordWake, hshape]
  dsimp only
  rw [pwr_setTrim, quartz_setTrim]
  rfl

theorem sys_exitTrim (s : State) : (exitTrim s).sys = (runRequested (setTrim false s)).sys :=
  (proj_of_recorded State.sys (Recorded.app (tally_recorded ..) (recordWake_recorded ..)) :)

/-- In RUN the request is at least 0.72 V again (R21, R230). -/
theorem vreq_exitTrim (hboot : s.sys.boot = .run) (havs : s.sys.avsStopped = false) : 720 ≤ (exitTrim s).sys.vreq := by
  have hfloor := floorMv_other (s := setTrim false s) (by rw [pwr_setTrim]; nofun)
  rw [sys_exitTrim, runRequested, vreq_requestTo ((congrArg Sys.boot (sys_setTrim false s)).trans hboot)
    ((congrArg Sys.avsStopped (sys_setTrim false s)).trans havs)]
  omega

/-! ### PWR_REQ (R393, R401) -/

theorem exec_pwrReq {c : U32 → Instr} (h : c ∈ [Instr.pwrReqRun, .pwrReqTrim, .pwrReqDoze, .pwrReqStow]) (v : U32)
    (s : State) : exec (c v) s = .next (settle (pwrReq v.toNat s)) := by
  simp only [List.mem_cons, List.not_mem_nil, or_false] at h
  rcases h with rfl | rfl | rfl | rfl
  all_goals rfl

theorem pwrReq_keyless (h : bits v 16 16 ≠ 0x50E5) : pwrReq v s = regRefused 0x00100004 v s := if_pos (by simp [h])

/-- Behind an entry or in an exit a request for RUN waits, and any other is refused (R401). -/
theorem pwrReq_underWay (hkey : bits v 16 16 = 0x50E5) (hlo : 1 ≤ s.pwr.phase) (hhi : s.pwr.phase ≤ 5) :
    pwrReq v s = if bits v 0 2 = 0 then { s with pwr := { s.pwr with pendingReq := some 0 } }
      else regRefused 0x00100004 v s := by
  have hbusy : (inEntry s || decide (s.pwr.phase = 5)) = true := by
    simp only [inEntry, Bool.or_eq_true, Bool.and_eq_true, decide_eq_true_eq]
    omega
  unfold pwrReq
  dsimp only
  rw [if_neg (by simp [hkey]), if_pos hbusy]

/-- With nothing under way a request is refused, or it begins an entry or an exit (R393). -/
theorem pwrReq_idle (hkey : bits v 16 16 = 0x50E5) (hphase : s.pwr.phase = 0) :
    pwrReq v s = if bits v 0 2 = s.pwr.state ∨ permitted s (bits v 0 2) = false then regRefused 0x00100004 v s
      else if bits v 0 2 = 0 then (if s.pwr.state = 1 then exitTrim s else wake 9 0 s)
      else if 2 ≤ s.pwr.state then regRefused 0x00100004 v s else enter (bits v 0 2) s := by
  unfold pwrReq
  dsimp only
  rw [if_neg (by simp [hkey]), if_neg (by simp [inEntry, hphase])]
  simp only [Bool.or_eq_true, decide_eq_true_eq, Bool.not_eq_true']

theorem pwrReq_refused (hkey : bits v 16 16 = 0x50E5) (hphase : s.pwr.phase = 0)
    (h : bits v 0 2 = s.pwr.state ∨ permitted s (bits v 0 2) = false) : pwrReq v s = regRefused 0x00100004 v s :=
  (pwrReq_idle hkey hphase).trans (if_pos h)

theorem pwrReq_enters (hkey : bits v 16 16 = 0x50E5) (hphase : s.pwr.phase = 0) (hawake : s.pwr.state < 2)
    (hother : bits v 0 2 ≠ s.pwr.state) (hpermit : permitted s (bits v 0 2) = true) (hst : bits v 0 2 ≠ 0) :
    pwrReq v s = enter (bits v 0 2) s := by
  rw [pwrReq_idle hkey hphase, if_neg (by simp [hother, hpermit]), if_neg hst, if_neg (by omega)]

theorem pwrReq_run (hkey : bits v 16 16 = 0x50E5) (hphase : s.pwr.phase = 0) (hstate : s.pwr.state ≠ 0)
    (hst : bits v 0 2 = 0) : pwrReq v s = if s.pwr.state = 1 then exitTrim s else wake 9 0 s := by
  have hgoes : ¬ (bits v 0 2 = s.pwr.state ∨ permitted s (bits v 0 2) = false) := by
    rw [hst]
    simp [permitted, hstate.symm]
  rw [pwrReq_idle hkey hphase, if_neg hgoes, if_pos hst]

/-! ### PWR_POLICY (R395) and the idle policy (R396) -/

theorem pwrPolicy_refused (h : bits v 1 15 < 1 ∨ 30000 < bits v 1 15 ∨ bits v 16 10 < 1 ∨ 1000 < bits v 16 10 ∨
    (bit v 0 = true ∧ permitted s 2 = false)) : pwrPolicy v s = regRefused 0x00100008 v s :=
  if_pos (by simpa [or_assoc] using h)

/-- What is in range is in force, and the instances are told of a change of the floors (R395). -/
theorem pwrPolicy_taken (hmsLo : 1 ≤ bits v 1 15) (hmsHi : bits v 1 15 ≤ 30000) (htLo : 1 ≤ bits v 16 10)
    (htHi : bits v 16 10 ≤ 1000) (hpermit : bit v 0 = true → permitted s 2 = true) :
    Transported { s with pwr := { s.pwr with idleEn := bit v 0, idleMs := bits v 1 15, timerS := bits v 16 10 } }
      (pwrPolicy v s) := by
  unfold pwrPolicy
  dsimp only
  rw [if_neg]
  · exact Transported.ite (.refl _) (notifyDerate_transported ..)
  · simp only [Bool.or_eq_true, Bool.and_eq_true, decide_eq_true_eq, Bool.not_eq_true']
    rintro (h | ⟨hen, hdoze⟩)
    · omega
    · exact Bool.false_ne_true (hdoze.symm.trans (hpermit hen))

theorem exec_idleTimeout_enters (hboot : s.sys.boot = .run) (hpolicy : s.pwr.idleEn = true) (hawake : s.pwr.state < 2)
    (hphase : s.pwr.phase = 0) (happly : s.slt.state ≠ 4) (hpermit : permitted s 2 = true)
    (hidle : anyHeld s (fun _ => true) = false) : exec .idleTimeout s = .next (enter 2 s) :=
  congrArg Host.Outcome.next (if_pos (by simp [hboot, hpolicy, hawake, hphase, happly, hpermit, hidle]))

theorem exec_idleTimeout_stays (h : s.pwr.idleEn = false ∨ anyHeld s (fun _ => true) = true ∨ permitted s 2 = false) :
    exec .idleTimeout s = .next s := by
  refine congrArg Host.Outcome.next (if_neg ?_)
  rcases h with h | h | h
  all_goals simp [h]

end Sys2Proof.Proofs
end

section
/-! The statement of 15_power_thermal on the requests for a power state and the idle policy. -/

namespace Sys2Proof.Proofs

open Sys2Proof Sys2Proof.Machine Sys2Proof.Laws Sys2Proof.Safety

/-- Settles O25: a write of PWR_REQ by its case (`pwrReq_keyless` to `pwrReq_run`), an entry by `enter_eq`, the exit of TRIM by
`pwr_exitTrim`; the policy by `pwrPolicy_refused` and `pwrPolicy_taken`. -/
theorem powerRequestsAndPolicy : Obligations.PowerRequestsAndPolicy := by
  unfold Obligations.PowerRequestsAndPolicy
  refine ⟨?_, fun v s => ⟨fun h => congrArg Host.Outcome.next (pwrPolicy_refused h), fun hmsLo hmsHi htLo htHi hpermit => ?_⟩,
    fun s => ⟨fun hboot hpolicy hawake hphase happly hpermit hidle => ?_, exec_idleTimeout_stays⟩⟩
  · rintro c v s st hc rfl
    rw [exec_pwrReq hc]
    refine ⟨fun hkey => by rw [pwrReq_keyless hkey], fun hkey hphase => ⟨fun h => by rw [pwrReq_refused hkey hphase h],
      fun hawake hother hpermit hst => ?_, fun htrim hst => ?_, fun hdeep hst => ?_⟩,
      fun hkey hlo hhi => ⟨fun hst => ?_, fun hst => ?_⟩⟩
    · rw [pwrReq_enters hkey hphase hawake hother hpermit hst, enter_eq]
      refine ⟨rfl, enteredTold (bits v.toNat 0 2) s, rfl, ?_⟩
      rw [pwr_enteredTold]
      exact ⟨rfl, rfl, rfl, rfl, rfl, med_enteredTold .., jrn_enteredTold ..⟩
    · rw [pwrReq_run hkey hphase (by omega) hst, if_pos htrim]
      refine ⟨rfl, exitTrim s, rfl, ?_⟩
      rw [pwr_exitTrim]
      exact ⟨rfl, rfl, rfl, fun havs hboot => vreq_exitTrim hboot havs, (exitTrim_exitKept s).med⟩
    · rw [pwrReq_run hkey hphase (by omega) hst, if_neg (by omega)]
      refine ⟨rfl, wake 9 0 s, rfl, ?_⟩
      obtain ⟨_, hrec⟩ := wake_shape 9 0 s
      rw [pwr_wake_asleep hdeep hphase]
      exact ⟨rfl, rfl, rfl, rfl, (proj_of_recorded State.insts hrec :), wake_med 9 0 s⟩
    · rw [pwrReq_underWay hkey hlo hhi, if_pos hst]
    · rw [pwrReq_underWay hkey hlo hhi, if_neg hst]
  · have htold := pwrPolicy_taken hmsLo hmsHi htLo htHi hpermit
    refine ⟨pwrPolicy v.toNat s, rfl, ?_⟩
    rw [proj_of_transported State.pwr htold]
    exact ⟨rfl, rfl, rfl, rfl, (proj_of_transported State.med htold :), (proj_of_transported State.mgmt htold :)⟩
  · have hexec := exec_idleTimeout_enters hboot hpolicy hawake hphase happly hpermit hidle
    refine ⟨hexec, enteredTold 2 s, hexec, ?_⟩
    rw [pwr_enteredTold]
    exact ⟨rfl, rfl, rfl, rfl, med_enteredTold 2 s⟩

end Sys2Proof.Proofs
end

section
/-! SUPPORT. PREPARE and COMMIT (R394, R397–R400, R402): the cases of PREPARE, the end of an entry that is refused, and what the
COMMIT of a state latches and leaves. -/

namespace Sys2Proof.Proofs

open Sys2Proof Sys2Proof.Machine Sys2Proof.Laws Sys2Proof.Safety

variable {s t u : State} {o : PrepareOutcome}

/-! ### PREPARE (R397, R400) -/

/-- The participants are asked of the state in which STOW's erases are abandoned. -/
def prepared (s : State) : State := if s.pwr.target = 3 then abandonErases s else s

theorem prepared_shape (s : State) : ∃ m, prepared s = { s with med := m } := by
  unfold prepared
  split
  · exact ⟨_, rfl⟩
  · exact ⟨s.med, rfl⟩

theorem pwr_prepared (s : State) : (prepared s).pwr = s.pwr := (prepared_shape s).elim fun _ h => by rw [h]

theorem jrn_prepared (s : State) : (prepared s).jrn = s.jrn := (prepared_shape s).elim fun _ h => by rw [h]

theorem prepareEffect_waits (h : prepareReady s = false) : prepareEffect o s = s := if_pos (by simp [h])

theorem prepareEffect_ready (h : prepareReady s = true) : prepareEffect o s = match refuser (prepared s) o with
    | some d => tally noInst 0x0109 4 1 (endEntry 4 d (prepared s))
    | none => if (prepared s).pwr.target = 1 then commitTrim (prepared s) else commitDeep (prepared s) :=
  if_neg (by simp [h])

theorem prepareEffect_refused {d : Nat} (h : prepareReady s = true) (hrefuser : refuser (prepared s) o = some d) :
    prepareEffect o s = tally noInst 0x0109 4 1 (kickAll (closeEntry 4 d (prepared s))) := by
  rw [prepareEffect_ready h, hrefuser]
  rfl

theorem prepareEffect_agreed (h : prepareReady s = true) (hrefuser : refuser (prepared s) o = none) :
    prepareEffect o s = if s.pwr.target = 1 then commitTrim (prepared s) else commitDeep (prepared s) := by
  rw [prepareEffect_ready h, hrefuser, pwr_prepared]

/-- With no request waiting, an entry that ends keeps the state and leaves its cause (R400). -/
theorem pwr_closeEntry (h : s.pwr.pendingReq = none) (src detail : Nat) : (closeEntry src detail s).pwr = { s.pwr with
    phase := 0, target := 0, agreed := 0, dirtyCap := none, dozeFloor := false, stowFloor := false
    wakeSource := src, wakeDetail := detail % 256, wakeFrom := s.pwr.target, wakeTime := s.quartz } := by
  have hpwr : ∀ st, (dropFloors st (recordWake src detail s.pwr.target { s with pwr := { s.pwr with
      phase := 0, target := 0, agreed := 0, dirtyCap := none } })).pwr = _ := fun st => by
    rw [pwr_dropFloors, pwr_recordWake]
  rw [closeEntry, takePending_none]
  · exact hpwr _
  · rw [hpwr]
    exact h

theorem closeEntry_exitKept (src detail : Nat) (s : State) : ExitKept { s with pwr := { s.pwr with
    phase := 0, target := 0, agreed := 0, dirtyCap := none } } (closeEntry src detail s) :=
  (takePending_exitKept _).after ((dropFloors_exitKept ..).after (recordWake_exitKept ..))

/-! ### The hold lists (R399) -/

theorem takeHolds_length (p n : Nat) (s : State) : (takeHolds p n s).1.length ≤ n := by
  induction n generalizing s with
  | zero => exact Nat.le_refl 0
  | succ n ih =>
    unfold takeHolds
    split
    · exact Nat.zero_le _
    · exact Nat.succ_le_succ (ih _)

theorem takeHolds_accounted (p n : Nat) (s : State) : Accounted s (takeHolds p n s).2 := by
  induction n generalizing s with
  | zero => exact .refl s
  | succ n ih =>
    have halloc := allocBuf_accounted p p false s
    unfold takeHolds
    generalize allocBuf p p false s = r at halloc ⊢
    obtain ⟨_ | b, u⟩ := r
    · exact halloc
    · exact halloc.trans (ih u)

/-- Each port takes at most 512 buffers; of the rest the pools change, and what counts the failures (R352, R399). -/
theorem takeHoldLists_shape (s : State) : ∃ l, (∀ x ∈ l, x.length ≤ 512) ∧
    Accounted { s with pwr := { s.pwr with holdLists := l } } (takeHoldLists s) := by
  have hzero := takeHolds_accounted 0 (min 512 (poolFree s 0 - (poolAt s 0).min)) s
  have hzeroLen := takeHolds_length 0 (min 512 (poolFree s 0 - (poolAt s 0).min)) s
  unfold takeHoldLists
  generalize takeHolds 0 _ s = a at hzero hzeroLen ⊢
  have hone := hzero.trans (takeHolds_accounted 1 (min 512 (poolFree a.2 1 - (poolAt a.2 1).min)) a.2)
  have honeLen := takeHolds_length 1 (min 512 (poolFree a.2 1 - (poolAt a.2 1).min)) a.2
  dsimp only
  generalize takeHolds 1 _ a.2 = b at hone honeLen ⊢
  refine ⟨[a.1, b.1], ?_, ?_⟩
  · simp only [List.mem_cons, List.not_mem_nil, or_false, forall_eq_or_imp, forall_eq]
    omega
  · rw [proj_of_accounted State.pwr hone]
    exact (congrArg (fun z : State => { z with pwr := { s.pwr with holdLists := [a.1, b.1] } }) hone :)

/-! ### COMMIT of DOZE and STOW (R397–R399, R402, R403) -/

/-- The state switched: the pads latched, the DRAM channels in service in self-refresh. -/
def deepLatched (st : Nat) (s : State) : State :=
  { s with
    pwr := { s.pwr with state := st, target := 0, phase := 0, agreed := 0
                        retained := decide (st = 3), vreqKept := s.sys.vreq, exitCause := none }
    pins := { s.pins with media := if st = 3 then .latchedStow else .latchedDoze }
    dmc := { s.dmc with chs := s.dmc.chs.map fun c => if c.state = 1 then { c with state := 2 } else c } }

/-- STOW turns the map cache off and asks for 0.68 V (R400). -/
def stowSettled (st : Nat) (s : State) : State :=
  if st = 3 then requestTo 680 { s with
    mch := { s.mch with enable := false, invDone := false, lines := [], fills := [], locked := 0 } } else s

/-- Work accepted meanwhile, or a request that waited, starts the exit at once (R401, R403). -/
def exitIfOwed (s : State) : State :=
  if anyHeld s fun _ => true then wake 7 0 s
  else if s.pwr.pendingReq.isSome then wake 9 0 { s with pwr := { s.pwr with pendingReq := none } } else s

theorem commitDeep_eq (s : State) : commitDeep s =
    exitIfOwed (stowSettled s.pwr.target (notice kPower [] (deepLatched s.pwr.target (takeHoldLists s)))) := by
  unfold commitDeep exitIfOwed stowSettled deepLatched
  rfl

/-- What the rest of a COMMIT keeps of the state that is latched. -/
structure LatchKept (s t : State) : Prop where
  state : t.pwr.state = s.pwr.state
  holdLists : t.pwr.holdLists = s.pwr.holdLists
  dmc : t.dmc = s.dmc
  media : t.pins.media = s.pins.media
  insts : t.insts = s.insts
  jrn : t.jrn = s.jrn
  med : t.med = s.med

theorem LatchKept.refl (s : State) : LatchKept s s := ⟨rfl, rfl, rfl, rfl, rfl, rfl, rfl⟩

theorem LatchKept.trans (h : LatchKept s t) (k : LatchKept t u) : LatchKept s u where
  state := k.state.trans h.state
  holdLists := k.holdLists.trans h.holdLists
  dmc := k.dmc.trans h.dmc
  media := k.media.trans h.media
  insts := k.insts.trans h.insts
  jrn := k.jrn.trans h.jrn
  med := k.med.trans h.med

theorem LatchKept.of_recorded (h : Recorded s t) : LatchKept s t where
  state := (proj_of_recorded (fun u => u.pwr.state) h :)
  holdLists := (proj_of_recorded (fun u => u.pwr.holdLists) h :)
  dmc := (proj_of_recorded State.dmc h :)
  media := (proj_of_recorded (fun u => u.pins.media) h :)
  insts := (proj_of_recorded State.insts h :)
  jrn := (proj_of_recorded State.jrn h :)
  med := (proj_of_recorded State.med h :)

theorem LatchKept.ite {p : Prop} [Decidable p] (h : LatchKept s t) (k : LatchKept s u) :
    LatchKept s (if p then t else u) := by
  split
  · exact h
  · exact k

/-- A wake begins the exit, and has not left the state (R404). -/
theorem wake_latchKept (src detail : Nat) (s : State) : LatchKept s (wake src detail s) := by
  refine .ite (.refl s) (.ite (.ite ?_ (.refl s)) (.trans ?_ (.trans (.of_recorded (recordWake_recorded ..))
    (.of_recorded (tally_recorded ..)))))
  · exact ⟨rfl, rfl, rfl, rfl, rfl, rfl, rfl⟩
  · exact ⟨rfl, rfl, rfl, rfl, rfl, rfl, rfl⟩

theorem stowSettled_latchKept (st : Nat) (s : State) : LatchKept s (stowSettled st s) := by
  refine .ite ?_ (.refl s)
  obtain ⟨_, _, _, h⟩ := requestTo_shape 680 { s with
    mch := { s.mch with enable := false, invDone := false, lines := [], fills := [], locked := 0 } }
  rw [h]
  exact ⟨rfl, rfl, rfl, rfl, rfl, rfl, rfl⟩

theorem exitIfOwed_latchKept (s : State) : LatchKept s (exitIfOwed s) := by
  refine .ite (wake_latchKept ..) (.ite (.trans ?_ (wake_latchKept ..)) (.refl s))
  exact ⟨rfl, rfl, rfl, rfl, rfl, rfl, rfl⟩

theorem commitDeep_latchKept (s : State) : LatchKept (deepLatched s.pwr.target (takeHoldLists s)) (commitDeep s) := by
  rw [commitDeep_eq]
  exact .trans (.of_recorded (notice_recorded ..)) (.trans (stowSettled_latchKept ..) (exitIfOwed_latchKept _))

/-- A channel that was in service is in self-refresh. -/
theorem channels_deepLatched (st : Nat) (s : State) : ∀ c ∈ (deepLatched st s).dmc.chs, c.state ≠ 1 := by
  refine List.forall_mem_map.mpr fun c _ => ?_
  split
  next => nofun
  next h => exact h

/-! ### COMMIT of TRIM (R394) -/

/-- TRIM in force, before a request that waited. -/
def trimmed (s : State) : State :=
  setTrim true (notice kPower [] { s with pwr := { s.pwr with target := 0, phase := 0, agreed := 0 } })

theorem commitTrim_eq (s : State) : commitTrim s = if (trimmed s).pwr.pendingReq.isSome then
    exitTrim { trimmed s with pwr := { (trimmed s).pwr with pendingReq := none } } else trimmed s := rfl

theorem pwr_trimmed (s : State) : (trimmed s).pwr = { s.pwr with state := 1, target := 0, phase := 0, agreed := 0 } := by
  rw [trimmed, pwr_setTrim, proj_of_recorded State.pwr (notice_recorded ..)]
  rfl

theorem med_trimmed (s : State) : (trimmed s).med = s.med :=
  (setTrim_exitKept true _).med.trans (proj_of_recorded State.med (notice_recorded ..) :)

theorem commitTrim_stays (h : s.pwr.pendingReq = none) : commitTrim s = trimmed s := by
  rw [commitTrim_eq, if_neg (by simp [pwr_trimmed, h])]

theorem commitTrim_leaves (h : s.pwr.pendingReq ≠ none) :
    commitTrim s = exitTrim { trimmed s with pwr := { (trimmed s).pwr with pendingReq := none } } := by
  rw [commitTrim_eq, if_pos (by simpa [pwr_trimmed, Option.isSome_iff_ne_none] using h)]

end Sys2Proof.Proofs
end

section
/-! The statement of 15_power_thermal on PREPARE and COMMIT. -/

namespace Sys2Proof.Proofs

open Sys2Proof Sys2Proof.Machine Sys2Proof.Laws Sys2Proof.Safety

/-- Settles O27: PREPARE by its case (`prepareEffect_waits`, `prepareEffect_refused`, `prepareEffect_agreed`); COMMIT of DOZE and
STOW by what it keeps of the latched state (`commitDeep_latchKept`), COMMIT of TRIM by whether a request waited. -/
theorem prepareAndCommit : Obligations.PrepareAndCommit := by
  unfold Obligations.PrepareAndCommit
  refine ⟨?_, fun s htarget => ?_, fun s => ⟨fun hnone => ?_, fun hwaits => ?_, ?_, ?_⟩⟩
  · intro o s u hu
    obtain rfl : u = prepared s := hu
    refine ⟨fun h => congrArg (Host.Outcome.next ∘ settle) (prepareEffect_waits h), fun d h hrefuser =>
      ⟨congrArg (Host.Outcome.next ∘ settle) (prepareEffect_refused h hrefuser), fun hnone => ⟨_, rfl, ?_⟩⟩,
      fun h hrefuser htrim => ?_, fun h hrefuser hdeep => ?_⟩
    · rw [pwr_closeEntry (by rw [pwr_prepared, hnone]), pwr_prepared]
      exact ⟨rfl, rfl, rfl, rfl, (closeEntry_exitKept ..).jrn.trans (jrn_prepared s)⟩
    · exact congrArg (Host.Outcome.next ∘ settle) ((prepareEffect_agreed h hrefuser).trans (if_pos htrim))
    · exact congrArg (Host.Outcome.next ∘ settle) ((prepareEffect_agreed h hrefuser).trans (if_neg hdeep))
  · obtain ⟨l, hlen, htaken⟩ := takeHoldLists_shape s
    obtain ⟨hstate, hholds, hdmc, hmedia, hinsts, hjrn, hmed⟩ := commitDeep_latchKept s
    rw [hstate, hholds, hdmc, hmedia, hinsts, hjrn, hmed]
    generalize takeHoldLists s = u at htaken ⊢
    have hpwr := (proj_of_accounted (fun u => u.pwr.holdLists) htaken :)
    refine ⟨rfl, channels_deepLatched s.pwr.target u, rfl, ?_, (proj_of_accounted State.insts htaken :),
      (proj_of_accounted State.jrn htaken :), (proj_of_accounted State.med htaken :)⟩
    exact hpwr ▸ hlen
  · rw [commitTrim_stays hnone, pwr_trimmed]
  · rw [commitTrim_leaves hwaits, pwr_exitTrim]
  · by_cases h : s.pwr.pendingReq = none
    · rw [commitTrim_stays h, med_trimmed]
    · rw [commitTrim_leaves h, (exitTrim_exitKept _).med, med_trimmed]
  · by_cases h : s.pwr.pendingReq = none
    · rw [commitTrim_stays h, pwr_trimmed]
    · rw [commitTrim_leaves h, pwr_exitTrim, pwr_trimmed]

end Sys2Proof.Proofs
end

section
/-! SUPPORT. A step of the whole machine: the removal of power, or what every other step keeps. -/

namespace Sys2Proof.Proofs

open Sys2Proof Sys2Proof.Machine Sys2Proof.Laws Sys2Proof.Safety

variable {s t : State}

theorem pending_powerUp (s : State) : (powerUp s).pending = s.pending := (clearVolatile_keeps 0 s).pending

theorem powerUp_ringsOk (s : State) : RingsOk (powerUp s).obs := ⟨Nat.zero_le _, Nat.zero_le _⟩

theorem powerUp_buffersOk (h : BuffersOk s) : BuffersOk (powerUp s) := (clearVolatile_keeps 0 s).buffers h

/-- A step removes power, or keeps what every command and a tick of Quartz keep. -/
theorem step_keeps (h : step s = .next t) :
    (∃ rest, s.pending = .coldPowerUp :: rest ∧ t = powerUp { s with pending := rest }) ∨
      ∃ rest, KeepsBesidePort { s with pending := rest } t := by
  rcases step_next h with ⟨c, rest, hqueue, hexec⟩ | ⟨-, hidle⟩
  · by_cases hpower : c = .coldPowerUp
    · subst hpower
      cases hexec
      exact .inl ⟨rest, hqueue, rfl⟩
    · obtain ⟨u, hexec', hkeeps⟩ := exec_keepsBesidePort c { s with pending := rest } hpower
      rw [hexec] at hexec'
      cases hexec'
      exact .inr ⟨rest, hkeeps⟩
  · exact .inr ⟨s.pending, .of_keeps (idleTick_keeps s t hidle)⟩

end Sys2Proof.Proofs
end

section
/-! SUPPORT. What a tick of Quartz leaves of the time that it has advanced: counters, held frames, and the reports and messages
that it delivers (R7, R88, R149). -/

namespace Sys2Proof.Proofs

open Sys2Proof Sys2Proof.Machine Sys2Proof.Laws Sys2Proof.Safety

variable {s t u : State}

/-- Two states at the same Quartz time. -/
def SameTime (s t : State) : Prop := t.quartz = s.quartz

theorem SameTime.refl (s : State) : SameTime s s := rfl

theorem SameTime.trans (h : SameTime s t) (k : SameTime t u) : SameTime s u := Eq.trans k h

theorem SameTime.after (k : SameTime t u) (h : SameTime s t) : SameTime s u := h.trans k

theorem SameTime.ite {p : Prop} [Decidable p] (h : SameTime s t) (k : SameTime s u) :
    SameTime s (if p then t else u) := by
  split
  · exact h
  · exact k

theorem SameTime.foldl {α : Type} {f : State → α → State} (h : ∀ u a, SameTime u (f u a)) (l : List α) (s : State) :
    SameTime s (l.foldl f s) :=
  List.foldlRecOn _ _ (motive := SameTime s) (.refl s) fun u hu a _ => hu.trans (h u a)

theorem SameTime.of_transported (h : Transported s t) : SameTime s t := (proj_of_transported State.quartz h :)

theorem SameTime.of_recorded (h : Recorded s t) : SameTime s t := .of_transported (Recorded.transported h)

theorem SameTime.of_accounted (h : Accounted s t) : SameTime s t := (proj_of_accounted State.quartz h :)

theorem SameTime.of_released (h : Released s t) : SameTime s t := .of_accounted (.of_released h)

theorem tally_sameTime (target group field n : Nat) (s : State) : SameTime s (tally target group field n s) :=
  .of_recorded (tally_recorded ..)

/-! ### Tasks and their answers -/

theorem modTask_sameTime (i slot : Nat) (f : Task → Task) (s : State) : SameTime s (modTask i slot f s) := by
  unfold modTask
  split
  · exact .refl s
  · rfl

theorem escalate_sameTime (i : Nat) (s : State) : SameTime s (escalate i s) := by
  unfold escalate
  split
  · exact .refl s
  · refine .ite (.after (.of_transported (notify_transported ..)) (.after (tally_sameTime ..) ?_)) (.refl s)
    rfl

theorem missLate_sameTime (i slot : Nat) (k : Task) (s : State) : SameTime s (missLate i slot k s) := by
  unfold missLate
  dsimp only
  have htallied : SameTime s (tally noInst 0x0101 0 1 (tally i 0x0004 (20 + namedCause
      (tally i 0x0004 (k.op - 1) 1 s).quartz k - 1) 1 (tally i 0x0004 (k.op - 1) 1 s))) :=
    .after (tally_sameTime ..) (.after (tally_sameTime ..) (tally_sameTime ..))
  generalize tally noInst 0x0101 0 1 _ = u at htallied ⊢
  refine .after (escalate_sameTime ..) (.trans (.after (.of_recorded (eventAt_recorded ..)) ?_) (by rfl))
  exact htallied.trans (.ite (.after (.of_recorded (notice_recorded ..)) rfl) rfl)

theorem missTask_sameTime (i slot : Nat) (k : Task) (s : State) : SameTime s (missTask i slot k s) :=
  .ite (.after (tally_sameTime ..) (.after (tally_sameTime ..) rfl)) (missLate_sameTime ..)

theorem completionSent_sameTime (i slot : Nat) (k : Task) (c : Completion) (trl : Option Trailer) (late : Bool)
    (s : State) : SameTime s (completionSent i slot k c trl late s) := by
  have hkind : ∀ v, SameTime v (if k.op = 0x12 then tally i 0x0008 3 1 v else if k.op = 0x13 then tally i 0x0008 4 1 v
      else if k.op = 0x14 then tally i 0x0008 5 1 v else v) := fun v =>
    .ite (tally_sameTime ..) (.ite (tally_sameTime ..) (.ite (tally_sameTime ..) (.refl v)))
  have hmiss : ∀ v, SameTime v (if late then missTask i slot k v else v) := fun v =>
    .ite (missTask_sameTime ..) (.refl v)
  unfold completionSent
  dsimp only
  refine .after (hmiss _) (.after (hkind _) (.after (tally_sameTime ..) (.after (tally_sameTime ..) ?_)))
  exact .trans (.of_transported (sendOwned_transported ..)) (.ite (.of_recorded (keccakMsg_recorded ..)) (.refl _))

theorem completeTask_sameTime (i slot st result : Nat) (dropped : Bool) (s : State) :
    SameTime s (completeTask i slot st result dropped s) := by
  cases hheld : heldTask s i slot with
  | none =>
    unfold completeTask
    rw [hheld]
    exact .refl s
  | some k =>
    obtain ⟨x, hx, hslot⟩ := inst_of_heldTask hheld
    obtain ⟨trl, hcomplete⟩ := completeTask_eq hx hslot st result dropped
    rw [hcomplete]
    exact .after (completionSent_sameTime ..) (.after (.of_released (letGoAll_released ..)) rfl)

theorem sendBlock_sameTime (i slot b : Nat) (last : Bool) (s : State) : SameTime s (sendBlock i slot b last s) := by
  unfold sendBlock
  split
  · split
    · exact .refl s
    · exact (modTask_sameTime ..).trans (.of_transported (sendOwned_transported ..))
  · exact .refl s

theorem giveBuf_sameTime (i slot b half : Nat) (s : State) : SameTime s (giveBuf i slot b half s) := by
  unfold giveBuf
  split
  · exact .refl s
  · exact .ite (.refl s) ((SameTime.of_accounted (takeFirst_accounted ..)).trans (modTask_sameTime ..))

/-! ### Reports and messages (R138, R149, R150) -/

theorem sendReport_sameTime (i slot : Nat) (s : State) : SameTime s (sendReport i slot s) := by
  unfold sendReport
  split
  · exact .refl s
  · refine .after (completeTask_sameTime ..) (.after (.foldl (fun u b => ?_) _ _) (modTask_sameTime ..))
    exact (giveBuf_sameTime ..).trans (sendBlock_sameTime ..)

theorem deliverMessage_sameTime (i slot : Nat) (s : State) : SameTime s (deliverMessage i slot s) := by
  have hplaced : ∀ from' to' bytes v, SameTime v (placeMessage from' to' bytes v) := fun from' to' bytes v =>
    .after (.of_transported (notify_transported ..)) rfl
  unfold deliverMessage
  split
  · exact .refl s
  · dsimp only
    split
    · exact completeTask_sameTime ..
    · refine .ite (completeTask_sameTime ..) (.ite (completeTask_sameTime ..) (.after (completeTask_sameTime ..) ?_))
      exact (modTask_sameTime ..).trans (hplaced ..)

theorem readMailbox_sameTime (i slot : Nat) (s : State) : SameTime s (readMailbox i slot s) := by
  unfold readMailbox
  split
  · exact .refl s
  · split
    · exact completeTask_sameTime ..
    · exact .after (sendReport_sameTime ..) (.after (modTask_sameTime ..) rfl)

theorem deliverOne_sameTime (i slot : Nat) (seq : U32) (s : State) : SameTime s (deliverOne i slot seq s) := by
  have hqueued : SameTime s (queueDue i slot s) := by
    unfold queueDue
    split
    · exact .refl s
    · rfl
  unfold deliverOne
  split
  · exact .refl s
  · exact .ite (.refl s) (.ite hqueued (.ite (deliverMessage_sameTime ..) (.ite (readMailbox_sameTime ..)
      (sendReport_sameTime ..))))

theorem deliverDue_sameTime (s : State) : SameTime s (deliverDue s) :=
  .ite (.after (.foldl (fun _ _ => deliverOne_sameTime ..) _ _) rfl) (.refl s)

/-! ### The tick (R7) -/

theorem flushPaused_sameTime (l : Nat) (s : State) : SameTime s (flushPaused l s) :=
  .after (.foldl (fun _ _ => .of_transported (emit_transported ..)) _ _) rfl

theorem countTime_sameTime (s : State) : SameTime s (countTime s) :=
  .ite ((tally_sameTime ..).trans (tally_sameTime ..)) (.refl s)

/-- A tick advances Quartz by one, while the count is not spent. -/
theorem idleTick_advances (h : s.quartz + 1 < 2 ^ 64) : ∃ t, idleTick s = some t ∧ t.quartz = s.quartz + 1 := by
  unfold idleTick
  rw [if_pos h]
  refine ⟨_, rfl, ?_⟩
  have hcounted := countTime_sameTime { s with quartz := s.quartz + 1, sys := { s.sys with diagQueue := [0, 0] } }
  generalize countTime _ = u at hcounted ⊢
  have hchecked : SameTime u (if u.sys.boot = .run then checkpoint u else u) := .ite rfl (.refl u)
  exact hcounted.trans (hchecked.trans (.after (deliverDue_sameTime _) (.foldl (fun _ _ => flushPaused_sameTime ..) _ _)))

theorem idleTick_spent (h : 2 ^ 64 ≤ s.quartz + 1) : idleTick s = none := if_neg (Nat.not_lt.mpr h)

theorem step_ticks (h : s.pending = []) (hidle : idleTick s = some t) : step s = .next t := by
  rw [step, h]
  simp only [hidle]

theorem step_quartzSpent (h : s.pending = []) (hidle : idleTick s = none) : step s = .fault .quartzSpent := by
  rw [step, h]
  simp only [hidle]

end Sys2Proof.Proofs
end

section
/-! The statements on the queue and the whole machine: every step, and the tick of Quartz. -/

namespace Sys2Proof.Proofs

open Sys2Proof Sys2Proof.Machine Sys2Proof.Laws Sys2Proof.Safety

/-- Settles O6: power-up empties both rings, every other step keeps their bounds. -/
theorem recorderRingsKeepTheirBounds : Obligations.RecorderRingsKeepTheirBounds := by
  unfold Obligations.RecorderRingsKeepTheirBounds
  intro s t h hstep
  rcases step_keeps hstep with ⟨rest, -, rfl⟩ | ⟨rest, hkeeps⟩
  · exact powerUp_ringsOk _
  · exact hkeeps.rings h

/-- Settles O8: of the steps that keep the numbers from going back, power-up alone is none. -/
theorem recordNumbersNeverGoBack : Obligations.RecordNumbersNeverGoBack := by
  unfold Obligations.RecordNumbersNeverGoBack
  intro s t hpower hstep
  rcases step_keeps hstep with ⟨rest, hqueue, -⟩ | ⟨rest, hkeeps⟩
  · exact absurd (congrArg List.head? hqueue) hpower
  · exact hkeeps.seq

/-- Settles O7: power-up keeps the code flash as it is and empties the other memories, every other step keeps the form. -/
theorem addressedMemoriesStayCanonical : Obligations.AddressedMemoriesStayCanonical := by
  unfold Obligations.AddressedMemoriesStayCanonical
  intro s t h hstep
  rcases step_keeps hstep with ⟨rest, -, rfl⟩ | ⟨rest, hkeeps⟩
  · exact powerUp_buffersOk (s := { s with pending := rest }) h
  · exact hkeeps.buffers h

/-- Settles O3: COLD_POWER_UP by what it clears, every other command by `exec_keepsBesidePort`. -/
theorem everyCommandAnswersANextState : Obligations.EveryCommandAnswersANextState := by
  unfold Obligations.EveryCommandAnswersANextState
  intro c s
  by_cases hpower : c = .coldPowerUp
  · subst hpower
    exact ⟨powerUp s, rfl, pending_powerUp s⟩
  · obtain ⟨t, hexec, hkeeps⟩ := exec_keepsBesidePort c s hpower
    exact ⟨t, hexec, hkeeps.pending⟩

/-- Settles O1: `step` reads the queue alone before it runs the command. -/
theorem stepRunsTheFrontCommand : Obligations.StepRunsTheFrontCommand := by
  unfold Obligations.StepRunsTheFrontCommand
  exact fun _ _ _ => rfl

/-- Settles O2: a tick by `idleTick_advances`, which keeps the queue, or none by `idleTick_spent`. -/
theorem emptyQueueLetsOneNanosecondPass : Obligations.EmptyQueueLetsOneNanosecondPass := by
  unfold Obligations.EmptyQueueLetsOneNanosecondPass
  intro s hqueue
  refine ⟨fun hgoes => ?_, fun hspent => step_quartzSpent hqueue (idleTick_spent hspent)⟩
  obtain ⟨t, hidle, htime⟩ := idleTick_advances hgoes
  exact ⟨t, step_ticks hqueue hidle, htime, (idleTick_keeps s t hidle).pending.trans hqueue⟩

/-- Settles O4: right after reset the port holds IDCODE, the rings and the memories are empty. -/
theorem resetMeetsTheInvariants : Obligations.ResetMeetsTheInvariants := by
  unfold Obligations.ResetMeetsTheInvariants
  exact ⟨fun _ => rfl, ⟨Nat.zero_le _, Nat.zero_le _⟩, rfl, rfl, rfl, rfl, rfl⟩

end Sys2Proof.Proofs
end
